-- ==== Sys2Proof/Word.lean ====
section
/-! DEFINITION. The machine's words: scalars of 64 bits, vectors of 256 bytes (04 R258), each with its poison marks
(R233, R260), and sparse maps from numbers to plain data. -/
namespace Sys2Proof

/-- A byte of memory. -/
abbrev Byte := BitVec 8
/-- A 64-bit scalar (R5, R222). -/
abbrev Word := BitVec 64
/-- A word of code (R64). -/
abbrev Code := BitVec 32
/-- A 256-byte vector: byte i is bits 8i+7:8i (R258). -/
abbrev Vec := BitVec 2048

/-- A sparse map: pairs of a key and a value, keys rising, no pair holding the default. -/
abbrev Map (α : Type) := List (Nat × α)

/-- A scalar with its poison mark (R233). -/
structure Sc where
  v : Word
  p : Bool
deriving DecidableEq, Repr, Inhabited

/-- A vector with one poison mark per lane (R260). -/
structure Vc where
  v : Vec
  p : BitVec 64
deriving DecidableEq, Repr, Inhabited

/-- The unpoisoned zero scalar and vector, what every register and latch reads at launch (R23). -/
abbrev Sc.zero : Sc := ⟨0, false⟩
abbrev Vc.zero : Vc := ⟨0, 0⟩

end Sys2Proof
end

