-- ==== Sys2Proof/Config.lean ====
section
/-! DEFINITION. What the part fixes, and the free values: constants without a body for what the spec leaves open
(log 16, 18). -/
namespace Sys2Proof.Config

/-- R300: whether a get within two consumer cycles of a publish takes it into account is open. -/
opaque getSees : Nat → Bool
/-- R101, R160: the extra cycle of a crossing or an opening in a region not locked to the house reference. -/
opaque crossLate : Nat → Bool
/-- R152: how many sample periods, from 1 to 64, the synthesizer takes to move the grid back to its source. -/
opaque slewCycles : Nat → Nat
/-- The vendor's public key as bytes, the modulus and the exponent it encodes, and the digest of it that ROM holds (R360; log 16). -/
opaque vendorKey : List Byte
opaque rsaKey : List Byte → Nat × Nat
opaque romDigest : BitVec 512
/-- The signature of a report with the device identity key (R361), not computed here (log 16). -/
opaque signReport : List Byte → List Byte
/-- A nonce the mailbox issues (R363). -/
opaque nonce : Nat → BitVec 256

/-- The body that names a device, a nonce, a debug state and an expiry (R363), whose layout is not given. -/
opaque tokenBody : BitVec 256 → BitVec 256 → Nat → BitVec 64 → List Byte
/-- The signed maintenance sitting of the system queue, and its signature (R350, R360). -/
opaque maintBody : List Byte
opaque maintSig : List Byte

/-- What the signed configuration image names, its layout not being given (R357, R362): the Exier port of the house reference, and
the security state (0 open, 1 secure, 2 attested). -/
opaque houseSource : List Byte → Option Nat
/-- Per panel row the skipped physical column + 1, or 0 (R173). -/
opaque remapOf : List Byte → Nat → Nat
opaque security : List Byte → Nat

/-- The Exier port a job device is reached by, which the driver fixes (R38). -/
opaque exierPort : Nat → Nat
/-- The physical address of a local one on a core of another part, 1,024 · job device + core: what the Atelier resolves through that
part's segments (R39). -/
opaque remotePlace : Nat → Nat → Nat
/-- Syndromes and residues of errors (R339; log 101). -/
opaque syndrome : Nat → Nat
/-- Bytes of a vault row, which is not given (R351). -/
opaque rowBytes : Nat
/-- The 12 parity bytes of a flit's first 244 (R354), whose field polynomial is not given. -/
opaque fecParity : List Byte → List Byte
/-- The payload of a management message (R160, R354), whose layout is not given: whether it tells an arrival, an exchange phase's end, a
boundary, or the end of a boundary's steps (0 to 3), and the phase counter. -/
opaque message : Nat → Nat → List Byte
/-- What a write to the mailbox area asks for, its commands having no encoding (R329, R339, R353): a counter and the vector to bind it to,
a machine-check bank to clear. -/
opaque eventBinding : Nat → BitVec 64 → Option (Nat × Nat)
opaque bankClear : Nat → BitVec 64 → Option Nat
/-- The same of a core's self-test interval in fabric cycles, 0 for off (R350), and of a power limit in watts (R364). -/
opaque maintInterval : Nat → BitVec 64 → Option (Nat × Nat)
opaque powerLimit : Nat → BitVec 64 → Option Nat
/-- The round-trip delay a port measures at training, in units of 2^−16 tick (R357). -/
opaque roundTrip : Nat → Nat
/-- Fabric cycles in which a port retrains: within the 2 ms of R356 (log 83). -/
opaque retrain : Nat → Nat
/-- The forward error correction of a flit (R354, R355), whose field polynomial is not given: the corrected bytes, and whether it could. -/
opaque fec : List Byte → List Byte × Bool

/-- Cores of the logical grid (R2). -/
abbrev cores : Nat := 1024
/-- Fabric cycles per house tick (R99). -/
abbrev fabricPerTick : Nat := 8
/-- Fabric cycles of a ring lap (R99). -/
abbrev lap : Nat := 1104
/-- First byte past the scratchpad and the vault (R24). -/
abbrev scratchBytes : Nat := 0x400000
abbrev vaultBytes : Nat := 0x60000000
/-- System areas (R35). -/
abbrev frameBase : Nat := 0x3F0000
abbrev captureBase : Nat := 0x3F0800
abbrev handlerArea : Nat := 0x3F6800
abbrev ctxBase : Nat := 0x5C000000
abbrev ctxSize : Nat := 0x500000
abbrev undoBase : Nat := 0x5D400000
abbrev undoEntries : Nat := 262144
abbrev workBase : Nat := 0x5F400000

end Sys2Proof.Config
end

