-- ==== Sys2Proof/Syntax.lean ====
section
/-! DEFINITION. The steps of spec/opcode_table.json as syntax: one constructor per row. A bundle that holds exactly one
trigger, one move or one matrix command under a bare header is that row's constructor; any other bundle is
`bundleIssue` (log 4). A row without an encoding is an event: its arguments say where and with what it happens. -/
namespace Sys2Proof

/-- The fields of a move word other than its destination (R200): NEG, GUARD and SRC. -/
structure Trig where
  neg : Bool
  guard : BitVec 7
  src : BitVec 12
deriving DecidableEq, Repr, Inhabited

/-- A move word (R200). -/
structure MoveWord where
  neg : Bool
  guard : BitVec 7
  src : BitVec 12
  dst : BitVec 12
deriving DecidableEq, Repr, Inhabited

/-- The fields of the six matrix words but OP and the reserved bits (R207). -/
structure MxF where
  ta : BitVec 8
  tb : BitVec 8
  acc : BitVec 3
  mode : BitVec 2
  aaddr : BitVec 16
  baddr : BitVec 16
  astr : BitVec 16
  bstr : BitVec 16
  ks : BitVec 8
  gcnt : BitVec 8
  gtab : BitVec 16
  sa : BitVec 16
  sb : BitVec 16
  wmask : BitVec 16
  sig : BitVec 4
  sel : BitVec 4
  bw : Bool
  an : Bool
  scaled : Bool
  osat : Bool
deriving DecidableEq, Repr, Inhabited

/-- A matrix command: its opcode, its fields and the reserved bits of words 0 and 5 (R207). -/
structure MxCmd where
  op : BitVec 8
  f : MxF
  res0 : BitVec 3
  res5 : BitVec 4
deriving DecidableEq, Repr, Inhabited

/-- A bundle (R197): the header's SYNC, WAIT and CHECK, then its words. -/
structure Bundle where
  sync : Bool
  wait : BitVec 4
  check : Bool
  sm : List MoveWord
  vm : List MoveWord
  mx : Option MxCmd
  lits : List (BitVec 32)
deriving DecidableEq, Repr, Inhabited

/-- A trap: its cause, detail words, fate (0 re-execute, 1 next, 2 before) and partner mark (R309, R315); for consumed poison the trigger
or port concerned (R339). -/
structure Trap where
  code : Nat
  d0 : Word
  d1 : Word
  d2 : Word
  fate : Nat
  part : Bool
  unit : Nat
deriving DecidableEq, Repr, Inhabited

/-- A signed image or firmware: its body and its signature (R360). -/
structure Signed where
  body : List Byte
  sig : List Byte
deriving DecidableEq, Repr, Inhabited

/-- A debug unlock token (R363). -/
structure Token where
  device : BitVec 256
  nonce : BitVec 256
  state : Nat
  expiry : BitVec 64
  signed : Signed
deriving DecidableEq, Repr, Inhabited

/-- The rows of the opcode table. An event row without arguments happens at the core, domain, region, sitting, queue,
panel or port that the state's field `here` names; the rows with arguments stand first. -/
inductive Instr where
  /-- BUNDLE_ISSUE (R202). -/
  | bundleIssue (b : Bundle)
  /-- IDLE_BUNDLE (R198). -/
  | idleBundle (sync : Bool) (wait : BitVec 4) (check : Bool)
  /-- MOVE (R200). -/
  | move (v : Bool) (m : Trig) (dst : BitVec 12)
  /-- ADD (R234). -/
  | add (m : Trig) (u : Bool)
  /-- SUB (R234). -/
  | sub (m : Trig) (u : Bool)
  /-- RSB (R234). -/
  | rsb (m : Trig) (u : Bool)
  /-- AND (R234). -/
  | and (m : Trig) (u : Bool)
  /-- OR (R234). -/
  | or (m : Trig) (u : Bool)
  /-- XOR (R234). -/
  | xor (m : Trig) (u : Bool)
  /-- ANDN (R234). -/
  | andn (m : Trig) (u : Bool)
  /-- ORN (R234). -/
  | orn (m : Trig) (u : Bool)
  /-- XNOR (R234). -/
  | xnor (m : Trig) (u : Bool)
  /-- SHL (R234). -/
  | shl (m : Trig) (u : Bool)
  /-- SHR (R234). -/
  | shr (m : Trig) (u : Bool)
  /-- SAR (R234). -/
  | sar (m : Trig) (u : Bool)
  /-- ROL (R234). -/
  | rol (m : Trig) (u : Bool)
  /-- ROR (R234). -/
  | ror (m : Trig) (u : Bool)
  /-- MIN (R234). -/
  | min (m : Trig) (u : Bool)
  /-- MAX (R234). -/
  | max (m : Trig) (u : Bool)
  /-- MINN (R234). -/
  | minn (m : Trig) (u : Bool)
  /-- MAXN (R234). -/
  | maxn (m : Trig) (u : Bool)
  /-- SXB (R234). -/
  | sxb (m : Trig) (u : Bool)
  /-- SXH (R234). -/
  | sxh (m : Trig) (u : Bool)
  /-- SXW (R234). -/
  | sxw (m : Trig) (u : Bool)
  /-- ZXB (R234). -/
  | zxb (m : Trig) (u : Bool)
  /-- ZXH (R234). -/
  | zxh (m : Trig) (u : Bool)
  /-- ZXW (R234). -/
  | zxw (m : Trig) (u : Bool)
  /-- CLZ (R234). -/
  | clz (m : Trig) (u : Bool)
  /-- CTZ (R234). -/
  | ctz (m : Trig) (u : Bool)
  /-- POPC (R234). -/
  | popc (m : Trig) (u : Bool)
  /-- BSWAP (R234). -/
  | bswap (m : Trig) (u : Bool)
  /-- BREV (R234). -/
  | brev (m : Trig) (u : Bool)
  /-- PASS (R234). -/
  | pass (m : Trig) (u : Bool)
  /-- ADDSAT (R234). -/
  | addsat (m : Trig) (u : Bool)
  /-- SUBSAT (R234). -/
  | subsat (m : Trig) (u : Bool)
  /-- SEL (R234). -/
  | sel (m : Trig) (u : Bool)
  /-- EXT (R235). -/
  | ext (m : Trig) (u : Bool)
  /-- INS (R235). -/
  | ins (m : Trig) (u : Bool)
  /-- MUL (R236). -/
  | mul (m : Trig)
  /-- MULHI (R236). -/
  | mulhi (m : Trig)
  /-- MULHN (R236). -/
  | mulhn (m : Trig)
  /-- MAC (R236). -/
  | mac (m : Trig)
  /-- DIV (R236). -/
  | div (m : Trig)
  /-- DIVN (R236). -/
  | divn (m : Trig)
  /-- REM (R236). -/
  | rem (m : Trig)
  /-- REMN (R236). -/
  | remn (m : Trig)
  /-- EQ (R237). -/
  | eq (m : Trig)
  /-- NE (R237). -/
  | ne (m : Trig)
  /-- LT (R237). -/
  | lt (m : Trig)
  /-- LE (R237). -/
  | le (m : Trig)
  /-- LTN (R237). -/
  | ltn (m : Trig)
  /-- LEN (R237). -/
  | len (m : Trig)
  /-- TST (R237). -/
  | tst (m : Trig)
  /-- PAND (R237). -/
  | pand (m : Trig)
  /-- POR (R237). -/
  | por (m : Trig)
  /-- PXOR (R237). -/
  | pxor (m : Trig)
  /-- PANDN (R237). -/
  | pandn (m : Trig)
  /-- PNOT (R237). -/
  | pnot (m : Trig)
  /-- PCNT (R237). -/
  | pcnt (m : Trig)
  /-- PFIRST (R237). -/
  | pfirst (m : Trig)
  /-- PANY (R237). -/
  | pany (m : Trig)
  /-- PALL (R237). -/
  | pall (m : Trig)
  /-- PLANE (R237). -/
  | plane (m : Trig)
  /-- PMOV (R237). -/
  | pmov (m : Trig)
  /-- LDB (R238). -/
  | ldb (m : Trig)
  /-- LDBN (R238). -/
  | ldbn (m : Trig)
  /-- LDH (R238). -/
  | ldh (m : Trig)
  /-- LDHN (R238). -/
  | ldhn (m : Trig)
  /-- LDW (R238). -/
  | ldw (m : Trig)
  /-- LDWN (R238). -/
  | ldwn (m : Trig)
  /-- LDD (R238). -/
  | ldd (m : Trig)
  /-- STB (R238). -/
  | stb (m : Trig)
  /-- STH (R238). -/
  | sth (m : Trig)
  /-- STW (R238). -/
  | stw (m : Trig)
  /-- STD (R238). -/
  | std (m : Trig)
  /-- FENCE (R129). -/
  | fence (m : Trig)
  /-- AADD (R240). -/
  | aadd (m : Trig) (w : Bool)
  /-- AAND (R240). -/
  | aand (m : Trig) (w : Bool)
  /-- AOR (R240). -/
  | aor (m : Trig) (w : Bool)
  /-- AXOR (R240). -/
  | axor (m : Trig) (w : Bool)
  /-- AMIN (R240). -/
  | amin (m : Trig) (w : Bool)
  /-- AMAX (R240). -/
  | amax (m : Trig) (w : Bool)
  /-- AMINN (R240). -/
  | aminn (m : Trig) (w : Bool)
  /-- AMAXN (R240). -/
  | amaxn (m : Trig) (w : Bool)
  /-- ASWP (R240). -/
  | aswp (m : Trig) (w : Bool)
  /-- ACAS (R240). -/
  | acas (m : Trig) (w : Bool)
  /-- BRA (R243). -/
  | bra (m : Trig)
  /-- BRAI (R243). -/
  | brai (m : Trig)
  /-- CALL (R244). -/
  | call (m : Trig)
  /-- CALLI (R244). -/
  | calli (m : Trig)
  /-- RET (R244). -/
  | ret (m : Trig)
  /-- LOOP (R245). -/
  | loop (m : Trig)
  /-- LOOP_POP (R245). -/
  | loopPop (m : Trig)
  /-- HALT (R175). -/
  | halt (m : Trig)
  /-- TRAP (R247). -/
  | trap (m : Trig)
  /-- SYS (R247). -/
  | sys (m : Trig)
  /-- TASK_SERVICE (R333). -/
  | taskService (m : Trig)
  /-- TRET (R319). -/
  | tret (m : Trig)
  /-- BRK (R247). -/
  | brk (m : Trig)
  /-- SEMP (R248). -/
  | semp (m : Trig)
  /-- SEMW (R248). -/
  | semw (m : Trig)
  /-- WAITL (R249). -/
  | waitl (m : Trig)
  /-- WAITA (R249). -/
  | waita (m : Trig)
  /-- SYNCM (R167). -/
  | syncm (m : Trig)
  /-- OWN (R169). -/
  | own (m : Trig)
  /-- PHEND (R164). -/
  | phend (m : Trig)
  /-- CADST (R148). -/
  | cadst (m : Trig)
  /-- CADTK (R149). -/
  | cadtk (m : Trig)
  /-- RDC (R252). -/
  | rdc (m : Trig)
  /-- RDSR (R256). -/
  | rdsr (m : Trig)
  /-- WRSR (R256). -/
  | wrsr (m : Trig)
  /-- RWF (R250). -/
  | rwf (m : Trig)
  /-- RWE (R250). -/
  | rwe (m : Trig)
  /-- RCLM (R250). -/
  | rclm (m : Trig)
  /-- RFIL (R250). -/
  | rfil (m : Trig)
  /-- RTAK (R250). -/
  | rtak (m : Trig)
  /-- RREL (R250). -/
  | rrel (m : Trig)
  /-- XNOP (R242). -/
  | xnop (m : Trig)
  /-- VLD (R273). -/
  | vld (m : Trig)
  /-- VST (R273). -/
  | vst (m : Trig)
  /-- VLDX (R275). -/
  | vldx (m : Trig)
  /-- VSTX (R275). -/
  | vstx (m : Trig)
  /-- VLDB (R272). -/
  | vldb (m : Trig)
  /-- VSTB (R272). -/
  | vstb (m : Trig)
  /-- VLDW (R274). -/
  | vldw (m : Trig)
  /-- XGO (R293). -/
  | xgo (m : Trig)
  /-- XARM (R294). -/
  | xarm (m : Trig)
  /-- XST (R296). -/
  | xst (m : Trig)
  /-- XAB_ABORT (R295). -/
  | xabAbort (m : Trig)
  /-- XAB_DISARM (R295). -/
  | xabDisarm (m : Trig)
  /-- SWSET (R91). -/
  | swset (m : Trig)
  /-- SWGET (R91). -/
  | swget (m : Trig)
  /-- SWOFF (R91). -/
  | swoff (m : Trig)
  /-- XCPUT (R300). -/
  | xcput (m : Trig)
  /-- XCGET (R300). -/
  | xcget (m : Trig)
  /-- XCST (R301). -/
  | xcst (m : Trig)
  /-- CTXSV (R304). -/
  | ctxsv (m : Trig)
  /-- CTXLD (R304). -/
  | ctxld (m : Trig)
  /-- MCKR (R305). -/
  | mckr (m : Trig)
  /-- SBIST (R306). -/
  | sbist (m : Trig)
  /-- RCFG (R307). -/
  | rcfg (m : Trig)
  /-- VADD (R262). -/
  | vadd (m : Trig) (u : Bool)
  /-- VSUB (R262). -/
  | vsub (m : Trig) (u : Bool)
  /-- VMUL (R262). -/
  | vmul (m : Trig) (u : Bool)
  /-- VFMA (R262). -/
  | vfma (m : Trig) (u : Bool)
  /-- VFMS (R262). -/
  | vfms (m : Trig) (u : Bool)
  /-- VFNM (R262). -/
  | vfnm (m : Trig) (u : Bool)
  /-- VMIN (R262). -/
  | vmin (m : Trig) (u : Bool)
  /-- VMAX (R262). -/
  | vmax (m : Trig) (u : Bool)
  /-- VABS (R262). -/
  | vabs (m : Trig) (u : Bool)
  /-- VNEG (R262). -/
  | vneg (m : Trig) (u : Bool)
  /-- VAND (R263). -/
  | vand (m : Trig) (u : Bool)
  /-- VOR (R263). -/
  | vor (m : Trig) (u : Bool)
  /-- VXOR (R263). -/
  | vxor (m : Trig) (u : Bool)
  /-- VANDN (R263). -/
  | vandn (m : Trig) (u : Bool)
  /-- VSHL (R262). -/
  | vshl (m : Trig) (u : Bool)
  /-- VSHR (R262). -/
  | vshr (m : Trig) (u : Bool)
  /-- VSAR (R262). -/
  | vsar (m : Trig) (u : Bool)
  /-- VSEL (R263). -/
  | vsel (m : Trig) (u : Bool)
  /-- VCEQ (R264). -/
  | vceq (m : Trig) (u : Bool)
  /-- VCNE (R264). -/
  | vcne (m : Trig) (u : Bool)
  /-- VCLT (R264). -/
  | vclt (m : Trig) (u : Bool)
  /-- VCLE (R264). -/
  | vcle (m : Trig) (u : Bool)
  /-- VCLASS (R264). -/
  | vclass (m : Trig) (u : Bool)
  /-- VMOV (R263). -/
  | vmov (m : Trig) (u : Bool)
  /-- VMULH (R262). -/
  | vmulh (m : Trig) (u : Bool)
  /-- VABD (R262). -/
  | vabd (m : Trig) (u : Bool)
  /-- VCVT (R266). -/
  | vcvt (m : Trig)
  /-- VCVTSR (R266). -/
  | vcvtsr (m : Trig)
  /-- VMXQ (R268). -/
  | vmxq (m : Trig)
  /-- VMXD (R268). -/
  | vmxd (m : Trig)
  /-- VREDADD (R269). -/
  | vredadd (m : Trig)
  /-- VREDMAX (R269). -/
  | vredmax (m : Trig)
  /-- VREDMIN (R269). -/
  | vredmin (m : Trig)
  /-- VSCAN (R269). -/
  | vscan (m : Trig)
  /-- VPERM (R270). -/
  | vperm (m : Trig)
  /-- VROT (R270). -/
  | vrot (m : Trig)
  /-- VBCAST (R270). -/
  | vbcast (m : Trig)
  /-- VZIP (R270). -/
  | vzip (m : Trig)
  /-- VUNZIP (R270). -/
  | vunzip (m : Trig)
  /-- VPACK (R267). -/
  | vpack (m : Trig)
  /-- VUNPK (R267). -/
  | vunpk (m : Trig)
  /-- VEXP2 (R271). -/
  | vexp2 (m : Trig)
  /-- VLOG2 (R271). -/
  | vlog2 (m : Trig)
  /-- VRCP (R271). -/
  | vrcp (m : Trig)
  /-- VRSQ (R271). -/
  | vrsq (m : Trig)
  /-- VSQRT (R271). -/
  | vsqrt (m : Trig)
  /-- VSINT (R271). -/
  | vsint (m : Trig)
  /-- VCOST (R271). -/
  | vcost (m : Trig)
  /-- VTRUNC (R271). -/
  | vtrunc (m : Trig)
  /-- VROUND (R271). -/
  | vround (m : Trig)
  /-- VAADD (R241). -/
  | vaadd (m : Trig)
  /-- VAOR (R241). -/
  | vaor (m : Trig)
  /-- VAMAX (R241). -/
  | vamax (m : Trig)
  /-- VAMIN (R241). -/
  | vamin (m : Trig)
  /-- NB_SEND (R276). -/
  | nbSend (m : Trig) (side : BitVec 2)
  /-- MNOP (R287). -/
  | mnop (f : MxF)
  /-- MMA (R286). -/
  | mma (f : MxF)
  /-- MMAG (R286). -/
  | mmag (f : MxF)
  /-- MZERO (R287). -/
  | mzero (f : MxF)
  /-- MLD (R287). -/
  | mld (f : MxF)
  /-- MSAVE (R287). -/
  | msave (f : MxF)
  /-- MCMB (R288). -/
  | mcmb (f : MxF)
  /-- MRET (R288). -/
  | mret (f : MxF)
  /-- TRAP_ENTRY (R312). -/
  | trapEntry (c b : Nat) (t : Trap)
  /-- SAMPLE_ARRIVAL (R146). -/
  | sampleArrival (pin : Nat) (a b : BitVec 32)
  /-- REGION_RESTART (R154). -/
  | regionRestart (g : Nat) (a b : BitVec 32)
  /-- BEAT_MARKER (R357): HOUSE, and below it the phase within the tick in 2^−16 tick. -/
  | beatMarker (port : Nat) (house : BitVec 80)
  /-- RCFGA_WRITE (R143). -/
  | rcfgaWrite (g : Nat) (v : BitVec 64)
  /-- RCFGB_WRITE (R143). -/
  | rcfgbWrite (g : Nat) (v : BitVec 64)
  /-- XCFG_WRITE (R156). -/
  | xcfgWrite (x : Nat) (v : BitVec 64)
  /-- PINCFG_WRITE (R358). -/
  | pincfgWrite (p : Nat) (v : BitVec 64)
  /-- QBASE_WRITE (R325). -/
  | qbaseWrite (q : Nat) (v : BitVec 64)
  /-- QCFG_WRITE (R325). -/
  | qcfgWrite (q : Nat) (v : BitVec 64) (mc : Bool)
  /-- QTAIL_WRITE (R326). -/
  | qtailWrite (q : Nat) (v : BitVec 64)
  /-- EVENT_COUNTER_WRITE (R329). -/
  | eventCounterWrite (e : Nat) (v : BitVec 64)
  /-- HOST_WINDOW_REGISTER (R40). -/
  | hostWindowRegister (q w base len : Nat) (rd wr : Bool)
  /-- REGISTER_WRITE (R353). -/
  | registerWrite (off size : Nat) (v : BitVec 64)
  /-- HOST_VAULT_WRITE (R74). -/
  | hostVaultWrite (off : Nat) (bs : List (BitVec 8))
  /-- HOST_VAULT_READ (R75). -/
  | hostVaultRead (off n : Nat)
  /-- FATAL_ERROR (R337). -/
  | fatalError (ty : BitVec 8)
  /-- VAULT_ROW_REPAIR (R351). -/
  | vaultRowRepair (c row : Nat)
  /-- FLIT_RECEIVE (R355). -/
  | flitReceive (port : Nat) (bs : List (BitVec 8))
  /-- LANE_SPARE (R356). -/
  | laneSpare (port lane : Nat)
  /-- POWER_CAP (R364). -/
  | powerCap (r : List (Nat × Nat × Nat))
  /-- POWER_RESTORE (R364). -/
  | powerRestore (r : List (Nat × Nat × Nat))
  /-- POWER_GOOD (R359). -/
  | powerGood (fw : Signed)
  /-- START_STAGE_END (R359). -/
  | startStageEnd (img : Signed) (ok : Bool)
  /-- DEBUG_UNLOCK_TOKEN (R363). -/
  | debugUnlockToken (tok : Token)
  /-- ATTESTATION_REQUEST (R361). -/
  | attestationRequest (nonce : BitVec 256)
  /-- CAPPED_OR_CLAMPED (R151). -/
  | cappedOrClamped (g : Nat) (st : BitVec 3)
  /-- SOURCE_RETURNS_IN_HOLDOVER (R152). -/
  | sourceReturnsInHoldover (g : Nat) (a b : BitVec 32)
  /-- MIGRATE_UNMAP_OR_REPURPOSE_REQUEST (R44). -/
  | migrateUnmapOrRepurposeRequest (kind : Bool) (page : Nat)
  /-- RECOVERY_IMAGE_WRITE (R359). -/
  | recoveryImageWrite (fw : Signed)
  /-- DEBUG_STATE_REQUEST (R362). -/
  | debugStateRequest (st : Nat)
  /-- IDE_KEY_SETUP (R352). -/
  | ideKeySetup (key : BitVec 256)
  /-- RESULT_COMPLETE (R231). -/
  | resultComplete
  /-- SCRATCHPAD_WRITE (R50). -/
  | scratchpadWrite
  /-- VAULT_COMMIT (R68). -/
  | vaultCommit
  /-- RMW_SLOT (R58). -/
  | rmwSlot
  /-- INDEXED_LANE (R63). -/
  | indexedLane
  /-- RELEASE_TAKES_EFFECT (R128). -/
  | releaseTakesEffect
  /-- WAIT_END (R18). -/
  | waitEnd
  /-- SYNC_ISSUE (R166). -/
  | syncIssue
  /-- OWN_TRANSFER_COMPLETE (R169). -/
  | ownTransferComplete
  /-- SWSET_WRITE (R91). -/
  | swsetWrite
  /-- NB_ARRIVAL (R120). -/
  | nbArrival
  /-- BRUSH_ARRIVAL (R164). -/
  | brushArrival
  /-- RETIREMENT_DRAIN (R175). -/
  | retirementDrain
  /-- EXCHANGE_PHASE_OPEN (R160). -/
  | exchangePhaseOpen
  /-- EXCHANGE_PHASE_END (R114). -/
  | exchangePhaseEnd
  /-- COMPUTE_PHASE_OPEN (R161). -/
  | computePhaseOpen
  /-- BUDGET_EXPIRY (R171). -/
  | budgetExpiry
  /-- XE_ENTRY_FETCH (R109). -/
  | xeEntryFetch
  /-- XE_FLAG_SEM_EFFECT (R110). -/
  | xeFlagSemEffect
  /-- SLOT_INJECT (R103). -/
  | slotInject
  /-- SLOT_EJECT (R112). -/
  | slotEject
  /-- SLOT_RETURN (R103). -/
  | slotReturn
  /-- EARLY_BUFFER_DRAIN (R115). -/
  | earlyBufferDrain
  /-- REDUCE_APPLY (R117). -/
  | reduceApply
  /-- FLAG_SLOT_WRITE (R110). -/
  | flagSlotWrite
  /-- MATRIX_START (R279). -/
  | matrixStart
  /-- MATRIX_COMPLETE (R280). -/
  | matrixComplete
  /-- MMAG_TABLE_CHECK (R286). -/
  | mmagTableCheck
  /-- GRID_CYCLE (R146). -/
  | gridCycle
  /-- HOLDOVER_ENTRY (R152). -/
  | holdoverEntry
  /-- REGION_STOP (R153). -/
  | regionStop
  /-- BEAT_MARKER_SEND (R357). -/
  | beatMarkerSend
  /-- REFRESH_SLOT (R69). -/
  | refreshSlot
  /-- HOST_SLOT (R69). -/
  | hostSlot
  /-- HOST_BUFFER_COMMIT (R74). -/
  | hostBufferCommit
  /-- RECORD_PULL (R326). -/
  | recordPull
  /-- TASK_READY (R329). -/
  | taskReady
  /-- TASK_ADMISSION (R39). -/
  | taskAdmission
  /-- PRIORITY_AGING (R331). -/
  | priorityAging
  /-- TASK_COMPLETION (R335). -/
  | taskCompletion
  /-- POOL_REFILL (R334). -/
  | poolRefill
  /-- UNDO_LOG_THRESHOLD (R346). -/
  | undoLogThreshold
  /-- UNDO_LOG_OVERFLOW (R346). -/
  | undoLogOverflow
  /-- ROLLBACK (R348). -/
  | rollback
  /-- RESET (R337). -/
  | reset
  /-- LINK_DOWN (R355). -/
  | linkDown
  /-- PANEL_SLEEP_REQUEST (R362). -/
  | panelSleepRequest
  /-- DRAINING (R351). -/
  | draining
  /-- ABORTED_BY_THE_DRIVER (R335). -/
  | abortedByTheDriver
  /-- MAINTENANCE_SITTING_DUE (R350). -/
  | maintenanceSittingDue
  /-- PANEL_WAKE (R362). -/
  | panelWake
  /-- DEVICE_OFF_ENTRY (R362). -/
  | deviceOffEntry
  /-- DEVICE_OFF_EXIT (R362). -/
  | deviceOffExit
deriving DecidableEq, Repr

end Sys2Proof
end

