-- ==== Sys2Proof/Machine/Codes.lean ====
section
/-! DEFINITION. The code points of both spaces (11 R222 to R228), the type codes (09 R177) and the decoding checks 3 to 5
of R204. -/
namespace Sys2Proof.Machine

/-- The function units (R168, R220). -/
inductive FU where
  | a0 | a1 | sm | pl | ls | cu | rm | vl | xe | sw | xc | sys | va0 | va1 | vx | nb | mt
deriving DecidableEq, Repr

def inR (lo hi c : Nat) : Bool := decide (lo ≤ c) && decide (c ≤ hi)

/-- The unit an S-space trigger code starts (R225). -/
def sTrigUnit (c : Nat) : Option FU :=
  if inR 0x200 0x222 c then some .a0 else if inR 0x240 0x262 c then some .a1
  else if inR 0x280 0x287 c then some .sm else if inR 0x2A0 0x2B1 c then some .pl
  else if inR 0x2E0 0x2EB c then some .ls else if inR 0x320 0x33D c then some .cu
  else if inR 0x380 0x389 c || inR 0x390 0x399 c then some .rm
  else if inR 0x3B0 0x3B6 c then some .vl else if inR 0x3C0 0x3C3 c then some .xe
  else if inR 0x3D0 0x3D2 c then some .sw else if inR 0x3E0 0x3E2 c then some .xc
  else if inR 0x3F0 0x3F4 c then some .sys else none

/-- The unit a V-space trigger code starts (R228). -/
def vTrigUnit (c : Nat) : Option FU :=
  if inR 0x800 0x819 c then some .va0 else if inR 0x880 0x899 c then some .va1
  else if inR 0x900 0x917 c then some .vx else if inR 0x9C0 0x9C3 c then some .rm
  else if inR 0x9D0 0x9D3 c then some .nb else none

def trigUnit (v : Bool) (c : Nat) : Option FU := if v then vTrigUnit c else sTrigUnit c

/-- The S-space operand ports (R224). -/
def sPort (c : Nat) : Bool :=
  inR 0x100 0x102 c || inR 0x104 0x106 c || inR 0x108 0x109 c || c == 0x10C || c == 0x110 || c == 0x114
  || inR 0x118 0x119 c || inR 0x120 0x121 c || c == 0x124 || inR 0x128 0x129 c || inR 0x12C 0x12D c

def srcOk (v : Bool) (c : Nat) : Bool :=
  if v then decide (c < 0x3CC) || decide (0x800 ≤ c)
  else decide (c < 0xCC) || inR 0x3FD 0x3FF c || decide (0x800 ≤ c)

def dstOk (v : Bool) (c : Nat) : Bool :=
  if v then decide (c < 0x380) || inR 0x400 0x410 c || (vTrigUnit c).isSome
  else decide (c < 0xC0) || sPort c || (sTrigUnit c).isSome

/-- The null move 0x8000_0000 (R200). -/
def isNull (m : MoveWord) : Bool := m.neg && m.guard == 0 && m.src == 0 && m.dst == 0

/-- Literals a source needs (R201). -/
def litNeed (v : Bool) (c : Nat) : Nat :=
  if v then 0 else if c == 0x3FE then 1 else if c == 0x3FD || c == 0x3FF then 2 else 0

/-- Check 3 of R204 on one move: the reason and the offending code. Of a move that fails in several ways the source code comes first, then a
literal that is not there, then the destination code (DESIGN CHOICE; R204 orders moves, not the ways of one; log 106). -/
def codeFault (v : Bool) (lc : Nat) (m : MoveWord) : Option (Nat × Nat) :=
  if isNull m then none
  else if !srcOk v m.src.toNat then some (0, m.src.toNat)
  else if lc < litNeed v m.src.toNat then some (13, m.src.toNat)
  else if !dstOk v m.dst.toNat then some (0, m.dst.toNat)
  else none

/-- One number per destination; a predicate has the same in both spaces (R204 step 4). -/
def destKey (v : Bool) (c : Nat) : Nat :=
  if v then (if inR 0x300 0x37F c then c - 0x300 + 0x40 else 0x1000 + c) else c

/-- Check 4 of R204: a move against the earlier ones of its bundle. -/
def dupFault (seen : List (Bool × MoveWord)) (v : Bool) (m : MoveWord) : Option (Nat × Nat) :=
  if isNull m then none
  else if seen.any (fun e => !isNull e.2 && destKey e.1 e.2.dst.toNat == destKey v m.dst.toNat) then
    some (10, m.dst.toNat)
  else match trigUnit v m.dst.toNat with
    | none => none
    | some u =>
      if seen.any (fun e => !isNull e.2 && trigUnit e.1 e.2.dst.toNat == some u) then some (11, m.dst.toNat) else none

/-- The first failing move of a list, with its position counted from 1 after the header (R205). -/
def firstFault (f : Nat → α → Option (Nat × Nat)) : Nat → List α → Option (Nat × Nat × Nat)
  | _, [] => none
  | n, a :: l => match f n a with
    | some (r, c) => some (r, c, n)
    | none => firstFault f (n + 1) l

/-- The moves of a bundle in order, each with its space. -/
def bundleMoves (b : Bundle) : List (Bool × MoveWord) :=
  b.sm.map (fun m => (false, m)) ++ b.vm.map (fun m => (true, m))

/-! ### Type codes -/

/-- Implemented type codes (R177). -/
def tyImpl (t : Nat) : Bool :=
  inR 0x03 0x06 t || inR 0x23 0x26 t || inR 0x40 0x42 t
  || inR 0x81 0x87 t || inR 0x91 0x97 t || inR 0xA1 0xA7 t || inR 0xB1 0xB7 t

def tyInt (t : Nat) : Bool := inR 0x03 0x06 t || inR 0x23 0x26 t
def tyFloat (t : Nat) : Bool := inR 0x40 0x42 t
def tyB8 (t : Nat) : Bool := tyImpl t && decide (0x80 ≤ t)
/-- Signed integers and signed binary8 (R177, bit S). -/
def tySigned (t : Nat) : Bool := t / 32 % 2 == 1
/-- Bytes of an element; 4 where the code is not implemented (R19). -/
def tyBytes (t : Nat) : Nat :=
  if tyInt t then 2 ^ (t % 8 - 3) else if t == 0x42 then 4 else if tyFloat t then 2 else if tyB8 t then 1 else 4

/-! ### Matrix words (R207, R281, R282) -/

/-- Fields that an opcode does not use, by matrix word: the words whose unused fields are nonzero. -/
def mxUnused (c : MxCmd) : List Bool :=
  let f := c.f
  let op := c.op.toNat
  let mul := op == 1 || op == 2
  let z8 (x : BitVec 8) := x != 0
  let z16 (x : BitVec 16) := x != 0
  let aU := (op == 1 && !f.an) || op == 2 || op == 4 || op == 5 || (op == 6 && f.sel == 8) || op == 7
  let saU := (mul && f.scaled) || (op == 7 && (f.sel == 2 || f.sel == 3))
  [ (!(mul || op == 7) && z8 f.ta) || (!mul && z8 f.tb) || (op == 0 && f.acc != 0) || (!mul && f.mode != 0),
    (!aU && z16 f.aaddr) || (!(op == 1 && !f.bw) && z16 f.baddr),
    (!((op == 1 && !f.an) || op == 2 || op == 7) && z16 f.astr) || (!((op == 1 && !f.bw) || op == 2) && z16 f.bstr),
    (!mul && z8 f.ks) || (op != 2 && (z8 f.gcnt || z16 f.gtab)),
    (!saU && z16 f.sa) || (!(mul && f.scaled) && z16 f.sb),
    (!(op == 6 || op == 7) && f.sel != 0) || (op != 1 && (f.bw || f.an)) || (!mul && f.scaled) || (op != 7 && f.osat) ]

/-- Used fields beyond their limits, by matrix word (reason 26). -/
def mxLimit (c : MxCmd) : List Bool :=
  let f := c.f
  let op := c.op.toNat
  [ false, false,
    op == 7 && f.astr != 0 && decide (f.astr.toNat * 64 < 32 * tyBytes f.ta.toNat),
    ((op == 1 || op == 2) && f.ks == 0) || (op == 2 && !inR 1 64 f.gcnt.toNat),
    false,
    (op == 6 && decide (8 < f.sel.toNat)) || (op == 7 && decide (3 < f.sel.toNat)) ]

/-- Check 5 of R204: the reason and the matrix word. -/
def mxFault (c : MxCmd) : Option (Nat × Nat) :=
  if 7 < c.op.toNat || 1 < c.f.mode.toNat || c.res0 != 0 then some (12, 0)
  else match (mxUnused c).idxOf? true with
    | some i => some (12, i)
    | none =>
      if c.res5 != 0 then some (12, 5)
      else (mxLimit c).idxOf? true |>.map (fun i => (26, i))

/-- The illegal transport of a reason, code and position (R205). -/
def illegal (reason code pos : Nat) : Trap := ⟨0x02, BitVec.ofNat 64 code, BitVec.ofNat 64 reason, BitVec.ofNat 64 pos, 0, false, 0⟩

/-- Checks 3 to 5 of R204 on a bundle. -/
def bundleFault (b : Bundle) : Option Trap :=
  let ms := bundleMoves b
  match firstFault (fun _ (e : Bool × MoveWord) => codeFault e.1 b.lits.length e.2) 1 ms with
  | some (r, c, n) => some (illegal r c n)
  | none =>
    match firstFault (fun n (e : Bool × MoveWord) => dupFault (ms.take (n - 1)) e.1 e.2) 1 ms with
    | some (r, c, n) => some (illegal r c n)
    | none => match b.mx with
      | none => none
      | some c => (mxFault c).map (fun p => illegal p.1 c.op.toNat (ms.length + 1 + p.2))

/-- Words a header announces, itself included (R197). -/
def headerWords (h : BitVec 32) : Nat :=
  1 + (h.extractLsb' 29 3).toNat + (if h.getLsbD 28 then 3 else 0) + (if h.getLsbD 27 then 6 else 0) + (h.extractLsb' 25 2).toNat

/-- Words of a bundle (R197). -/
def bundleLen (b : Bundle) : Nat := 1 + b.sm.length + b.vm.length + (if b.mx.isSome then 6 else 0) + b.lits.length

/-! ### The bundle of each row -/

/-- The space, the guarded source and the trigger code of a row that is one trigger move (R225, R228). -/
def trigOf : Instr → Option (Bool × Trig × Nat)
  | .add m u => some (false, m, if u then 0x240 else 0x200)
  | .sub m u => some (false, m, if u then 0x241 else 0x201)
  | .rsb m u => some (false, m, if u then 0x242 else 0x202)
  | .and m u => some (false, m, if u then 0x243 else 0x203)
  | .or m u => some (false, m, if u then 0x244 else 0x204)
  | .xor m u => some (false, m, if u then 0x245 else 0x205)
  | .andn m u => some (false, m, if u then 0x246 else 0x206)
  | .orn m u => some (false, m, if u then 0x247 else 0x207)
  | .xnor m u => some (false, m, if u then 0x248 else 0x208)
  | .shl m u => some (false, m, if u then 0x249 else 0x209)
  | .shr m u => some (false, m, if u then 0x24A else 0x20A)
  | .sar m u => some (false, m, if u then 0x24B else 0x20B)
  | .rol m u => some (false, m, if u then 0x24C else 0x20C)
  | .ror m u => some (false, m, if u then 0x24D else 0x20D)
  | .min m u => some (false, m, if u then 0x24E else 0x20E)
  | .max m u => some (false, m, if u then 0x24F else 0x20F)
  | .minn m u => some (false, m, if u then 0x250 else 0x210)
  | .maxn m u => some (false, m, if u then 0x251 else 0x211)
  | .sxb m u => some (false, m, if u then 0x252 else 0x212)
  | .sxh m u => some (false, m, if u then 0x253 else 0x213)
  | .sxw m u => some (false, m, if u then 0x254 else 0x214)
  | .zxb m u => some (false, m, if u then 0x255 else 0x215)
  | .zxh m u => some (false, m, if u then 0x256 else 0x216)
  | .zxw m u => some (false, m, if u then 0x257 else 0x217)
  | .clz m u => some (false, m, if u then 0x258 else 0x218)
  | .ctz m u => some (false, m, if u then 0x259 else 0x219)
  | .popc m u => some (false, m, if u then 0x25A else 0x21A)
  | .bswap m u => some (false, m, if u then 0x25B else 0x21B)
  | .brev m u => some (false, m, if u then 0x25C else 0x21C)
  | .pass m u => some (false, m, if u then 0x25D else 0x21D)
  | .addsat m u => some (false, m, if u then 0x25E else 0x21E)
  | .subsat m u => some (false, m, if u then 0x25F else 0x21F)
  | .sel m u => some (false, m, if u then 0x260 else 0x220)
  | .ext m u => some (false, m, if u then 0x261 else 0x221)
  | .ins m u => some (false, m, if u then 0x262 else 0x222)
  | .mul m => some (false, m, 0x280)
  | .mulhi m => some (false, m, 0x281)
  | .mulhn m => some (false, m, 0x282)
  | .mac m => some (false, m, 0x283)
  | .div m => some (false, m, 0x284)
  | .divn m => some (false, m, 0x285)
  | .rem m => some (false, m, 0x286)
  | .remn m => some (false, m, 0x287)
  | .eq m => some (false, m, 0x2A0)
  | .ne m => some (false, m, 0x2A1)
  | .lt m => some (false, m, 0x2A2)
  | .le m => some (false, m, 0x2A3)
  | .ltn m => some (false, m, 0x2A4)
  | .len m => some (false, m, 0x2A5)
  | .tst m => some (false, m, 0x2A6)
  | .pand m => some (false, m, 0x2A7)
  | .por m => some (false, m, 0x2A8)
  | .pxor m => some (false, m, 0x2A9)
  | .pandn m => some (false, m, 0x2AA)
  | .pnot m => some (false, m, 0x2AB)
  | .pcnt m => some (false, m, 0x2AC)
  | .pfirst m => some (false, m, 0x2AD)
  | .pany m => some (false, m, 0x2AE)
  | .pall m => some (false, m, 0x2AF)
  | .plane m => some (false, m, 0x2B0)
  | .pmov m => some (false, m, 0x2B1)
  | .ldb m => some (false, m, 0x2E0)
  | .ldbn m => some (false, m, 0x2E1)
  | .ldh m => some (false, m, 0x2E2)
  | .ldhn m => some (false, m, 0x2E3)
  | .ldw m => some (false, m, 0x2E4)
  | .ldwn m => some (false, m, 0x2E5)
  | .ldd m => some (false, m, 0x2E6)
  | .stb m => some (false, m, 0x2E7)
  | .sth m => some (false, m, 0x2E8)
  | .stw m => some (false, m, 0x2E9)
  | .std m => some (false, m, 0x2EA)
  | .fence m => some (false, m, 0x2EB)
  | .aadd m w => some (false, m, if w then 0x390 else 0x380)
  | .aand m w => some (false, m, if w then 0x391 else 0x381)
  | .aor m w => some (false, m, if w then 0x392 else 0x382)
  | .axor m w => some (false, m, if w then 0x393 else 0x383)
  | .amin m w => some (false, m, if w then 0x394 else 0x384)
  | .amax m w => some (false, m, if w then 0x395 else 0x385)
  | .aminn m w => some (false, m, if w then 0x396 else 0x386)
  | .amaxn m w => some (false, m, if w then 0x397 else 0x387)
  | .aswp m w => some (false, m, if w then 0x398 else 0x388)
  | .acas m w => some (false, m, if w then 0x399 else 0x389)
  | .bra m => some (false, m, 0x320)
  | .brai m => some (false, m, 0x321)
  | .call m => some (false, m, 0x322)
  | .calli m => some (false, m, 0x323)
  | .ret m => some (false, m, 0x324)
  | .loop m => some (false, m, 0x325)
  | .loopPop m => some (false, m, 0x325)
  | .halt m => some (false, m, 0x326)
  | .trap m => some (false, m, 0x327)
  | .sys m => some (false, m, 0x328)
  | .taskService m => some (false, m, 0x328)
  | .tret m => some (false, m, 0x329)
  | .brk m => some (false, m, 0x32A)
  | .semp m => some (false, m, 0x32B)
  | .semw m => some (false, m, 0x32C)
  | .waitl m => some (false, m, 0x32D)
  | .waita m => some (false, m, 0x32E)
  | .syncm m => some (false, m, 0x32F)
  | .own m => some (false, m, 0x330)
  | .phend m => some (false, m, 0x331)
  | .cadst m => some (false, m, 0x332)
  | .cadtk m => some (false, m, 0x333)
  | .rdc m => some (false, m, 0x334)
  | .rdsr m => some (false, m, 0x335)
  | .wrsr m => some (false, m, 0x336)
  | .rwf m => some (false, m, 0x337)
  | .rwe m => some (false, m, 0x338)
  | .rclm m => some (false, m, 0x339)
  | .rfil m => some (false, m, 0x33A)
  | .rtak m => some (false, m, 0x33B)
  | .rrel m => some (false, m, 0x33C)
  | .xnop m => some (false, m, 0x33D)
  | .vld m => some (false, m, 0x3B0)
  | .vst m => some (false, m, 0x3B1)
  | .vldx m => some (false, m, 0x3B2)
  | .vstx m => some (false, m, 0x3B3)
  | .vldb m => some (false, m, 0x3B4)
  | .vstb m => some (false, m, 0x3B5)
  | .vldw m => some (false, m, 0x3B6)
  | .xgo m => some (false, m, 0x3C0)
  | .xarm m => some (false, m, 0x3C1)
  | .xst m => some (false, m, 0x3C2)
  | .xabAbort m => some (false, m, 0x3C3)
  | .xabDisarm m => some (false, m, 0x3C3)
  | .swset m => some (false, m, 0x3D0)
  | .swget m => some (false, m, 0x3D1)
  | .swoff m => some (false, m, 0x3D2)
  | .xcput m => some (false, m, 0x3E0)
  | .xcget m => some (false, m, 0x3E1)
  | .xcst m => some (false, m, 0x3E2)
  | .ctxsv m => some (false, m, 0x3F0)
  | .ctxld m => some (false, m, 0x3F1)
  | .mckr m => some (false, m, 0x3F2)
  | .sbist m => some (false, m, 0x3F3)
  | .rcfg m => some (false, m, 0x3F4)
  | .vadd m u => some (true, m, if u then 0x880 else 0x800)
  | .vsub m u => some (true, m, if u then 0x881 else 0x801)
  | .vmul m u => some (true, m, if u then 0x882 else 0x802)
  | .vfma m u => some (true, m, if u then 0x883 else 0x803)
  | .vfms m u => some (true, m, if u then 0x884 else 0x804)
  | .vfnm m u => some (true, m, if u then 0x885 else 0x805)
  | .vmin m u => some (true, m, if u then 0x886 else 0x806)
  | .vmax m u => some (true, m, if u then 0x887 else 0x807)
  | .vabs m u => some (true, m, if u then 0x888 else 0x808)
  | .vneg m u => some (true, m, if u then 0x889 else 0x809)
  | .vand m u => some (true, m, if u then 0x88A else 0x80A)
  | .vor m u => some (true, m, if u then 0x88B else 0x80B)
  | .vxor m u => some (true, m, if u then 0x88C else 0x80C)
  | .vandn m u => some (true, m, if u then 0x88D else 0x80D)
  | .vshl m u => some (true, m, if u then 0x88E else 0x80E)
  | .vshr m u => some (true, m, if u then 0x88F else 0x80F)
  | .vsar m u => some (true, m, if u then 0x890 else 0x810)
  | .vsel m u => some (true, m, if u then 0x891 else 0x811)
  | .vceq m u => some (true, m, if u then 0x892 else 0x812)
  | .vcne m u => some (true, m, if u then 0x893 else 0x813)
  | .vclt m u => some (true, m, if u then 0x894 else 0x814)
  | .vcle m u => some (true, m, if u then 0x895 else 0x815)
  | .vclass m u => some (true, m, if u then 0x896 else 0x816)
  | .vmov m u => some (true, m, if u then 0x897 else 0x817)
  | .vmulh m u => some (true, m, if u then 0x898 else 0x818)
  | .vabd m u => some (true, m, if u then 0x899 else 0x819)
  | .vcvt m => some (true, m, 0x900)
  | .vcvtsr m => some (true, m, 0x901)
  | .vmxq m => some (true, m, 0x902)
  | .vmxd m => some (true, m, 0x903)
  | .vredadd m => some (true, m, 0x904)
  | .vredmax m => some (true, m, 0x905)
  | .vredmin m => some (true, m, 0x906)
  | .vscan m => some (true, m, 0x907)
  | .vperm m => some (true, m, 0x908)
  | .vrot m => some (true, m, 0x909)
  | .vbcast m => some (true, m, 0x90A)
  | .vzip m => some (true, m, 0x90B)
  | .vunzip m => some (true, m, 0x90C)
  | .vpack m => some (true, m, 0x90D)
  | .vunpk m => some (true, m, 0x90E)
  | .vexp2 m => some (true, m, 0x90F)
  | .vlog2 m => some (true, m, 0x910)
  | .vrcp m => some (true, m, 0x911)
  | .vrsq m => some (true, m, 0x912)
  | .vsqrt m => some (true, m, 0x913)
  | .vsint m => some (true, m, 0x914)
  | .vcost m => some (true, m, 0x915)
  | .vtrunc m => some (true, m, 0x916)
  | .vround m => some (true, m, 0x917)
  | .vaadd m => some (true, m, 0x9C0)
  | .vaor m => some (true, m, 0x9C1)
  | .vamax m => some (true, m, 0x9C2)
  | .vamin m => some (true, m, 0x9C3)
  | .nbSend m d => some (true, m, 0x9D0 + d.toNat)
  | _ => none

def nullMove : MoveWord := ⟨true, 0, 0, 0⟩

/-- The bundle of one lone move: an S-move, or a V-group filled with null moves (R14). -/
def soloBundle (v : Bool) (m : Trig) (code : Nat) : Bundle :=
  let w : MoveWord := ⟨m.neg, m.guard, m.src, BitVec.ofNat 12 code⟩
  { sync := false, wait := 0, check := false, lits := [], mx := none,
    sm := if v then [] else [w], vm := if v then [w, nullMove, nullMove] else [] }

/-- The bundle of one lone matrix command. -/
def mxBundle (op : Nat) (f : MxF) : Bundle :=
  { sync := false, wait := 0, check := false, lits := [], sm := [], vm := [], mx := some ⟨BitVec.ofNat 8 op, f, 0, 0⟩ }

/-- The opcode of a matrix row. -/
def mxOf : Instr → Option (Nat × MxF)
  | .mnop f => some (0, f) | .mma f => some (1, f) | .mmag f => some (2, f) | .mzero f => some (3, f)
  | .mld f => some (4, f) | .msave f => some (5, f) | .mcmb f => some (6, f) | .mret f => some (7, f)
  | _ => none

/-- The bundle of an instruction; an event has none. -/
def bundleOf (i : Instr) : Option Bundle :=
  match i with
  | .bundleIssue b => some b
  | .idleBundle s w c => some { sync := s, wait := w, check := c, sm := [], vm := [], mx := none, lits := [] }
  | .move v m d => some (soloBundle v m d.toNat)
  | i => match trigOf i with
    | some (v, m, c) => some (soloBundle v m c)
    | none => (mxOf i).map (fun p => mxBundle p.1 p.2)

end Sys2Proof.Machine
end

