-- ==== Sys2Proof/Machine/Flags.lean ====
section
/-! DEFINITION. Number formats, exact values, rounding, and every flag a result raises (09 R177 to R188). A value is exact;
it is rounded once, by `roundTo`. Flags are five bits in the order of FLAGS: NX 1, UF 2, OF 4, NV 8, DZ 16 (R188). -/
namespace Sys2Proof.Machine

/-- A value: NaN, an infinity, or (−1)^neg · m · 2^e exactly; a zero keeps its sign. -/
inductive Num where
  | nan
  | inf (neg : Bool)
  | fin (neg : Bool) (m : Nat) (e : Int)
deriving DecidableEq, Repr

def fNX : Nat := 1
def fUF : Nat := 2
def fOF : Nat := 4
def fNV : Nat := 8
def fDZ : Nat := 16

/-- A floating format (R180, R182): fraction bits, bias, total bits, and what the special codes are. -/
structure Fmt where
  bits : Nat
  t : Nat
  bias : Nat
  signed : Bool
  ieee : Bool
  infs : Bool
deriving DecidableEq, Repr

def fp16 : Fmt := ⟨16, 10, 15, true, true, true⟩
def bf16 : Fmt := ⟨16, 7, 127, true, true, true⟩
def fp32 : Fmt := ⟨32, 23, 127, true, true, true⟩
def xf34 : Fmt := ⟨34, 23, 511, true, true, true⟩

/-- The format of a floating type code (R177, R182). -/
def fmtOf (ty : Nat) : Fmt :=
  if ty = 0x40 then fp16 else if ty = 0x41 then bf16 else if ty = 0x42 then fp32
  else
    let p := ty % 8
    let s := tySigned ty
    let w := if s then 8 - p else 9 - p
    ⟨8, p - 1, 2 ^ (w - 1), s, false, ty / 16 % 2 == 1⟩

/-- The canonical NaN (R180, R182). -/
def Fmt.nanCode (f : Fmt) : Nat :=
  if f.ieee then (2 ^ (f.bits - 1 - f.t) - 1) * 2 ^ f.t + 2 ^ (f.t - 1) else if f.signed then 0x80 else 0xFF
def Fmt.infCode (f : Fmt) (neg : Bool) : Nat :=
  if f.ieee then (2 ^ (f.bits - 1 - f.t) - 1) * 2 ^ f.t + (if neg then 2 ^ (f.bits - 1) else 0)
  else if f.signed then (if neg then 0xFF else 0x7F) else 0xFE
/-- The code of the largest finite value (R183). -/
def Fmt.maxCode (f : Fmt) : Nat :=
  if f.ieee then (2 ^ (f.bits - 1 - f.t) - 1) * 2 ^ f.t - 1
  else (if f.signed then 0x7F else 0xFE) - (if f.infs then 1 else 0)

/-- The magnitude of a finite code without its sign. -/
def Fmt.mag (f : Fmt) (c : Nat) : Nat × Int :=
  let e := c / 2 ^ f.t
  let m := c % 2 ^ f.t
  if e = 0 then (m, 1 - (f.bias : Int) - f.t) else (m + 2 ^ f.t, (e : Int) - f.bias - f.t)

/-- The value of a code (R180, R182). -/
def Fmt.decode (f : Fmt) (c : Nat) : Num :=
  if f.ieee then
    let neg := c / 2 ^ (f.bits - 1) % 2 = 1
    let mag := c % 2 ^ (f.bits - 1)
    let top := (2 ^ (f.bits - 1 - f.t) - 1) * 2 ^ f.t
    if mag = top then .inf neg else if top < mag then .nan
    else let (m, e) := f.mag mag; .fin neg m e
  else if f.signed then
    let mag := c % 128
    let neg := decide (128 ≤ c)
    if c = 0x80 then .nan else if f.infs ∧ mag = 0x7F then .inf neg
    else let (m, e) := f.mag mag; .fin neg m e
  else if c = 0xFF then .nan else if f.infs ∧ c = 0xFE then .inf false
  else let (m, e) := f.mag c; .fin false m e

/-- The code of magnitude q · 2^qe, q at most 2^(t+1). -/
def Fmt.encode (f : Fmt) (neg : Bool) (q : Nat) (qe : Int) : Nat :=
  let (q, qe) := if q = 2 ^ (f.t + 1) then (q / 2, qe + 1) else (q, qe)
  let mag := if q < 2 ^ f.t then q else (qe + f.t + f.bias).toNat * 2 ^ f.t + (q - 2 ^ f.t)
  if q = 0 ∧ ¬ f.ieee then 0
  else mag + (if neg ∧ f.signed then 2 ^ (f.bits - 1) else 0)

/-- The largest finite value and the least normal one. -/
def Fmt.maxVal (f : Fmt) : Nat × Int := f.mag f.maxCode
/-- emax of R183. -/
def Fmt.emax (f : Fmt) : Int := let (m, e) := f.maxVal; e + Nat.log2 m

/-- Compare m·2^e with m'·2^e'. -/
def cmpMag (m : Nat) (e : Int) (m' : Nat) (e' : Int) : Ordering :=
  if e ≤ e' then compare m (m' * 2 ^ (e' - e).toNat) else compare (m * 2 ^ (e - e').toNat) m'

/-- |x| / 2^qe rounded to an integer (R185, R187): the quotient, and whether it is inexact. -/
def roundQ (rnd : Nat) (neg : Bool) (m : Nat) (e qe : Int) (r : Nat) : Nat × Bool :=
  if qe ≤ e then (m * 2 ^ (e - qe).toNat, false)
  else
    let s := (qe - e).toNat
    let fl := m / 2 ^ s
    let rem := m % 2 ^ s
    let up := match rnd with
      | 0 => decide (2 ^ s < 2 * rem) || (decide (2 * rem = 2 ^ s) && fl % 2 == 1)
      | 1 => false
      | 2 => neg && rem != 0
      | 3 => !neg && rem != 0
      | _ => false
    if rnd = 4 then ((m * 2 ^ 32 + r * 2 ^ s) / 2 ^ (s + 32), rem != 0)
    else (fl + (if up then 1 else 0), rem != 0)

/-- RoundTo for a floating format (R186): the code and the flags. -/
def roundF (f : Fmt) (rnd : Nat) (sat : Bool) (x : Num) (r : Nat) : Nat × Nat :=
  let signBit := if f.signed then 2 ^ (f.bits - 1) else 0
  let negative := match x with | .nan => false | .inf n => n | .fin n m _ => n && m != 0
  if !f.signed && negative then (if sat then (0, fNX) else (f.nanCode, fNV))
  else match x with
  | .nan => (f.nanCode, 0)
  | .inf neg => if f.infs then (f.infCode neg, 0) else (f.nanCode, fNV)
  | .fin neg 0 _ => (if f.ieee ∧ neg then signBit else 0, 0)
  | .fin neg m e =>
    let qe := max (e + Nat.log2 m - f.t) (1 - (f.bias : Int) - f.t)
    let (q, inx) := roundQ rnd neg m e qe r
    let (mm, me) := f.maxVal
    if cmpMag q qe mm me = .gt then
      let maxc := f.maxCode + (if neg then signBit else 0)
      if sat || rnd = 1 || (rnd = 2 && !neg) || (rnd = 3 && neg) then (maxc, fOF + fNX)
      else if f.infs then (f.infCode neg, fOF + fNX)
      else (f.nanCode, fOF + fNX + fNV)
    else
      let small := decide (q < 2 ^ f.t) && decide (qe = 1 - (f.bias : Int) - f.t)
      let fl := (if inx then fNX else 0) + (if inx && small then fUF else 0)
      (f.encode neg q qe, fl)

/-- The least and greatest value of an integer type (R179). -/
def intMin (ty : Nat) : Int := if tySigned ty then -(2 ^ (8 * tyBytes ty - 1) : Nat) else 0
def intMax (ty : Nat) : Int := if tySigned ty then (2 ^ (8 * tyBytes ty - 1) : Nat) - 1 else (2 ^ (8 * tyBytes ty) : Nat) - 1
/-- Sat (R179). -/
def satInt (ty : Nat) (v : Int) : Int := if v < intMin ty then intMin ty else if intMax ty < v then intMax ty else v
/-- An integer's bits. -/
def intBits (bytes : Nat) (v : Int) : Nat := (v % (2 ^ (8 * bytes) : Nat)).toNat
/-- The value of an element's bits under an integer type. -/
def intVal (ty bits : Nat) : Int :=
  if tySigned ty then (BitVec.ofNat (8 * tyBytes ty) bits).toInt else bits

/-- RoundTo for an integer type (R186). -/
def roundI (ty rnd : Nat) (x : Num) (r : Nat) : Nat × Nat :=
  match x with
  | .nan => (0, fNV)
  | .inf neg => (intBits (tyBytes ty) (if neg then intMin ty else intMax ty), fNV)
  | .fin neg m e =>
    let (q, inx) := roundQ rnd neg m e 0 r
    let v : Int := if neg then -q else q
    if v < intMin ty ∨ intMax ty < v then (intBits (tyBytes ty) (satInt ty v), fNV)
    else (intBits (tyBytes ty) v, if inx then fNX else 0)

/-- RoundTo (R185, R186) on a type code. -/
def roundTo (ty rnd : Nat) (sat : Bool) (x : Num) (r : Nat) : Nat × Nat :=
  if tyInt ty then roundI ty rnd x r else roundF (fmtOf ty) rnd sat x r

/-- The exact value of an element under any type. -/
def valOf (ty bits : Nat) : Num :=
  if tyInt ty then (let v := intVal ty bits; .fin (decide (v < 0)) v.natAbs 0) else (fmtOf ty).decode bits

/-! ### Exact arithmetic (R181) -/

def Num.neg : Num → Num
  | .nan => .nan
  | .inf n => .inf (!n)
  | .fin n m e => .fin (!n) m e

def Num.isNaN : Num → Bool
  | .nan => true
  | _ => false

/-- The sign of an exact zero sum that is not of two zeros of one sign: −0.0 under RDN only (R181). -/
def zeroSign (rnd : Nat) : Bool := rnd == 2

/-- An exact sum, and NV for ∞ − ∞ (R181). -/
def Num.add (rnd : Nat) (a b : Num) : Num × Nat :=
  match a, b with
  | .nan, _ => (.nan, 0)
  | _, .nan => (.nan, 0)
  | .inf n, .inf n' => if n = n' then (.inf n, 0) else (.nan, fNV)
  | .inf n, _ => (.inf n, 0)
  | _, .inf n => (.inf n, 0)
  | .fin n m e, .fin n' m' e' =>
    if m = 0 ∧ m' = 0 then (.fin (if n = n' then n else zeroSign rnd) 0 0, 0)
    else
      let lo := min e e'
      let i : Int := (if n then -1 else 1) * (m * 2 ^ (e - lo).toNat : Nat)
      let j : Int := (if n' then -1 else 1) * (m' * 2 ^ (e' - lo).toNat : Nat)
      let s := i + j
      if s = 0 then (.fin (zeroSign rnd) 0 0, 0) else (.fin (decide (s < 0)) s.natAbs lo, 0)

/-- An exact product, and NV for 0 × ∞. -/
def Num.mul (a b : Num) : Num × Nat :=
  match a, b with
  | .nan, _ => (.nan, 0)
  | _, .nan => (.nan, 0)
  | .inf n, .inf n' => (.inf (n != n'), 0)
  | .inf n, .fin n' m _ => if m = 0 then (.nan, fNV) else (.inf (n != n'), 0)
  | .fin n m _, .inf n' => if m = 0 then (.nan, fNV) else (.inf (n != n'), 0)
  | .fin n m e, .fin n' m' e' => (.fin (n != n') (m * m') (e + e'), 0)

/-- a × b + c exactly; 0 × ∞ is invalid even when c is a NaN (R262). -/
def Num.fma (rnd : Nat) (a b c : Num) : Num × Nat :=
  let (p, f) := a.mul b
  if f ≠ 0 then (.nan, f) else p.add rnd c

/-- Multiply by a power of two. -/
def Num.scale (k : Int) : Num → Num
  | .fin n m e => .fin n m (e + k)
  | x => x

/-- Compare two values that are no NaN; zeros are equal. -/
def Num.cmp (a b : Num) : Ordering :=
  match a, b with
  | .nan, _ => .eq
  | _, .nan => .eq
  | .inf n, .inf n' => if n = n' then .eq else if n then .lt else .gt
  | .inf n, _ => if n then .lt else .gt
  | _, .inf n => if n then .gt else .lt
  | .fin n m e, .fin n' m' e' =>
    if m = 0 ∧ m' = 0 then .eq
    else if m = 0 then (if n' then .gt else .lt)
    else if m' = 0 then (if n then .lt else .gt)
    else match n, n' with
      | false, true => .gt
      | true, false => .lt
      | false, false => cmpMag m e m' e'
      | true, true => cmpMag m' e' m e

/-- Whether a is below b with −0.0 below +0.0 (R262). -/
def Num.below (a b : Num) : Bool :=
  match a.cmp b with
  | .lt => true
  | .gt => false
  | .eq => match a, b with
    | .fin n 0 _, .fin n' 0 _ => n && !n'
    | _, _ => false

/-- RNE_xf34 (R185) on the bits of an exact value. -/
def rneXf (x : Num) : Nat := (roundF xf34 0 false x 0).1
/-- RNE_xf34(a + b) on two xf34 bit patterns (R192, R193). -/
def xfAdd (a b : Nat) : Nat := rneXf ((xf34.decode a).add 0 (xf34.decode b)).1

/-! ### Trees (R191) -/

/-- One level of the tree T(n) over present and absent children. -/
def treeLevel (node : α → α → α) : List (Option α) → List (Option α)
  | a :: b :: l => (match a, b with
      | some x, some y => some (node x y)
      | some x, none => some x
      | none, y => y) :: treeLevel node l
  | l => l

/-- The tree over 2^k positions. -/
def treeFold (node : α → α → α) : Nat → List (Option α) → Option α
  | 0, l => l.headD none
  | k + 1, l => treeFold node k (treeLevel node l)

/-! ### The stencil words (R88) -/

/-- A 32-bit left rotation. -/
def rotl32 (x : BitVec 32) (n : Nat) : BitVec 32 := x.rotateLeft n

/-- Mix (R88). -/
def mix (k : Nat → BitVec 32) (g : Nat) (stream : BitVec 32) : BitVec 32 :=
  let (x0, _, x2, _) := (List.range 8).foldl (fun (x : BitVec 32 × BitVec 32 × BitVec 32 × BitVec 32) i =>
    let (x0, x1, x2, x3) := x
    let x0 := x0 + x1 + k (i % 4)
    let x3 := rotl32 (x3 ^^^ x0) 13
    let x2 := x2 + x3
    let x1 := rotl32 (x1 ^^^ x2) 17
    let x0 := x0 + x1
    let x3 := rotl32 (x3 ^^^ x0) 5
    let x2 := x2 + x3 + BitVec.ofNat 32 i
    let x1 := rotl32 (x1 ^^^ x2) 11
    (x0, x1, x2, x3)) (BitVec.ofNat 32 g, BitVec.ofNat 32 (g / 2 ^ 32), stream, 0x9E3779B9)
  x0 ^^^ x2

end Sys2Proof.Machine
end

