-- ==== Sys2Proof/Machine/State.lean ====
section
/-! DEFINITION. The part's state as plain data, and its value after reset. Fields name the rule that gives them;
conventions of the model are in the log (notes/assumptions). -/
namespace Sys2Proof.Machine

/-- Why the machine stops. -/
inductive Fault where
  /-- A fatal error has stopped the device and no reset is among the inputs (R337). Raised by `step`. Safe: the spec gives
  the stopped device no further step. -/
  | fatal
deriving DecidableEq, Repr

/-- Why the model gives no step. -/
inductive Refusal where
  /-- An instruction without a meaning yet. Raised by `exec`. Safe: nothing is claimed of it. -/
  | notModelled (mnemonic : String)
deriving DecidableEq, Repr

/-! ### Brushes -/

/-- What a waiting brush waits for (R162). -/
inductive Wait where
  | sem (n : Nat)
  | land (n : Nat) (count : BitVec 32)
  | mem (addr : Nat) (v : Word)
  | ringFilled (n : Nat)
  | ringFree (n : Nat)
  | fence (seq : Nat)
  | phend (seq : Nat) (xact : Bool)
  | phase (compute : Bool)
  | cad (due : Nat)
  | halt
  | until (cycle : Nat)
  | gang (suits : Nat)
  | service
deriving DecidableEq, Repr

/-- The states of a brush (R162); `stopped` is the end of a double trap (R318). -/
inductive Run where
  | halted
  | running
  | waiting (w : Wait)
  | parked
  | stopped
deriving DecidableEq, Repr

/-- A pending control transfer: its target and the delay bundles still to issue (R243, R315). -/
structure Xfer where
  tgt : Nat
  dly : Nat
deriving DecidableEq, Repr

/-- An entry of the loop stack (R245). -/
structure LoopE where
  start : Nat
  last : Nat
  rem : Nat
deriving DecidableEq, Repr

/-- A cadence (R148 to R150): cycles per tick, the cycle of the next tick, its index, the resynchronisation mark, and in a sample-locked
region the grid cycle it falls on. -/
structure Cad where
  n : Nat
  due : Nat
  j : Nat
  resync : Bool
  grid : Option Nat
deriving DecidableEq, Repr

/-- Where a result goes: a private scalar latch, a shared scalar latch, a shared vector latch, a private vector latch;
numbered as in Machine/Operands.lean. -/
inductive Dst where
  | ps (n : Nat)
  | ss (n : Nat)
  | vs (n : Nat)
  | pv (n : Nat)
deriving DecidableEq, Repr

/-- What a local address names (R24). -/
inductive Space where
  | scratch | view | stream | vault | window
deriving DecidableEq, Repr

/-- One piece of an access: performed in cycle `cyc`, `n` bytes at a physical address, standing at byte `off` of the
access's vector; `lane` is the lane of an indexed access. -/
structure Piece where
  cyc : Nat
  sp : Space
  addr : Nat
  n : Nat
  off : Nat
  lane : Nat
deriving DecidableEq, Repr

/-- An operation triggered and not yet completed (R230, R312). -/
structure Flight where
  seq : Nat
  brush : Nat
  vsp : Bool
  code : Nat
  t : Nat
  due : Nat
  dst : Option Dst
  d : Word
  store : Bool
  pieces : List Piece
  /-- Slots of an atomic still to come, each with its lane (R58, R241). -/
  slots : List (Nat × Nat)
  src : Vc
  idx : Vc
  res : Vc
  ys : Word
  flags : BitVec 5
  /-- VX.ys is written too (vmxq), and whether it is poisoned. -/
  wys : Bool
  ysP : Bool
  /-- What relocation adds to a local scratchpad address of its access (R33). -/
  base : Nat
  /-- The header word index of the bundle that issued it (R339). -/
  pc : Nat
deriving DecidableEq, Repr

/-- What the machine keeps of a captured operation beside its record: its sequence number, its issue cycle, whether it is the newest
trigger of its latch, and of VX.ys, and its bundle (R128, R232, R339). -/
structure Cap where
  seq : Nat
  t : Nat
  new : Bool
  newYs : Bool
  pc : Nat
deriving DecidableEq, Repr

/-- A trap being served (R312, R318 to R321). -/
structure Served where
  x : Nat
  kx : Nat
  seq : Nat
  wait : Option Wait
  run : Run
  gang : List Nat
  /-- The captured operations by record; those with scratchpad accesses or port cycles still to perform, and those with slot accesses. -/
  caps : List Cap
  accs : List Nat
  slotAccs : List Nat
deriving DecidableEq, Repr

/-- A brush (R162, R220, R222). -/
structure Brush where
  run : Run
  trapped : Option Served
  sys : Bool
  pc : Nat
  nextAt : Nat
  xfer : Option Xfer
  s : Map Sc
  p : Map Sc
  lat : Map Sc
  vlat : Map Vc
  loops : List LoopE
  flags : BitVec 5
  chk : BitVec 2
  tvb : BitVec 14
  cad : Option Cad
  /-- Pending traps, and those marked in the present cycle (R310, R311). -/
  pend : List Trap
  pendNew : List Trap
  arrived : Bool
  xact : Bool
  flights : List Flight
  /-- Per result latch the cycle in which its newest trigger completes, and that trigger's code (R232). -/
  newest : Map (Nat × Nat)
  /-- Traps that follow their bundle (R247). -/
  after : Option Trap
  /-- The transfer a bundle starts, and a jump without delay bundles (R243, R245). -/
  newXfer : Option Nat
  jump : Option Nat
  /-- The wait a bundle starts (R18). -/
  newWait : Option Wait
  /-- A system register written, by number, to take effect in the next cycle (R256). -/
  regWr : Option (Nat × Word)
  /-- Returns counted (R244; log 93). -/
  rets : Nat
  /-- The first cycle in which a wait that a return from a trap restored is tested (R319). -/
  resumeAt : Nat
deriving DecidableEq, Repr

/-! ### Core -/

/-- A word of an instruction store with its tag (R64): true is code. -/
structure IWord where
  w : BitVec 32
  code : Bool
deriving DecidableEq, Repr

/-- An entry of a bank schedule (R52, R54): the bank cycle, the bank, the granule, whether it writes, the requester code,
its trigger code or opcode, its local address, its brush, and the operation's sequence number. -/
structure BankE where
  cyc : Nat
  bank : Nat
  gran : Nat
  wr : Bool
  req : Nat
  code : Nat
  addr : Nat
  brush : Nat
  seq : Nat
deriving DecidableEq, Repr

/-- What a landed write is counted for (R112): a counter, a slot's phase tag, its sender, a reduction's operation and type, and the slot
it is a line of with that slot's bytes (R113). -/
structure LandTo where
  ctr : Nat
  tag : Option Nat
  src : Nat
  red : Option (Nat × Nat)
  id : Nat
  size : Nat
deriving DecidableEq, Repr

/-- A vault slot some of whose lines have been committed (R113): its number, whether it lies within its target, the bytes it has still
to count, their counter and tag. -/
structure LandId where
  id : Nat
  ok : Bool
  left : Nat
  ctr : Nat
  tag : Nat
deriving DecidableEq, Repr

/-- A vault write past its port cycle (R68): committed in cycle `cyc`; its brush, 4 for the XE and for landing, and its sequence number. -/
structure VPend where
  cyc : Nat
  brush : Nat
  addr : Nat
  n : Nat
  data : BitVec 2048
  pois : BitVec 64
  land : Option LandTo
  seq : Nat
deriving DecidableEq, Repr

/-- A write a unit has under way in the scratchpad: port A in cycle `cyc`, for a brush (R91, R306). -/
structure EngW where
  cyc : Nat
  addr : Nat
  n : Nat
  data : BitVec 2048
  pois : BitVec 64
  brush : Nat
  seq : Nat
deriving DecidableEq, Repr

/-- An atomic's write under way (R58, R59): written in cycle `cyc`. -/
structure RmwW where
  cyc : Nat
  addr : Nat
  n : Nat
  data : Word
  pois : Bool
  brush : Nat
  seq : Nat
deriving DecidableEq, Repr

/-- A release not yet in effect (R128, R133, R300). -/
inductive RelKind where
  | fill (ring slot : Nat)
  | free (ring slot : Nat)
  | semp (n : Nat)
  | publish (slot : Nat) (v : BitVec 32)
deriving DecidableEq, Repr

structure Rel where
  kind : RelKind
  brush : Nat
  seq : Nat
  at_ : Nat
deriving DecidableEq, Repr

/-- A landing counter (R111). -/
structure Land where
  count : BitVec 32
  arr : List (BitVec 32)
  target : Option (BitVec 32)
deriving DecidableEq, Repr

/-- A ring (R250): base, slots, slot size, claim and take index, and per slot 0 free, 1 claimed, 2 filled, 3 taken. -/
structure Ring where
  base : Nat
  slots : Nat
  size : Nat
  p : Nat
  c : Nat
  st : List Nat
  /-- Slots claimed and taken, oldest first, without a fill or release pending. -/
  claimed : List Nat
  taken : List Nat
deriving DecidableEq, Repr

/-- An accumulator (R278): 1,024 elements of 34 bits, element 32 r + c at bit 34 (32 r + c), and their poison marks. -/
structure Acc where
  v : BitVec 34816
  p : BitVec 1024
deriving DecidableEq, Repr

/-- A matrix command queued or running (R279). -/
structure MtCmd where
  cmd : MxCmd
  brush : Nat
  t : Nat
  /-- Physical base of the context's scratchpad and the limits of its segment (R33). -/
  base : Nat
  lim : Nat
  pos : Nat
  judged : Bool
  /-- The group table of mmag: rows and B tile, nonzero groups with their index (R286). -/
  groups : List (Nat × Nat × Nat × Nat)
  start : Option Nat
  /-- The step tiles, scales and epilogue words read so far, with marks of poisoned rows or columns. -/
  a : BitVec 32768
  b : BitVec 32768
  sc : BitVec 2048
  raw : BitVec 65536
  ap : BitVec 32
  bp : BitVec 32
  rp : BitVec 1024
  /-- Step partials joined so far (R193): sizes and tiles, latest first. -/
  part : List (Nat × Acc)
  out : Option Acc
  /-- Refused accesses: their bank cycle and tag (R53, R284). -/
  ref : List (Nat × Nat)
deriving DecidableEq, Repr

/-- A slot of the ring or the content of an exchange flit (R100). `kind` 0 write, 1 reduce, 2 flag, 3 a reduction begun. `src` is the
sender, 1,024 · job device + core. `places` holds for each destination core whether it is its vault, and the physical address (R39).
`ready` is the region cycle after which the XE may inject it, then the one of its landing. -/
structure Slot where
  kind : Nat
  src : Nat
  dsts : List Nat
  dev : Nat
  places : List (Bool × Nat)
  /-- The local address of its first byte, of which those are the places. -/
  loc : Nat
  n : Nat
  land : Nat
  tag : Nat
  op : Nat
  ty : Nat
  data : BitVec 1024
  pois : BitVec 32
  /-- A flag slot's count of bytes sent before it. -/
  before : Nat
  mcast : Bool
  marks : List Nat
  ready : Nat
  /-- The ring position that injected it, and whether it is bound for another part. -/
  inj : Nat
  out : Bool
  /-- Drained from the early buffer: its flag is written through port B (R115). -/
  drained : Bool
deriving DecidableEq, Repr

/-- A beat or line of a chain (R109): read in cycle `rd`, written in cycle `wr` (a vault line's port cycle, then its commit). Ends:
0 scratchpad, 1 vault, 2 window, 3 host, 4 another station, 5 a line past its port cycle. -/
structure XOp where
  rd : Nat
  wr : Nat
  sk : Nat
  sa : Nat
  dk : Nat
  da : Nat
  n : Nat
  /-- Offset in its row, and whether it ends the row (R109: slots are cut by row). -/
  off : Nat
  tail : Bool
  land : Nat
  sto : Option Slot
  ent : Nat
  got : Bool
  rdBad : Bool
  wrBad : Bool
  data : BitVec 2048
  pois : BitVec 64
deriving DecidableEq, Repr

/-- A flag or sem entry not yet in effect (R110): a scratchpad doubleword, a semaphore, a flag slot. -/
inductive XKind where
  | flag (addr : Nat) (v : Word)
  | sem (n : Nat)
  | slot (s : Slot)
deriving DecidableEq, Repr

structure XEff where
  at_ : Nat
  k : XKind
  ent : Nat
  bad : Bool
deriving DecidableEq, Repr

/-- The entry being moved (R106, R109): its ends as physical or global addresses, the next beat's row and offset, and the cycle
its next beat is read in or its next line takes the port in. -/
structure XCur where
  sk : Nat
  src : Nat
  dk : Nat
  dst : Nat
  len : Nat
  rows : Nat
  sstr : Int
  dstr : Int
  land : Nat
  sto : Option Slot
  ent : Nat
  row : Nat
  off : Nat
  at_ : Nat
  desc : BitVec 512
  rot : List Word
  bad : Bool
deriving DecidableEq, Repr

/-- The loop being run (R106): first entry, entries, iterations left, iteration index, entries left of this pass. -/
structure XLoop where
  start : Nat
  n : Nat
  left : Nat
  iter : Nat
  rest : Nat
deriving DecidableEq, Repr

/-- A chain (R105 to R110, R295, R296). `ended`: its end entry has been fetched, or it has stopped. -/
structure Chain where
  run : Bool
  ended : Bool
  stop : Bool
  addr : Nat
  /-- The entry to fetch next, its bank cycle, its place in the schedule, whether it was refused. -/
  ptr : Nat
  fetchAt : Option Nat
  fetchSeq : Nat
  fetchBad : Bool
  /-- Last cycle of the reads that an abort lets happen (R295). -/
  cut : Option Nat
  done : BitVec 8
  snap : BitVec 128
  brush : Nat
  sysp : Bool
  loop : Option XLoop
  cur : Option XCur
  /-- Number of the entry being handled, and entries not yet complete. -/
  serial : Nat
  live : List Nat
  ops : List XOp
  effs : List XEff
  lastW : Nat
  /-- The slot being filled. -/
  sbuf : BitVec 1024
  sbufP : BitVec 32
  ready : List Slot
  sent : List (Nat × Nat)
deriving DecidableEq, Repr

/-- A pending `swset` (R91). -/
structure SwSet where
  brush : Nat
  n : Nat
  img : Nat
  tb : Nat
  tl : Nat
  t : Nat
  w : Nat
  base : Nat
  image : BitVec 512
  tab : List Word
  bad : Bool
  seq : Nat
deriving DecidableEq, Repr

/-- A former descriptor, still seen by reads issued before cycle `upto` (R92). -/
structure SwOld where
  n : Nat
  desc : BitVec 512
  rot : List Word
  upto : Nat
deriving DecidableEq, Repr

/-- An entry of the retirement tracker (R175): the brush and 0 a commit group, 1 a local chain, 2 a matrix command. -/
structure Retire where
  brush : Nat
  kind : Nat
deriving DecidableEq, Repr

/-- The landing of a slot in the scratchpad (R112): its write cycle, whether it stands in the bank schedule, the bank that refused it. -/
structure Landing where
  w : Nat
  slot : Slot
  ent : Bool
  bad : Option Nat
deriving DecidableEq, Repr

/-- A recorded exchange fault (R119). -/
structure XFault where
  kind : Nat
  land : Nat
  d1 : Word
deriving DecidableEq, Repr

/-- A line of the host buffer (R74): its vault line, bytes and byte mask. -/
structure HostLine where
  line : Nat
  data : BitVec 512
  mask : BitVec 64
deriving DecidableEq, Repr

/-- A logical core. -/
structure Core where
  brushes : List Brush
  v : Map Vc
  slat : Map Sc
  vlat : Map Vc
  newest : Map (Nat × Nat)
  mem : List Host.Cell
  memP : Map Bool
  code : Map IWord
  vault : List Host.Cell
  vaultP : Map Bool
  vpend : List VPend
  /-- Brushes with a vault commit in the present cycle (R129, R164). -/
  commitNow : List Nat
  hbuf : List HostLine
  schA : List BankE
  schB : List BankE
  /-- The engines' entries of the present cycle that were refused: a later one of the cycle meets them too (R52). -/
  shadow : List BankE
  /-- The cycle in which the latest vault line the XE has read for the ring or the host is delivered (R68, R169). -/
  vdone : Nat
  /-- Vault port cycles held, the bank of each, and who holds it: a brush, 4 the XE, 5 landing (R67, R71, R112). -/
  vport : List (Nat × Nat × Nat)
  lastIdx : Option Nat
  seq : Nat
  k0 : Nat
  /-- The cycle in which the present exchange phase opened. -/
  x0 : Nat
  cycle : Word
  syncm : BitVec 4
  syncmWr : Option (BitVec 4)
  own : BitVec 21
  moving : List (Nat × Nat × Nat)
  sems : Map (BitVec 16)
  lands : Map Land
  landSeen : Map (BitVec 32)
  rings : Map Ring
  desc : Map (BitVec 512)
  rot : Map Word
  swset : Option SwSet
  swOld : List SwOld
  accs : Map Acc
  mxc : Map Word
  mtq : List MtCmd
  mtRun : List MtCmd
  mtFree : Nat
  lc : Chain
  xc : Chain
  armed : Option (Nat × BitVec 128)
  engW : List EngW
  rmwW : List RmwW
  rels : List Rel
  segsp : Word
  segvt : Word
  segis : Word
  ctxid : Word
  walked : List Nat
  tdmP : Nat
  tdm : Map (BitVec 32)
  landing : List Landing
  /-- Vault lines of ejected slots that wait for a port cycle, from the cycle given on, and the slots begun (R112, R113). -/
  landLines : List (Nat × VPend)
  landIds : List LandId
  early : List Slot
  landedFrom : List (Nat × Nat)
  flagSlots : List Slot
  reduces : List Slot
  /-- Slots drained from the early buffer in the present cycle whose write through port B is still to come (R49, R115). -/
  drains : List Slot
  xfaults : List XFault
  tracker : List Retire
  created : Bool
  undo : List (Nat × BitVec 512 × BitVec 4)
  undoFull : Bool
  undoOn : Bool
  /-- Latent errors placed by the environment (log 17): memory units, 1 correctable, 2 not; and results to be. -/
  ecc : Map Nat
  glitch : Nat
  /-- Corrected errors of each vault row since its last repair (R351). -/
  rowErrs : Map Nat
  /-- A vector register write of this cycle, applied at its end (R203). -/
  vwr : List (Nat × Vc)
  /-- Sends that land at the neighbour (R120), by cycle and side. -/
  nbArr : List (Nat × Nat × Vc)
  /-- Brushes that trap in this cycle before they issue, and their trap (R53, R166, R203). -/
  clash : List (Nat × Trap)
  syncGo : Bool
  /-- Partners of a lock-step issue that trap after their bundle of this cycle (R166). -/
  follow : List (Nat × Trap)
  /-- The cycle whose port A writes have been performed (R49). -/
  wrote : Option Nat
  service : Bool
  user : Bool
  arrivedAt : Option Nat
  xcActive : Bool
  /-- The second core of a time-sliced pair whose run of the compute phase has not begun (R174). -/
  later : Bool
deriving DecidableEq, Repr

/-- A time-sliced pair (R174): the logical cores `first` and `first` + 1 on the physical core of `host`, whose memories the core
`at_` holds in this state. -/
structure Pair where
  first : Nat
  host : Nat
  at_ : Nat
deriving DecidableEq, Repr

/-! ### Regions, domains, crossings -/

/-- An incoming sample (R146): its source number and the two channels. -/
structure Sample where
  num : Nat
  a : BitVec 32
  b : BitVec 32
deriving DecidableEq, Repr

/-- The way of a grid back to its source (R152): from fabric cycle `t0` on, at a pace of its own, for `len` / `a` fabric cycles, the source then
driving the region at `a` / `b` again; twice the region's position where it ends. -/
structure Slew where
  t0 : Nat
  len : Nat
  a : Nat
  b : Nat
  pace : Nat × Nat
  pos2 : Nat
deriving DecidableEq, Repr

/-- A clock region (R140 to R155). -/
structure Region where
  a : Word
  b : Word
  /-- The registers as far as HOLD, OVP, LTRAP and OCORE have taken effect (R143). -/
  effA : Word
  effB : Word
  pendPQ : Option (BitVec 32)
  /-- Region cycles from the present fabric edge to the next region edge: `phase` / `den`. -/
  phase : Nat
  den : Nat
  cyc : Nat
  state : BitVec 3
  stopped : Bool
  /-- The stop cycle has not run yet (R153). -/
  owed : Bool
  latch : List Sample
  sp0 : Word
  sp1 : Word
  /-- Samples presented and not yet readable: the cycle from which they are, the two ports, the sample's number. -/
  spNext : List (Nat × Word × Word × Nat)
  snum : Nat
  ovrn : BitVec 32
  miss : BitVec 32
  grid : Nat
  nextGrid : Nat
  missing : Nat
  holdAt : Nat
  arrivals : Nat
  stoppedAt : Nat
  out0 : Map Word
  out1 : Map Word
  /-- The pace kept in holdover, the way back to the source, and whether the next arrival begins one (R151, R152). -/
  holdPace : Nat × Nat
  slew : Option Slew
  realign : Bool
  /-- Fabric cycle in which the present interval of a beat's markers ends (R152). -/
  beatDue : Nat
deriving DecidableEq, Repr

/-- A domain's phase sequencer (R144, R160, R171, R172). -/
structure Domain where
  exch : Bool
  n : Word
  openF : Nat
  /-- Fabric time at which the next opening is due, when it is fixed. -/
  nextF : Option Nat
  straggler : BitVec 512
  /-- 0 in a phase, 1 from the end of an exchange phase to the boundary's steps, 2 from those to the opening (R160), 3 before the first
  opening of an idle domain (log 105). -/
  closing : Nat
  /-- Across parts: the messages heard, each its kind, job device and phase, and whether this part's for the step under way has been sent
  (R160). -/
  heard : List (Nat × Nat × Nat)
  told : Bool
deriving DecidableEq, Repr

/-- A crossing (R156 to R158, R300). -/
structure Crossing where
  cfg : BitVec 32
  frames : List (List Byte)
  /-- Indices of the open, latest and held frame; whether the latest was published and not taken. -/
  openI : Nat
  latest : Nat
  held : Nat
  fresh : Bool
  pubs : BitVec 32
  dropped : BitVec 32
  repeated : BitVec 32
  pubAt : Nat
  /-- Samples published, by their index modulo 1,024, and the number of publishes, which does not wrap. -/
  xs : Map (BitVec 32)
  jnext : Nat
  k : Nat
  phi : BitVec 32
  delta : BitVec 64
  gets : Nat
  windowAt : Nat
  out : BitVec 32
  /-- What reads issued before a consumer cycle see, for the latest gets (R300): held frame, out, k, φ, Δ. -/
  old : List (Nat × Nat × BitVec 32 × Nat × BitVec 32 × BitVec 64)
  /-- The publish and the get of the present cycle: the lowest issuing core and brush with its value; whether one was issued. -/
  putNow : Option (Nat × BitVec 32)
  getNow : Bool
deriving DecidableEq, Repr

/-! ### Frame -/

/-- A hardware queue (R325). -/
structure Queue where
  base : Word
  cfg : Word
  tail : BitVec 16
  head : BitVec 16
deriving DecidableEq, Repr

/-- A host window of a queue (R40), in 4 KiB granules. -/
structure Window where
  base : Nat
  len : Nat
  rd : Bool
  wr : Bool
deriving DecidableEq, Repr

/-- A pulled task record and where it came from: queue 0 to 63, or 64 + the parent's queue for the pool; ageing start (R331). -/
structure Task where
  q : Nat
  rec_ : List Byte
  since : Option Nat
  /-- Full milliseconds waited at the head of its queue, as counted by ageing, and the fabric cycles of its earlier stays there. -/
  age : Nat
  waited : Nat
  ready : Bool
  user : Bool
deriving DecidableEq, Repr

/-- A placed sitting (R170, R171). -/
structure Sitting where
  task : Task
  cores : List Nat
  dom : Nat
  launched : Bool
  frozen : Bool
  saved : Bool
  pins : List (Bool × Nat)
  entry : List Nat
  start : Word
  phases : Nat
  ckpts : Nat
  faults : Nat
  corrected : Nat
  contained : Nat
  rollbacks : Nat
  inRow : Nat
  status : Option (Nat × Nat)
  ckDue : Bool
  ckForce : Bool
  snapPhase : Word
  member : List Nat
  prio : Nat
  /-- Whether it has opened a compute phase ahead of its domain after a budget's expiry, and when it is to open one (R171). -/
  early : Bool
  openAt : Option Nat
  /-- Chosen for pre-emption at its next boundary (R332); the slot of its latest snapshot, 2 for none (R344). -/
  preempt : Bool
  snapSlot : Nat
  /-- Its time-sliced pairs (R174). -/
  pairs : List Pair
  /-- The routes resolved at its placement (R39, R44): of each member core the station, and the segments of its scratchpad and vault. -/
  routes : List (Nat × Nat × Word × Word)
  /-- An exchange budget has run out: what has been issued is being performed (R171). -/
  expiry : Bool
  /-- A contained error has frozen it and its rollback has not begun: a further error of the interval orders no second one (R343, R349). -/
  rolling : Bool
deriving DecidableEq, Repr

/-- A machine-check bank (R339). -/
structure McBank where
  status : Word
  addr : Word
  misc : Word
  count : Word
deriving DecidableEq, Repr

/-- An error recorded in the present fabric cycle (R305, R338): the set and bank, its type and class, phase, address, place, brush, code,
syndrome; whether it is poison consumed. -/
structure McRec where
  set : Nat
  bank : Nat
  ty : Nat
  cls : Nat
  phase : Nat
  addr : Word
  pos : Nat
  brush : Nat
  code : Nat
  synd : Nat
  used : Bool
deriving DecidableEq, Repr

/-- An Exier port (R354 to R357). -/
structure Port where
  lanes : List Bool
  up : Bool
  seqIn : BitVec 32
  seqOut : BitVec 32
  replays : Nat
  /-- Flits sent, oldest first (R123, R354). -/
  out : List (List Byte)
  marker : Nat
  /-- Flits to be sent, oldest first: destination, origin, class, tag and payload; before them those that are replayed (R355). -/
  queue : List (Nat × Nat × Nat × Nat × List Byte)
  again : List (List Byte)
  /-- What the link has gained on its rate: a flit goes out for 80, each lane in use giving 7 a fabric cycle (R356). -/
  credit : Int
  /-- The fabric cycle up to which the port retrains (R356), and the SEQ it has asked to be sent again (R355). -/
  retrain : Nat
  asked : Option (BitVec 32)
deriving DecidableEq, Repr

/-- What a debugger may read or write of a brush (R362): its program counter, a scalar register, a predicate, a vector register. -/
inductive DebugReg where
  | pc
  | s (n : Nat)
  | p (n : Nat)
  | v (n : Nat)
deriving DecidableEq, Repr

/-- What the outside asks of the part beside the events of the table (R352, R353, R355, R362, R364; log 107). -/
inductive Ask where
  /-- An MMIO read. -/
  | read (off size : Nat)
  /-- A request of a part of CXL that is not supported. -/
  | unsupported
  /-- The other end of a port asks for its flits again, from a SEQ on. -/
  | replay (port : Nat) (seq : BitVec 32)
  /-- Power in watts over 1 ms, rail current in amperes, the hottest DRAM junction in degrees. -/
  | power (watts amps celsius : Nat)
  /-- Debug accesses: halt a brush, let it go, let it take one turn, its registers, a core's scratchpad or vault. -/
  | halt (c b : Nat)
  | go (c b : Nat)
  | step (c b : Nat)
  | readReg (c b : Nat) (r : DebugReg)
  | writeReg (c b : Nat) (r : DebugReg) (v : BitVec 2048)
  | readMem (c : Nat) (vault : Bool) (a n : Nat)
  | writeMem (c : Nat) (vault : Bool) (a : Nat) (bs : List Byte)
deriving DecidableEq, Repr

/-- Which of an agenda's jobs the machine runs next. -/
inductive Job where
  | ev (at_ : Nat) (i : Instr)
  | beginCycle (c : Nat)
  | preIssue (c : Nat)
  | turn (c b : Nat)
  /-- A parity error of the transport bus that struck a moved value is recorded (R341): the value's destination. -/
  | parity (c b dst : Nat)
  | lateStart (c : Nat)
  | banks (c : Nat)
  | endCycle (c : Nat)
  | regionEnd (g : Nat)
  | opens
  | edges
  | ring
  | tickEnd
deriving DecidableEq, Repr

structure State where
  /-- Fabric cycles since power good (R99); HOUSE counts eighths of it (R254). -/
  now : Nat
  house : Word
  agenda : List Job
  /-- The brush whose bundle is being issued, and whether one is. -/
  cur : Nat × Nat
  busy : Bool
  /-- What the outside does, each with its fabric cycle and place (log 7). -/
  inputs : List (Nat × Nat × Instr)
  /-- Where the event being run happens: a core, domain, region, sitting (its first core), queue, panel or port. -/
  here : Nat
  /-- Ratio of a source's clock to the fabric clock, for sources other than the house reference (log 8). -/
  srcRate : Map (Nat × Nat)
  /-- How sources change their rates: the fabric cycle, the source, its new ratio. -/
  srcPlan : List (Nat × Nat × Nat × Nat)
  /-- House ticks that the environment leaves without an edge of the house reference, by fabric cycle (R152; log 66). -/
  houseGaps : List Nat
  /-- What the outside asks, each with its fabric cycle (log 107), and the bytes of the latest answer. -/
  asks : List (Nat × Ask)
  answer : List Byte
  /-- Fabric cycles that the house tick is ahead of the fabric clock's multiples of eight (R357). -/
  houseOff : Nat
  cores : Map Core
  regions : Map Region
  domains : Map Domain
  lanes : Map Slot
  xings : Map Crossing
  pins : Map (BitVec 6)
  pinOut : Map Word
  /-- The Exier port the house reference locks to (R357). -/
  houseSrc : Option Nat
  queues : Map Queue
  windows : Map Window
  events : Map Word
  eventMsi : Map Nat
  pinTab : Map Word
  tasks : List Task
  pool : List Task
  /-- The overflow queue (R334), oldest first, each record with its place in the ring; the place of the next. -/
  overflow : List (Nat × Task)
  overNext : Nat
  sittings : List Sitting
  turnQ : Nat
  hostMem : List Host.Cell
  banks : Map McBank
  mcNew : List McRec
  /-- Single-bit errors of the frame's own state that the environment has placed, by ERRTYPE (R338; log 17). -/
  frameErr : List Nat
  remap : Map Nat
  outCores : List Nat
  pairs : List Pair
  panels : List Nat
  asleep : List Nat
  draining : Bool
  stage : Nat
  /-- What failed verification and holds the part in stage 0 (R359): 0 nothing, 1 the firmware, 2 the configuration image. -/
  held : Nat
  /-- Panels whose bring-up has ended, passed or not (R359). -/
  tried : Nat
  ports : Map Port
  flits : List Slot
  /-- The firmware that the controller boots (R359). -/
  fw : Option Signed
  meas : Map (BitVec 512)
  measLog : List (Word × BitVec 512)
  report : List Byte
  device : BitVec 256
  nonces : Nat
  nonce : BitVec 256
  security : Nat
  debug : Nat
  /-- Debug states that wait for a boundary, oldest first, each with the digest of its token, and whether device off waits for one (R362, R363). -/
  debugPend : List (Nat × Option (BitVec 512))
  offPend : Bool
  off : Bool
  ideKey : BitVec 256
  msi : List Nat
  fatal : Bool
  /-- Brushes under a debugger, by 4 · core + brush: 1 halted, 2 with one turn left (R362). -/
  dbgHeld : Map Nat
  saves : Map Core
  /-- Host reads that wait for their host slot (R75): HDM offset and bytes; then the latest answer and whether it is marked poisoned. -/
  hostReqs : List (Nat × Nat)
  /-- Queues whose next record waits for a host slot of the vault it lies in (R326). -/
  pulls : List Nat
  /-- Lines of host writes held at the link, oldest first, each with its core (R74); rows under repair: core, row, lines left (R69, R351). -/
  hostHeld : List (Nat × HostLine)
  repairs : List (Nat × Nat × Nat)
  hostRead : List (BitVec 8)
  hostReadP : Bool
  /-- The latest mailbox status: 0 done, 1 invalid, 2 busy, 3 refused, 4 unsupported. -/
  hostMsg : Nat
  /-- Maintenance sittings per core (R350): 1 due, else the fabric cycle in which the running one ends. -/
  maint : Map Nat
  /-- Self-test interval per core in fabric cycles, 0 for off, and the cycle in which the next test is due (R350). -/
  maintInt : Map Nat
  maintAt : Map Nat
  /-- MMIO registers without behaviour here: the mailbox area and the MSI-X table (R353). -/
  bar : Map Word
  powerCapped : Bool
  /-- A power state that waits for a boundary, and P · 65,536 + Q of each region whose ratio is lowered (R362, R364). -/
  capPend : Option Bool
  capBase : Map Nat
  /-- The power limit in watts; the latest watts, rail amperes and DRAM degrees; the cycle since which no cause of a cap has stood (R364). -/
  powerLimit : Nat
  power : Nat × Nat × Nat
  coolAt : Nat
  /-- TDM tables of the 16 bridge stations: their periods, entries and domains (R102, R217). -/
  btdmP : Map Nat
  btdm : Map (BitVec 32)
  btdmDom : Map Nat
  /-- Faults that bridge stations have recorded, with the bridge (R103, R119; log 102). -/
  bridgeFaults : List (Nat × XFault)
  fv : Nat
deriving DecidableEq, Repr

/-! ### Reset -/

/-- A brush that has not been launched: halted, every register and latch zero (R23, R214; log 2). -/
def Brush.reset : Brush :=
  { run := .halted, trapped := none, sys := false, pc := 0, nextAt := 0, xfer := none, s := [], p := [], lat := [],
    vlat := [], loops := [], flags := 0, chk := 0, tvb := 0, cad := none, pend := [], pendNew := [], arrived := false, xact := false,
    flights := [], newest := [], after := none, newXfer := none, jump := none, newWait := none,
    regWr := none, rets := 0, resumeAt := 0 }

/-- A chain that has never run. -/
def Chain.reset : Chain :=
  { run := false, ended := false, stop := false, addr := 0, ptr := 0, fetchAt := none, fetchSeq := 0, fetchBad := false, cut := none, done := 0, snap := 0, brush := 0,
    sysp := false, loop := none, cur := none, serial := 0, live := [], ops := [], effs := [], lastW := 0, sbuf := 0,
    sbufP := 0, ready := [], sent := [] }

/-- A core as reset leaves it: no context, memories with nothing listed (log 1, 2). -/
def Core.reset : Core :=
  { brushes := [Brush.reset, Brush.reset, Brush.reset, Brush.reset], v := [], slat := [], vlat := [], newest := [],
    mem := [], memP := [], code := [], vault := [], vaultP := [], vpend := [], commitNow := [], hbuf := [], schA := [], schB := [], shadow := [], vdone := 0,
    vport := [], lastIdx := none, seq := 0, k0 := 0, x0 := 0, cycle := 0, syncm := 0, syncmWr := none, own := 0, moving := [],
    sems := [], lands := [], landSeen := [], rings := [], desc := [], rot := [], swset := none, swOld := [], accs := [],
    mxc := [], mtq := [], mtRun := [], mtFree := 0, lc := Chain.reset, xc := Chain.reset, armed := none,
    engW := [], rmwW := [], rels := [], segsp := 0, segvt := 0, segis := 0, ctxid := 0, walked := [], tdmP := 0, tdm := [],
    landing := [], landLines := [], landIds := [], early := [], landedFrom := [], flagSlots := [], reduces := [], drains := [], xfaults := [], tracker := [],
    created := false, undo := [], undoFull := false, undoOn := false, ecc := [], glitch := 0, rowErrs := [], vwr := [], nbArr := [],
    clash := [], syncGo := false, follow := [], wrote := none, service := false, user := false, arrivedAt := none, xcActive := false, later := false }

def Region.reset : Region :=
  { a := 0, b := 0, effA := 0, effB := 0, pendPQ := none, phase := 0, den := 1, cyc := 0, state := 0, stopped := false, owed := false, latch := [], sp0 := 0, sp1 := 0,
    spNext := [], snum := 0, ovrn := 0, miss := 0, grid := 0, nextGrid := 0, missing := 0, holdAt := 0, arrivals := 0,
    stoppedAt := 0, out0 := [], out1 := [], holdPace := (0, 1), slew := none, realign := false, beatDue := 0 }

def Domain.reset : Domain := { exch := false, n := 0, openF := 0, nextF := none, straggler := 0, closing := 0, heard := [], told := false }

def Crossing.reset : Crossing :=
  { cfg := 0, frames := [[], [], []], openI := 0, latest := 1, held := 2, fresh := false, pubs := 0, dropped := 0,
    repeated := 0, pubAt := 0, xs := [], jnext := 0, k := 0, phi := 0, delta := 0x100000000, gets := 0, windowAt := 0, out := 0,
    old := [], putNow := none, getNow := false }

def Queue.reset : Queue := { base := 0, cfg := 0, tail := 0, head := 0 }
def McBank.reset : McBank := { status := 0, addr := 0, misc := 0, count := 0 }
def Port.reset : Port :=
  { lanes := [true, true, true, true], up := true, seqIn := 0, seqOut := 0, replays := 0, out := [], marker := 0, queue := [], again := [], credit := 0, retrain := 0,
    asked := none }
def Land.reset : Land := { count := 0, arr := [0, 0, 0, 0], target := none }
def Ring.reset : Ring := { base := 0, slots := 0, size := 0, p := 0, c := 0, st := [], claimed := [], taken := [] }
def Acc.zero : Acc := { v := 0, p := 0 }
def Window.none_ : Window := { base := 0, len := 0, rd := false, wr := false }

/-- The part right after reset: stage 0 has begun, no panel is up, nothing is placed (R359, R23; log 1, 2, 3). -/
def State.reset : State :=
  { now := 0, house := 0, agenda := [], cur := (0, 0), busy := false, inputs := [], here := 0, srcRate := [], srcPlan := [], houseGaps := [], asks := [], answer := [], houseOff := 0, cores := [], regions := [],
    domains := [], lanes := [], xings := [], pins := [], pinOut := [], houseSrc := none, queues := [], windows := [], events := [],
    eventMsi := [], pinTab := [], tasks := [], pool := [], overflow := [], overNext := 0, sittings := [], turnQ := 64, hostMem := [],
    banks := [], mcNew := [], frameErr := [], remap := [], outCores := [], pairs := [], panels := [], asleep := [], draining := false, stage := 0, held := 0, tried := 0,
    ports := [], flits := [], fw := none, meas := [], measLog := [], report := [], device := 0, nonces := 0, nonce := 0, security := 0,
    debug := 0, debugPend := [], offPend := false, off := false, ideKey := 0, msi := [], fatal := false, dbgHeld := [], saves := [], hostReqs := [], pulls := [], hostHeld := [], repairs := [], hostRead := [],
    hostReadP := false, hostMsg := 0, maint := [], maintInt := [], maintAt := [], bar := [], powerCapped := false, capPend := none, capBase := [], powerLimit := 4500, power := (0, 0, 0), coolAt := 0, btdmP := [], btdm := [], btdmDom := [], bridgeFaults := [], fv := 0 }

end Sys2Proof.Machine
end

