-- ==== Sys2Proof/Machine/Sparse.lean ====
section
/-! DEFINITION. Sparse maps and byte memories: reading, writing, canonical form. -/
namespace Sys2Proof.Machine

/-- The value at key `k`, or `d` where none is listed. -/
def mget (d : α) : Map α → Nat → α
  | [], _ => d
  | (k', v) :: r, k => if k = k' then v else mget d r k

/-- List value `v` at key `k`, keeping keys in order. -/
def mput : Map α → Nat → α → Map α
  | [], k, v => [(k, v)]
  | (k', v') :: r, k, v =>
    if k < k' then (k, v) :: (k', v') :: r
    else if k = k' then (k, v) :: r
    else (k', v') :: mput r k v

/-- Drop key `k`. -/
def mdel (m : Map α) (k : Nat) : Map α := m.filter (fun e => e.1 != k)

/-- Write `v` at `k` where unlisted keys read `d`: writing `d` removes the entry. -/
def mset [DecidableEq α] (d : α) (m : Map α) (k : Nat) (v : α) : Map α := if v = d then mdel m k else mput m k v

/-- Keys strictly rising from `lo`, no entry equal to the default. -/
def mwfFrom [DecidableEq α] (d : α) : Nat → Map α → Bool
  | _, [] => true
  | lo, (k, v) :: r => decide (lo ≤ k) && decide (v ≠ d) && mwfFrom d (k + 1) r

/-- The canonical form of a map whose unlisted keys read `d`. -/
def mwf [DecidableEq α] (d : α) (m : Map α) : Bool := mwfFrom d 0 m

/-- What a byte that nothing has written reads as (log 1). -/
def memDefault : Byte := 0

/-- One byte of a memory. -/
def rdByte (m : List Host.Cell) (a : Nat) : Byte := mget memDefault m a
/-- Write one byte. -/
def wrByte (m : List Host.Cell) (a : Nat) (v : Byte) : List Host.Cell := mset memDefault m a v
/-- A memory's canonical form. -/
abbrev Memory.wf (m : List Host.Cell) : Bool := mwf memDefault m

/-- `n` bytes from `a`, little-endian (R5), as a number. -/
def rdBytes (m : List Host.Cell) (a : Nat) : Nat → Nat
  | 0 => 0
  | n + 1 => (rdByte m a).toNat + 256 * rdBytes m (a + 1) n

/-- Write the low `n` bytes of `v` from `a` up, little-endian (R5). -/
def wrBytes (m : List Host.Cell) (a v : Nat) : Nat → List Host.Cell
  | 0 => m
  | n + 1 => wrBytes (wrByte m a (BitVec.ofNat 8 v)) (a + 1) (v / 256) n

/-- Write the bytes of `v` whose mask bit is 1. -/
def wrMasked (m : List Host.Cell) (a v mask : Nat) : Nat → List Host.Cell
  | 0 => m
  | n + 1 => wrMasked (if mask % 2 = 1 then wrByte m a (BitVec.ofNat 8 v) else m) (a + 1) (v / 256) (mask / 2) n

/-- Whether any poison unit of `u` bytes that bytes `a` to `a + n - 1` touch is poisoned (R76, R77). -/
def anyPois (m : Map Bool) (u a n : Nat) : Bool :=
  (List.range ((a + n - 1) / u - a / u + 1)).any (fun i => mget false m (a / u + i)) && decide (0 < n)

/-- The poison of each 4-byte lane of a read of `n` bytes, lane 0 first (R77, R260). -/
def lanePois (m : Map Bool) (u a n : Nat) : Nat :=
  (List.range ((n + 3) / 4)).foldl (fun acc i => if anyPois m u (a + 4 * i) (min 4 (n - 4 * i)) then acc + 2 ^ i else acc) 0

/-- Poison bits after a write of `n` bytes with lane poison `p` (R78): a poisoned lane sets each unit it touches, clean data
that covers a whole unit clears it, and a partial clean write leaves it. -/
def wrPois (m : Map Bool) (u a n : Nat) (p : Nat) : Map Bool :=
  if n = 0 then m else (List.range ((a + n - 1) / u - a / u + 1)).foldl (fun m i =>
    let q := a / u + i
    let lo := max a (q * u)
    let hi := min (a + n) (q * u + u)
    if (List.range ((hi - 1 - a) / 4 - (lo - a) / 4 + 1)).any (fun j => p.testBit ((lo - a) / 4 + j)) then mset false m q true
    else if lo = q * u ∧ hi = q * u + u then mset false m q false else m) m

/-- Replace element `i` of a list. -/
def lset : List α → Nat → α → List α
  | [], _, _ => []
  | _ :: l, 0, v => v :: l
  | a :: l, i + 1, v => a :: lset l i v

end Sys2Proof.Machine
end

