-- ==== Sys2Proof/Machine/Ops.lean ====
section
/-! DEFINITION. Named operations over the state: accessors, clocks and phases, poison and machine checks, address checks,
bank schedules, memory accesses, taking an exception and returning from one. -/
namespace Sys2Proof.Machine

/-! ### Accessors -/

def State.core (s : State) (c : Nat) : Core := mget Core.reset s.cores c
def State.setCore (s : State) (c : Nat) (x : Core) : State := { s with cores := mput s.cores c x }
def State.modCore (s : State) (c : Nat) (f : Core → Core) : State := s.setCore c (f (s.core c))
def Core.brush (x : Core) (b : Nat) : Brush := x.brushes.getD b Brush.reset
def Core.setBrush (x : Core) (b : Nat) (y : Brush) : Core :=
  { x with brushes := lset (x.brushes ++ List.replicate (b + 1 - x.brushes.length) Brush.reset) b y }
def Core.modBrush (x : Core) (b : Nat) (f : Brush → Brush) : Core := x.setBrush b (f (x.brush b))
def State.brush (s : State) (c b : Nat) : Brush := (s.core c).brush b
def State.modBrush (s : State) (c b : Nat) (f : Brush → Brush) : State := s.modCore c (fun x => x.modBrush b f)
def State.region (s : State) (g : Nat) : Region := mget Region.reset s.regions g
def State.modRegion (s : State) (g : Nat) (f : Region → Region) : State := { s with regions := mput s.regions g (f (s.region g)) }
def State.domain (s : State) (d : Nat) : Domain := mget Domain.reset s.domains d
def State.modDomain (s : State) (d : Nat) (f : Domain → Domain) : State := { s with domains := mput s.domains d (f (s.domain d)) }
def State.xing (s : State) (x : Nat) : Crossing := mget Crossing.reset s.xings x
def State.modXing (s : State) (x : Nat) (f : Crossing → Crossing) : State := { s with xings := mput s.xings x (f (s.xing x)) }
def State.queue (s : State) (q : Nat) : Queue := mget Queue.reset s.queues q
def State.modQueue (s : State) (q : Nat) (f : Queue → Queue) : State := { s with queues := mput s.queues q (f (s.queue q)) }
def State.port (s : State) (p : Nat) : Port := mget Port.reset s.ports p
def State.modPort (s : State) (p : Nat) (f : Port → Port) : State := { s with ports := mput s.ports p (f (s.port p)) }

/-- The time-sliced pair a core is of, and the other core of it (R174). -/
def State.pairOf (s : State) (c : Nat) : Option Pair := s.pairs.find? (fun p => p.first == c || p.first + 1 == c)
def Pair.second (p : Pair) (c : Nat) : Bool := p.first + 1 == c
def State.second (s : State) (c : Nat) : Bool := match s.pairOf c with | some p => p.second c | none => false
/-- The core whose physical place a core has (R174). -/
def State.hostOf (s : State) (c : Nat) : Nat := match s.pairOf c with | some p => p.host | none => c

/-- What belongs to the physical core: its memories and instruction stores, the errors in them, the host buffer and the undo log.
Errors in descriptors, keys from 2^41 to 2^42 − 1, belong to the context (R94). -/
def Core.withPhysical (x y : Core) : Core :=
  let ctx (e : Nat × Nat) : Bool := inR (2 ^ 41) (2 ^ 42 - 1) e.1
  { x with mem := y.mem, memP := y.memP, code := y.code, vault := y.vault, vaultP := y.vaultP, hbuf := y.hbuf,
           ecc := (y.ecc.filter (fun e => !ctx e)).foldl (fun m e => mput m e.1 e.2) (x.ecc.filter ctx), rowErrs := y.rowErrs, undo := y.undo, undoFull := y.undoFull, undoOn := y.undoOn }

/-- Give a core of a time-sliced pair the memories they share (R35, R174). -/
def State.hold (s : State) (c : Nat) : State :=
  match s.pairOf c with
  | none => s
  | some p =>
    if p.at_ = c then s
    else
      let x := s.core c
      let y := s.core p.at_
      { (s.setCore c (x.withPhysical y)).setCore p.at_ (y.withPhysical x) with
        pairs := s.pairs.map (fun q => if q = p then { p with at_ := c } else q) }

/-- The memories of a core's physical place, in the record of the core that has it for its own (R174). -/
def State.holdHost (s : State) (c : Nat) : State := match s.pairOf c with | some p => s.hold p.host | none => s
/-- Whether a core is the one of its pair that runs: its k counts for the port's reserved cycles (R47, R174). -/
def State.slotCore (s : State) (c : Nat) : Bool :=
  match s.pairOf c with
  | none => true
  | some p => c == if (s.core (p.first + 1)).later then p.first else p.first + 1

/-- The outcome that goes on. -/
abbrev Out := Host.Outcome State Fault Refusal

/-! ### Positions, clocks and phases -/

/-- Column and row of a core's key (R2). -/
def colOf (c : Nat) : Nat := c % 32
def rowOf (c : Nat) : Nat := c / 32
/-- The region of a core (R3). -/
def regionOf (c : Nat) : Nat := 2 * (rowOf c / 2) + colOf c / 16
/-- The panel of a core (R2). -/
def panelOf (c : Nat) : Nat := 2 * (rowOf c / 8) + colOf c / 16

def srcOf (a : Word) : Nat := (a.extractLsb' 0 6).toNat
def pOf (a : Word) : Nat := (a.extractLsb' 48 16).toNat
def qOf (a : Word) : Nat := (a.extractLsb' 32 16).toNat
def State.rsrc (s : State) (g : Nat) : Nat := srcOf (s.region g).a

/-- The lowest-numbered region of a source. -/
def State.lowest (s : State) (src : Nat) : Option Nat := (List.range 32).find? (fun g => s.rsrc g == src)
/-- The domain of a region: the regions of one source, by the lowest-numbered of them (R144); a region without a source is its own. -/
def State.domainOf (s : State) (g : Nat) : Nat := if s.rsrc g = 0 then 64 + g else (s.lowest (s.rsrc g)).getD g

def State.coreDom (s : State) (c : Nat) : Nat := s.domainOf (regionOf c)
/-- The region cycle a core is in. -/
def State.cyc (s : State) (c : Nat) : Nat := (s.region (regionOf c)).cyc
/-- The phase cycle k (R47). -/
def State.k (s : State) (c : Nat) : Nat := s.cyc c - (s.core c).k0
/-- Refresh and host-slot periods of a core's region (R69, R141). -/
def State.vref (s : State) (c : Nat) : Nat := ((s.region (regionOf c)).b.extractLsb' 32 16).toNat
def State.vhost (s : State) (c : Nat) : Nat := ((s.region (regionOf c)).b.extractLsb' 48 16).toNat

/-- The sitting placed on a core. -/
def State.sittingOf (s : State) (c : Nat) : Option Sitting := s.sittings.find? (fun t => t.cores.contains c)
def State.modSitting (s : State) (c : Nat) (f : Sitting → Sitting) : State :=
  { s with sittings := s.sittings.map (fun t => if t.cores.contains c then f t else t) }

/-- Whether a core is in an exchange phase (R160): a sitting may have opened its next compute phase ahead of its domain (R171). -/
def State.ahead (s : State) (c : Nat) : Bool := match s.sittingOf c with | some z => z.early | none => false
def State.exch (s : State) (c : Nat) : Bool := (s.domain (s.coreDom c)).exch && !s.ahead c
/-- The phase counter (R144). -/
def State.phaseN (s : State) (c : Nat) : Word := (s.domain (s.coreDom c)).n + if s.ahead c then 1 else 0

/-- Brushes that have not halted (R165). -/
def Core.alive (x : Core) : List Nat := (List.range 4).filter (fun b => (x.brush b).run != .halted)

/-! ### Traps and machine checks -/

def w64 (n : Nat) : Word := BitVec.ofNat 64 n
def mkTrap (code : Nat) (d0 d1 d2 : Word) : Trap := ⟨code, d0, d1, d2, 0, false, 0⟩
/-- An illegal transport raised after decoding (R205: position 0). -/
def badOp (code reason : Nat) : Trap := illegal reason code 0
def ownershipTrap (code : Nat) : Trap := mkTrap 0x04 (w64 code) 0 0
def privTrap (code : Nat) : Trap := mkTrap 0x17 (w64 code) 0 0
/-- A segment trap (R36): the operand, the size and trigger code, the check. -/
def segTrap (a : Word) (n code check : Nat) : Trap := mkTrap 0x0A a (w64 (n % 65536 + code * 65536)) (w64 check)
/-- Poison consumed (R343). -/
def poisonTrap (x : Core) (a : Word) (way : Nat) : Trap :=
  let mask := (List.range 8).foldl (fun m i => if (mget Acc.zero x.accs i).p = 0 then m else m + 2 ^ i) 0
  let pois := (List.range 8).foldl (fun m i => m + ((mget 0 x.mxc i).extractLsb' 32 16).toNat) 0
  mkTrap 0x1A a (w64 way) (w64 (mask + (pois % 65536) * 2 ^ 32))

/-- Station number of a core's physical position (R98, R173); the remap table holds per panel row the skipped column + 1. -/
def State.station (s : State) (c : Nat) : Nat :=
  let c := s.hostOf c
  let pn := panelOf c
  let w := rowOf c % 8
  let skip := mget 0 s.remap (pn * 8 + w)
  let col := colOf c % 16
  pn * 136 + 17 * w + (if skip ≠ 0 ∧ skip - 1 ≤ col then col + 1 else col)

/-- Raise an MSI-X vector. -/
def State.raiseMsi (s : State) (v : Nat) : State := { s with msi := s.msi ++ [v] }
/-- The vector of the frame's machine checks, and those of the queues. -/
def mcVector : Nat := 64

/-- Enter an error in its machine-check bank (R339, R340). -/
def mcEnter (m : Map McBank) (e : McRec) : Map McBank :=
  let key := e.set * 16 + e.bank
  let old := mget McBank.reset m key
  let oldCls := (old.status.extractLsb' 56 2).toNat
  let count := if e.cls = 0 ∧ old.count.toNat < 0xFFFFFFFF then old.count + 1 else old.count
  let b := if old.status.getLsbD 63 = false ∨ oldCls < e.cls then
      { status := w64 (2 ^ 63 + e.cls * 2 ^ 56 + e.ty * 2 ^ 32 + e.phase % 2 ^ 32) ||| (old.status &&& w64 (2 ^ 62)),
        addr := e.addr, misc := w64 (e.pos * 2 ^ 37 + e.brush * 2 ^ 32 + e.code * 2 ^ 20 + e.synd), count := count : McBank }
    else { old with status := old.status ||| w64 (2 ^ 62), count := count }
  mput m key b
/-- PUSED of the banks that recorded poison of a station as one of its brushes consumes poison (R339; log 101). -/
def mcUsed (m : Map McBank) (e : McRec) : Map McBank :=
  if !e.used then m
  else m.map (fun k =>
    if k.1 / 16 = e.set ∧ (k.1 % 16 < 8 ∨ k.1 % 16 = e.bank) ∧ k.2.status.getLsbD 63 ∧ k.2.status.extractLsb' 56 2 = 1 ∧ (k.2.misc.extractLsb' 37 11).toNat = e.pos then
      (k.1, { k.2 with status := k.2.status ||| w64 (2 ^ 61) })
    else k)
/-- Records in ascending POS, those of one station in the order in which they arose (R340). -/
def byPos : List McRec → List McRec
  | [] => []
  | e :: l =>
    let r := byPos l
    r.takeWhile (fun f => decide (f.pos < e.pos)) ++ e :: r.dropWhile (fun f => decide (f.pos < e.pos))
/-- The errors of the past fabric cycle enter their banks. -/
def State.mcFlush (s : State) : State :=
  let l := byPos s.mcNew
  { s with banks := l.foldl mcUsed (l.foldl mcEnter s.banks), mcNew := [] }

/-- The syndrome of an error, a free value (log 101): of SEC-DED, or unequal expected and computed residues (R339). -/
def State.syndrome (s : State) (ty : Nat) : Nat :=
  let v := Config.syndrome s.fv
  let residues (m : Nat) : Nat := v % m + (v + 1 + v / m % (m - 1)) % m * 8
  if ty = 6 then residues 3 else if ty = 7 then residues 7 else if ty < 6 ∨ ty = 0x13 ∨ ty = 0x14 then v % 2 ^ 20 else 0

/-- Record an error: set 0 to 7 a panel, 8 the frame. The reads of its cycle come before it (R305). -/
def State.mcRecord (s : State) (set bank ty cls : Nat) (phase : Nat) (addr : Word) (pos brush code : Nat) (used : Bool) : State :=
  let s := { s with mcNew := s.mcNew ++ [⟨set, bank, ty, cls, phase, addr, pos, brush, code, s.syndrome ty, used⟩], fv := s.fv + 1 }
  if cls = 0 then s else s.raiseMsi mcVector

/-- Count an error for the sitting of its core (R335, R349). -/
def State.countError (s : State) (c cls : Nat) : State :=
  s.modSitting c (fun t => if cls = 0 then { t with corrected := t.corrected + 1 } else { t with contained := t.contained + 1 })

/-- Record an error of a core (R338) and count it for its sitting. -/
def State.coreError (s : State) (c bank ty cls : Nat) (addr : Word) (brush code : Nat) : State :=
  (s.mcRecord (panelOf c) bank ty cls (s.phaseN c).toNat addr (s.station c) brush code false).countError c cls

/-- A brush consumes poison at its bundle (R338, R342). -/
def State.consumed (s : State) (c : Nat) (addr : Word) (brush code : Nat) : State :=
  (s.mcRecord (panelOf c) 9 0x0A 1 (s.phaseN c).toNat addr (s.station c) brush code true).countError c 1

/-- Set a core's poison-created flag (R342). -/
def Core.mark (x : Core) (p : Bool) : Core := if p then { x with created := true } else x

/-! ### Address checks (R24 to R36) -/

def SEGSP_SIZE (x : Core) : Nat := (x.segsp.extractLsb' 32 17).toNat
def SEGSP_CHAIN (x : Core) : Nat := (x.segsp.extractLsb' 16 16).toNat
def SEGSP_BASE (x : Core) : Nat := (x.segsp.extractLsb' 0 16).toNat
def SEGVT_SIZE (x : Core) : Nat := (x.segvt.extractLsb' 32 20).toNat
def SEGVT_BASE (x : Core) : Nat := (x.segvt.extractLsb' 0 19).toNat
def EXT (x : Core) (b : Nat) : Nat := (x.segis.extractLsb' (16 * b) 15).toNat

/-- The range an address lies in, with its index among the ranges, or none (R24). -/
def rangeOf (a : Nat) : Option (Space × Nat) :=
  if a < 0x400000 then some (.scratch, 0)
  else if inR 0x1000000 0x103FFFF a then some (.view, (a - 0x1000000) / 0x10000)
  else if inR 0x2000000 0x2000FFF a then some (.stream, 8)
  else if inR 0x2008000 0x200FFFF a then some (.stream, (a - 0x2008000) / 0x1000)
  else if inR 0x100000000 0x15FFFFFFF a then some (.vault, 0)
  else if inR 0x800000000 0xFFFFFFFFF a then some (.window, (a - 0x800000000) / 0x100000000)
  else none

/-- The range an access lies wholly in (R25). The four data views are one range (R24); each crossing slot is a range of its own, so an
access from one slot into the next fails check 2 (log 96: the table of R24 has the stream window in one row). -/
def accessRange (a n : Nat) : Option (Space × Nat) :=
  match rangeOf a, rangeOf (a + n - 1) with
  | some (sp, i), some (sp', j) => if sp = sp' ∧ (i = j ∨ sp = .view) then some (sp, i) else none
  | _, _ => none

/-- Who makes an access (R25). -/
inductive Client where
  | ls | vl | rm | mt | xe | sw
deriving DecidableEq, Repr

/-- R33, scratchpad: the physical address, or none where the segment or the chain region forbids it. -/
def relocScratch (x : Core) (sys wr : Bool) (a n : Nat) : Option Nat :=
  if sys then some a
  else if SEGSP_SIZE x * 64 < a + n then none
  else if wr && decide ((SEGSP_SIZE x - SEGSP_CHAIN x) * 64 < a + n) then none
  else some (SEGSP_BASE x * 64 + a)

/-- R33, vault: the physical offset. -/
def relocVault (x : Core) (sys : Bool) (a n : Nat) : Option Nat :=
  let o := a - 0x100000000
  if sys then some o else if SEGVT_SIZE x * 4096 < o + n then none else some (SEGVT_BASE x * 4096 + o)

/-- The crossing bound to a slot of a region, and whether the region produces (R27, R156). -/
def State.crossing (s : State) (g slot : Nat) : Option (Nat × Bool) :=
  (List.range 16).findSome? (fun i =>
    let cfg := (s.xing i).cfg
    if cfg.getLsbD 31 ∧ (cfg.extractLsb' 8 3).toNat = slot then
      if (cfg.extractLsb' 24 5).toNat = g then some (i, true)
      else if (cfg.extractLsb' 16 5).toNat = g then some (i, false) else none
    else none)

/-- Checks 2 to 5 of R36 on an access: the space and the physical address. -/
def checkAddrAs (s : State) (c : Nat) (sys : Bool) (cl : Client) (wr : Bool) (a : Word) (n code : Nat) : Except Trap (Space × Nat) :=
  let x := s.core c
  let seg (k : Nat) : Except Trap (Space × Nat) := .error (segTrap a n code k)
  if 2 ^ 36 ≤ a.toNat then seg 2
  else match accessRange a.toNat n with
    | none => seg 2
    | some (sp, i) =>
      let scalar := cl = .ls
      let vec := cl = .ls ∨ cl = .vl
      match sp with
      | .window => if wr then .error (mkTrap 0x0B a (w64 (n + code * 65536)) 3)
          else if vec ∨ cl = .xe then .ok (.window, a.toNat) else seg 5
      | .scratch => match relocScratch x sys wr a.toNat n with
          | some p => .ok (.scratch, p)
          | none => seg 5
      | .vault => if vec ∨ cl = .xe then
            match relocVault x sys a.toNat n with
            | some p => .ok (.vault, p)
            | none => seg 5
          else seg 5
      | .view =>
        if wr && !sys then .error (privTrap code)
        else if !scalar then seg 5
        else
          let o := a.toNat - 0x1000000
          if !sys && (List.range n).any (fun j => decide (EXT x ((o + j) / 0x10000) ≤ (o + j) % 0x10000 / 4)) then seg 5
          else .ok (.view, o)
      | .stream =>
        if i = 8 then (if wr ∨ ¬ scalar then seg 5 else .ok (.stream, a.toNat - 0x2000000))
        else if ¬ vec then seg 5
        else match s.crossing (regionOf c) i with
          | none => seg 16
          | some (ix, prod) =>
            let cfg := (s.xing ix).cfg
            if prod ≠ wr then seg 16
            else if !cfg.getLsbD 30 && decide ((cfg.extractLsb' 0 5).toNat * 64 < a.toNat % 0x1000 + n) then seg 5
            else .ok (.stream, a.toNat - 0x2000000)

/-- The same in a brush's privilege. -/
def checkAddr (s : State) (c b : Nat) (cl : Client) (wr : Bool) (a : Word) (n code : Nat) : Except Trap (Space × Nat) :=
  checkAddrAs s c (s.brush c b).sys cl wr a n code

/-! ### Traps raised by engines (R311) -/

/-- Mark a trap for a brush; a halted brush's goes to the lowest one that has not halted, and with none it is a contained error
that ends the task. Where `now` holds it is taken in this cycle's turn, else from the next cycle on. -/
def State.markTrapAt (s : State) (now : Bool) (c b : Nat) (t : Trap) : State :=
  let x := s.core c
  -- R309: a semp's post lost at a full semaphore has fate Next, a boundary's poison re-executes, every other Before
  let t := { t with fate := if t.code = 0x1A then 0 else if t.code = 2 ∧ t.d1 = 20 then 1 else 2 }
  match (if (x.brush b).run = .halted then x.alive.head? else some b) with
  | some b => s.modBrush c b (fun y => if now then { y with pend := y.pend ++ [t] } else { y with pendNew := y.pendNew ++ [t] })
  | none =>
    (s.coreError c 13 0x0E 1 0 b 0).modSitting c (fun z => { z with status := z.status.orElse (fun _ => some (7, 3)) })

def State.markTrap (s : State) (c b : Nat) (t : Trap) : State := s.markTrapAt false c b t

/-! ### Bank schedules (R48 to R59) -/

/-- Granules an access touches. -/
def granules (a n : Nat) : List Nat := (List.range ((a + n - 1) / 64 - a / 64 + 1)).map (fun i => a / 64 + i)

/-- Two entries name one bank in one bank cycle. -/
def BankE.shares (e f : BankE) : Bool := e.cyc == f.cyc && e.bank == f.bank

/-- Two entries that may not stand together (R52): one bank in one bank cycle, but for one operation's own uses. -/
def BankE.meets (e f : BankE) : Bool := e.shares f && !(e.seq == f.seq && e.gran == f.gran)

/-- One word of the details of a bank conflict (R54). -/
def BankE.detail (e : BankE) : Word := w64 (e.req + e.code * 65536 + e.addr * 2 ^ 28)

/-- The trap of a refused entry (R53, R54). -/
def conflictTrap (portB : Bool) (k : Nat) (e f : BankE) : Trap :=
  mkTrap 0x06 (w64 (e.bank + (if portB then 256 else 0) + k % 2 ^ 32 * 2 ^ 32)) e.detail f.detail

/-- Enter an operation's uses of port A, or the trap of the first that collides. -/
def enterSched (portB : Bool) (k0 : Nat) (sch new : List BankE) : Except Trap (List BankE) :=
  match new.findSome? (fun e => (sch.find? (fun f => e.meets f)).map (fun f => (e, f))) with
  | some (e, f) => .error (conflictTrap portB (e.cyc - k0) e f)
  | none => .ok (sch ++ new)

/-- The uses an access makes of its banks in one cycle. -/
def bankUses (cyc a n : Nat) (wr : Bool) (req code laddr brush seq : Nat) : List BankE :=
  (granules a n).map (fun g => ⟨cyc, g % 64, g, wr, req, code, laddr, brush, seq⟩)

/-! ### Performing accesses -/

/-- Read scratchpad bytes with their lane poison (R77). -/
def Core.rdScratch (x : Core) (a n : Nat) : Nat × Nat := (rdBytes x.mem a n, lanePois x.memP 8 a n)

/-- Latent errors after a write of `n` bytes: a unit of `u` bytes written whole is clean again (R78). `off` is the first unit's key. -/
def clearEcc (m : Map Nat) (off u a n : Nat) : Map Nat :=
  m.filter (fun e => !(decide (off + (a + u - 1) / u ≤ e.1) && decide (e.1 < off + (a + n) / u)))

/-- Write scratchpad bytes (R78). -/
def Core.wrScratch (x : Core) (a n v p : Nat) : Core :=
  { x with mem := wrBytes x.mem a v n, memP := wrPois x.memP 8 a n p, ecc := clearEcc x.ecc 0 8 a n }.mark (p % 2 ^ ((n + 3) / 4) != 0)

/-- The vault as a brush's load sees it: committed bytes under the writes past their port cycle (R124). -/
def Core.vaultView (x : Core) : List Host.Cell × Map Bool :=
  x.vpend.foldl (fun (m : List Host.Cell × Map Bool) e => (wrBytes m.1 e.addr e.data.toNat e.n, wrPois m.2 16 e.addr e.n e.pois.toNat))
    (x.vault, x.vaultP)

def Core.rdVault (x : Core) (a n : Nat) : Nat × Nat :=
  let m := x.vaultView
  (rdBytes m.1 a n, lanePois m.2 16 a n)

/-- A vault line as the host and the XE see it, from its commit on (R124). -/
def Core.rdVaultCommitted (x : Core) (a n : Nat) : Nat × Nat := (rdBytes x.vault a n, lanePois x.vaultP 16 a n)

/-- Add the undo entry of a line's first overwrite (R345); a full log stops logging (R346). -/
def Core.logLine (x : Core) (line : Nat) : Core :=
  if !x.undoOn || x.undo.any (fun e => e.1 == line) then x
  else if Config.undoEntries ≤ x.undo.length then { x with undoFull := true }
  else
    let d := rdBytes x.vault (line * 64) 64
    let p := (List.range 4).foldl (fun m i => if mget false x.vaultP (line * 4 + i) then m + 2 ^ i else m) 0
    { x with undo := x.undo ++ [(line, BitVec.ofNat 512 d, BitVec.ofNat 4 p)],
             vault := wrBytes x.vault (Config.undoBase + 128 * x.undo.length) (line * 64 + p * 2 ^ 64 + d * 2 ^ 512) 128,
             vaultP := wrPois x.vaultP 16 (Config.undoBase + 128 * x.undo.length) 128 0,
             ecc := clearEcc x.ecc (2 ^ 40) 16 (Config.undoBase + 128 * x.undo.length) 128 }

/-- Commit vault bytes (R68, R78), logging the lines first (R345). -/
def Core.commitVault (x : Core) (a n v p : Nat) : Core :=
  let x := (granules a n).foldl Core.logLine x
  { x with vault := wrBytes x.vault a v n, vaultP := wrPois x.vaultP 16 a n p, ecc := clearEcc x.ecc (2 ^ 40) 16 a n }.mark (p % 2 ^ ((n + 3) / 4) != 0)

/-- Whether the first overwrite of a line would be logged (R345). -/
def Core.logs (x : Core) (line : Nat) : Bool := x.undoOn && !x.undo.any (fun e => e.1 == line) && decide (x.undo.length < Config.undoEntries)

/-- A word of an instruction store (R64). -/
def Core.iword (x : Core) (b w : Nat) : IWord := mget ⟨0, false⟩ x.code (b * 16384 + w)

/-- Bytes of the data views at an offset of the four stores (R26). -/
def Core.rdView (x : Core) (o : Nat) : Nat → Nat
  | 0 => 0
  | n + 1 => ((x.iword (o / 0x10000) (o % 0x10000 / 4)).w.toNat / 256 ^ (o % 4)) % 256 + 256 * Core.rdView x (o + 1) n

/-- Store one byte through a data view: the tag stays (R26). -/
def Core.wrView (x : Core) (o v : Nat) : Nat → Core
  | 0 => x
  | n + 1 =>
    let key := o / 0x10000 * 16384 + o % 0x10000 / 4
    let old := mget ⟨0, false⟩ x.code key
    let sh := 8 * (o % 4)
    let w := (old.w &&& ~~~((0xFF : BitVec 32) <<< sh)) ||| (BitVec.ofNat 32 (v % 256) <<< sh)
    Core.wrView { x with code := mset ⟨0, false⟩ x.code key { old with w := w } } (o + 1) (v / 256) n

/-- Add landed bytes to a counter (R112): COUNT, and for a slot the arrival count of its tag. -/
def Core.landBytes (x : Core) (n bytes : Nat) (tag : Option Nat) : Core :=
  let l := mget Land.reset x.lands n
  let l := { l with count := l.count + BitVec.ofNat 32 bytes }
  let l := match tag with
    | none => l
    | some t => { l with arr := lset l.arr t (l.arr.getD t 0 + BitVec.ofNat 32 bytes) }
  { x with lands := mput x.lands n l }

/-- Record an exchange fault at a core's station (R119). -/
def Core.xfault (x : Core) (kind land : Nat) (d1 : Word) : Core := { x with xfaults := x.xfaults ++ [⟨kind, land, d1⟩] }

/-- Raise a semaphore by one, sticking at 65,535 (R248, R280). -/
def Core.semInc (x : Core) (n : Nat) : Core :=
  let v := mget 0 x.sems n
  if v = 0xFFFF then x else { x with sems := mput x.sems n (v + 1) }

/-- A row of a vault has yielded a corrected (1) or an uncorrectable error: an uncorrectable one, and a fourth corrected one, has the row
repaired, once (R351). -/
def rowError (c row kind : Nat) (s : State) : State :=
  let c := s.hostOf c
  let n := mget 0 (s.core c).rowErrs row + 1
  let s := s.modCore c (fun x => { x with rowErrs := if kind = 1 then mput x.rowErrs row n else x.rowErrs })
  if (kind = 1 ∧ n < 4) ∨ s.repairs.any (fun r => r.1 == c && r.2.1 == row) then s
  else { s with repairs := s.repairs ++ [(c, row, Config.rowBytes / 64)] }

/-- A latent error met in a unit: it is recorded; an uncorrectable one poisons its unit (R76, R77). -/
def eccUnit (c : Nat) (vault : Bool) (s : State) (e : Nat × Nat) : State :=
  let unit := if vault then e.1 - 2 ^ 40 else e.1
  let s := s.coreError c (if vault then 1 else 0) (if vault then 2 else 1) (if e.2 = 1 then 0 else 1) (w64 (unit * if vault then 16 else 8)) 0 0
  let s := if vault then rowError c (unit * 16 / Config.rowBytes) e.2 s else s
  if e.2 = 1 then s
  else s.modCore c (fun x => { x with ecc := mdel x.ecc e.1, created := true,
                                      memP := if vault then x.memP else mset false x.memP unit true,
                                      vaultP := if vault then mset false x.vaultP unit true else x.vaultP })

/-- Latent errors met by a read of `n` bytes (R76, R77; log 17): vault units have keys from 2^40. -/
def State.eccTouch (s : State) (c : Nat) (vault : Bool) (a n : Nat) : State :=
  let off := if vault then 2 ^ 40 else 0
  let u := if vault then 16 else 8
  ((s.core c).ecc.filter (fun e => decide (off + a / u ≤ e.1) && decide (e.1 ≤ off + (a + n - 1) / u))).foldl (eccUnit c vault) s

/-- Commit vault bytes; the read of each line that is logged meets its latent errors (R76, R77, R345). -/
def State.commitVault (s : State) (c a n v p : Nat) : State :=
  let s := (granules a n).foldl (fun s l => if (s.core c).logs l then s.eccTouch c true (l * 64) 64 else s) s
  s.modCore c (fun x => x.commitVault a n v p)

/-! ### Results in flight -/

/-- The key of a result latch among the newest triggers (R232). -/
def Dst.key : Dst → Nat
  | .ps n => n | .ss n => 100 + n | .vs n => 200 + n | .pv n => 300 + n

/-- The codes of VA0, VA1 and VX. -/
def vaCode (u code : Nat) : Bool :=
  match u with | 0 => inR 0x800 0x819 code | 1 => inR 0x880 0x899 code | _ => inR 0x900 0x917 code

/-- Whether a flight uses the vault port. -/
def Flight.inVault (f : Flight) : Bool := f.pieces.any (fun q => q.sp == .vault) || (!f.vsp && inR 0x100000000 0x15FFFFFFF f.d.toNat)

/-- Whether a flight is work of shared unit `u`, numbered as in R169. -/
def Flight.ofUnit (f : Flight) (u : Nat) : Bool :=
  match u with
  | 0 | 1 | 2 => f.vsp && vaCode u f.code
  | 3 => !f.vsp && inR 0x3B0 0x3B6 f.code
  | 9 => f.inVault
  | _ => false

/-- Work of a unit in transfer, which a trap lets run on (R313). -/
def Core.inMove (x : Core) (f : Flight) : Bool := x.moving.any (fun m => f.ofUnit m.1)

/-- The capturable operations of a brush (R313): vault stores past their port cycle and sends are not among the flights. -/
def Core.inFlight (x : Core) (b : Nat) : Nat := ((x.brush b).flights.filter (fun f => !x.inMove f)).length

/-- The newest triggers of the shared latches after one more operation, and of a brush's own (R232): vmxq fills VX.ys too. -/
def newestShared (f : Flight) (m : Map (Nat × Nat)) : Map (Nat × Nat) :=
  let m := match f.dst with
    | some (.ss n) => mput m (100 + n) (f.due, f.code)
    | some (.vs n) => mput m (200 + n) (f.due, f.code)
    | _ => m
  if f.wys then mput m 216 (f.due, f.code) else m
def newestOwn (f : Flight) (m : Map (Nat × Nat)) : Map (Nat × Nat) :=
  match f.dst with
  | some (.ps n) => mput m n (f.due, f.code)
  | some (.pv n) => mput m (300 + n) (f.due, f.code)
  | _ => m

/-- Whether an operation is the newest trigger of its latch, and of VX.ys. -/
def isNewest (x : Core) (y : Brush) (f : Flight) : Bool :=
  match f.dst with
  | some d => mget (0, 0) (match d with | .ps _ => y.newest | .pv _ => y.newest | _ => x.newest) d.key == (f.due, f.code)
  | none => false
def isNewestYs (x : Core) (f : Flight) : Bool := f.wys && mget (0, 0) x.newest 216 == (f.due, f.code)
/-- An operation as the newest trigger of its latch, of VX.ys, or of neither. -/
def Flight.asNewest (f : Flight) (new ys : Bool) : Flight := { f with dst := if new then f.dst else none, wys := f.wys && ys }

/-- The newest triggers without operation `f`: the latest of those that are left, `fl`, to its latches, if any is (R232). -/
def newestWithout (fl : List Flight) (f : Flight) (m : Map (Nat × Nat)) : Map (Nat × Nat) :=
  let again (key : Nat) (p : Flight → Bool) (m : Map (Nat × Nat)) : Map (Nat × Nat) :=
    match (fl.filter p).foldl (fun (r : Option Flight) g => match r with | some h => some (if h.seq < g.seq then g else h) | none => some g) none with
    | some g => mput m key (g.due, g.code)
    | none => mdel m key
  let m := match f.dst with | some d => again d.key (fun g => g.dst == some d) m | none => m
  if f.wys then again 216 (fun g => g.wys) m else m

/-- Add an operation to a brush (R230, R231, R313): reasons 14 and 31. -/
def addFlight (c b : Nat) (f : Flight) (s : State) : Except Trap State :=
  let x := s.core c
  let y := x.brush b
  let clash (fl : List Flight) : Bool := f.dst.isSome && fl.any (fun g => g.dst == f.dst && g.due == f.due)
  let shared := match f.dst with | some (.ss _) => true | some (.vs _) => true | _ => false
  let all := if shared then x.brushes.flatMap (fun z => z.flights) else y.flights
  if clash all then .error (badOp f.code 14)
  else if 12 ≤ x.inFlight b then .error (badOp f.code 31)
  else
    let x := { x with seq := x.seq + 1, newest := newestShared f x.newest }
    .ok (s.setCore c (x.setBrush b { y with flights := y.flights ++ [{ f with seq := x.seq, pc := y.pc }], newest := newestOwn f y.newest }))

/-- A flight without accesses: its result is known (KIND 0 or 4 of R316). -/
def Flight.done (b code : Nat) (vsp : Bool) (t due : Nat) (dst : Option Dst) (d : Word) (res : Vc) (flags : BitVec 5) : Flight :=
  { seq := 0, brush := b, vsp := vsp, code := code, t := t, due := due, dst := dst, d := d, store := false, pieces := [],
    slots := [], src := Vc.zero, idx := Vc.zero, res := res, ys := 0, flags := flags, wys := false, ysP := false, base := 0, pc := 0 }

/-- A scalar result as a flight's value. -/
def scVc (r : Sc) : Vc := ⟨BitVec.ofNat 2048 r.v.toNat, if r.p then 1 else 0⟩
def vcSc (r : Vc) : Sc := ⟨BitVec.ofNat 64 r.v.toNat, r.p.getLsbD 0 || r.p.getLsbD 1⟩

/-- The accesses that releases and fences wait for: of the scratchpad and the vault (R128, R129). -/
def Piece.counts (q : Piece) : Bool := q.sp == .scratch || q.sp == .vault

/-- The last cycle in which a flight performs an access that counts, if any is left (R124, R128). -/
def Flight.lastAccess (f : Flight) : Option Nat :=
  let p := f.pieces.foldl (fun m q => if q.counts then max m (q.cyc + 1) else m) 0
  let q := f.slots.foldl (fun m q => max m (q.1 + 3)) 0
  let m := max p q
  if m = 0 then none else some (m - 1)

/-- Whether the bank cycles of a pending `swset` and `swget` of a brush, issued before sequence number `seq`, are past by cycle `t` (R91). -/
def Core.swPerformed (x : Core) (b seq t : Nat) : Bool :=
  (match x.swset with | some z => decide (z.brush ≠ b) || decide (seq ≤ z.seq) || decide (z.w ≤ t + 1) | none => true)
  && x.engW.all (fun w => decide (w.brush ≠ b) || decide (seq ≤ w.seq) || decide (w.cyc ≤ t))

/-- Whether every scratchpad access and vault port cycle of a brush issued before sequence number `seq` is performed by cycle `t`, its
traps' captured ones included (R128, R137). RMW writes count; vault commits only where `commits`. A release or fence that the handler itself
issues is not held up by what its trap captured (DESIGN CHOICE; R137 gives no outcome for one; log 106). -/
def Core.performed (x : Core) (b seq t : Nat) (commits : Bool) : Bool :=
  let y := x.brush b
  y.flights.all (fun f => decide (seq ≤ f.seq) || (match f.lastAccess with | none => true | some m => decide (m ≤ t)))
  && x.rmwW.all (fun w => decide (w.brush ≠ b) || decide (seq ≤ w.seq) || decide (w.cyc ≤ t))
  && (!commits || x.vpend.all (fun e => decide (e.brush ≠ b) || decide (seq ≤ e.seq) || decide (e.cyc ≤ t)))
  && x.swPerformed b seq t
  && (match y.trapped with | some v => decide (v.seq < seq) || v.accs.all (fun q => decide (seq ≤ q)) | none => true)

/-- The same of its accesses to crossing slots (R300). -/
def Core.slotsPerformed (x : Core) (b seq t : Nat) : Bool :=
  let y := x.brush b
  y.flights.all (fun f => decide (seq ≤ f.seq) || f.pieces.all (fun q => q.sp != .stream || q.addr < 0x8000 || decide (q.cyc ≤ t)))
  && (match y.trapped with | some v => decide (v.seq < seq) || v.slotAccs.all (fun q => decide (seq ≤ q)) | none => true)

/-! ### Bytes of vectors -/

/-- Bytes `off` to `off + n - 1` of a vector, as a number. -/
def vbytes (v : Vec) (off n : Nat) : Nat := v.toNat / 256 ^ off % 256 ^ n
/-- Replace bytes `off` to `off + n - 1`. -/
def vput (v : Vec) (off n val : Nat) : Vec :=
  let m := 256 ^ n - 1
  (v &&& ~~~(BitVec.ofNat 2048 (m * 256 ^ off))) ||| BitVec.ofNat 2048 (val % 256 ^ n * 256 ^ off)
/-- Lane `i` of a vector (R258). -/
def vlane (v : Vec) (i : Nat) : BitVec 32 := BitVec.ofNat 32 (v.toNat / 2 ^ (32 * i))
def vsetLane (v : Vec) (i : Nat) (x : BitVec 32) : Vec := vput v (4 * i) 4 x.toNat
/-- Replace the poison of `n` lanes from lane `i`. -/
def pput (p : BitVec 64) (i n bits : Nat) : BitVec 64 :=
  (p &&& ~~~(BitVec.ofNat 64 ((2 ^ n - 1) * 2 ^ i))) ||| BitVec.ofNat 64 (bits % 2 ^ n * 2 ^ i)

/-- Whether the sitting placed on a core is frozen (R171). -/
def State.frozen (s : State) (c : Nat) : Bool := match s.sittingOf c with | some z => z.frozen | none => false

/-- A poisoned value may not be stored into a crossing slot: it would leave the sitting (R342, R343). -/
def crossingClean (s : State) (c : Nat) (sp : Space) (a : Word) (p : Bool) : Except Trap Unit :=
  if sp = .stream ∧ p then .error (poisonTrap (s.core c) a 6) else .ok ()

/-! ### The stream window (R155, R157, R158) -/

/-- The doubleword of the status page at an offset (R155). -/
def State.statusDw (s : State) (g o : Nat) : Word :=
  let r := s.region g
  if o = 0 then w64 (g * 256) ||| r.state.setWidth 64
  else if o = 8 ∨ o = 16 then w64 r.snum
  else if o = 24 then r.ovrn.setWidth 64
  else if o = 32 then r.miss.setWidth 64
  else if o = 40 then w64 (r.grid - 1)
  else if 0x100 ≤ o ∧ o < 0x180 then
    match s.crossing g ((o - 0x100) / 16) with
    | none => 0
    | some (i, _) =>
      let x := s.xing i
      if o % 16 = 0 then x.repeated ++ x.dropped else if x.cfg.getLsbD 30 then x.delta else 0
  else 0

/-- Bytes of a frame that reads zero until it is written. -/
def frameByte (f : List Byte) (i : Nat) : Nat := (f.getD i 0).toNat

/-- One byte of a crossing slot as a consumer's read issued in cycle `t` sees it (R157, R158, R300). -/
def State.slotByte (s : State) (i t o : Nat) : Nat :=
  let x := s.xing i
  let (held, out, k, phi, delta) := match x.old.find? (fun e => decide (t < e.1)) with
    | some (_, z) => z
    | none => (x.held, x.out, x.k, x.phi, x.delta)
  if x.cfg.getLsbD 30 then
    let w : Nat := if o < 4 then out.toNat else if o < 8 then k % 2 ^ 32
      else if o < 12 then phi.toNat else if inR 16 23 o then delta.toNat else 0
    w / 256 ^ (if inR 16 23 o then o - 16 else o % 4) % 256
  else frameByte (x.frames.getD held []) o

/-- Read of the stream window by core `c`, issued in cycle `t` (R27). -/
def State.rdStream (s : State) (c t o n : Nat) : Nat × Nat :=
  let g := regionOf c
  let byte (a : Nat) : Nat :=
    if a < 0x1000 then (s.statusDw g (a / 8 * 8)).toNat / 256 ^ (a % 8) % 256
    else match s.crossing g ((a - 0x8000) / 0x1000) with
      | none => 0
      | some (i, _) => s.slotByte i t (a % 0x1000)
  let v := (List.range n).foldr (fun j acc => byte (o + j) + 256 * acc) 0
  (v, 0)

/-- Write of the stream window: into the producer's open frame (R157). -/
def State.wrStream (s : State) (c o n v : Nat) : State :=
  match s.crossing (regionOf c) ((o - 0x8000) / 0x1000) with
  | none => s
  | some (i, _) =>
    s.modXing i (fun x =>
      let f := x.frames.getD x.openI []
      let f := f ++ List.replicate (o % 0x1000 + n - f.length) 0
      let f := (List.range n).foldl (fun f j => lset f (o % 0x1000 + j) (BitVec.ofNat 8 (v / 256 ^ j))) f
      { x with frames := lset x.frames x.openI f })

/-! ### Performing the pieces of brush accesses -/

/-- A load's value from its bytes: sign- or zero-extended (R238). -/
def lsExtend (code : Nat) (v : Nat) : Word :=
  match code with
  | 0x2E0 => (BitVec.ofNat 8 v).signExtend 64 | 0x2E1 => (BitVec.ofNat 8 v).setWidth 64
  | 0x2E2 => (BitVec.ofNat 16 v).signExtend 64 | 0x2E3 => (BitVec.ofNat 16 v).setWidth 64
  | 0x2E4 => (BitVec.ofNat 32 v).signExtend 64 | 0x2E5 => (BitVec.ofNat 32 v).setWidth 64
  | _ => w64 v

/-- One read piece: its bytes and lane poison enter the flight's result; an LS load extends its value (R238). -/
def readPiece (s : State) (c : Nat) (f : Flight) (q : Piece) : State × Flight :=
  let s := match q.sp with
    | .scratch => s.eccTouch c false q.addr q.n
    | .vault => s.eccTouch c true q.addr q.n
    | _ => s
  let x := s.core c
  let (v, p) := match q.sp with
    | .scratch => x.rdScratch q.addr q.n
    | .vault => x.rdVault q.addr q.n
    | .view => (x.rdView q.addr q.n, 0)
    | .stream => s.rdStream c f.t q.addr q.n
    | .window => (0, 0)
  (s, if q.sp = .window then f else
    if !f.vsp && inR 0x2E0 0x2E6 f.code then { f with res := scVc ⟨lsExtend f.code v, p != 0⟩ } else
    { f with res := ⟨vput f.res.v q.off q.n v, pput f.res.p (q.off / 4) ((q.n + 3) / 4) p⟩ })

/-- One write piece. A vault line commits 24 cycles after its port cycle (R68). -/
def writePiece (s : State) (c : Nat) (f : Flight) (q : Piece) : State :=
  let v := vbytes f.src.v q.off q.n
  let p := f.src.p.toNat / 2 ^ (q.off / 4) % 2 ^ ((q.n + 3) / 4)
  match q.sp with
  | .scratch => s.modCore c (fun x => x.wrScratch q.addr q.n v p)
  | .view => s.modCore c (fun x => { x.wrView q.addr v q.n with ecc := clearEcc x.ecc (2 ^ 42) 4 q.addr q.n })
  | .stream => s.wrStream c q.addr q.n v
  | .vault => s.modCore c (fun x => { x with vpend := x.vpend ++
      [⟨q.cyc + 24, f.brush, q.addr, q.n, BitVec.ofNat 2048 v, BitVec.ofNat 64 p, none, f.seq⟩] })
  | .window => s

/-- A vldw lane from its element: extended, or its exact value in fp32 (R274). -/
def widenEl (ty b : Nat) : Nat :=
  if tyInt ty then intBits 4 (intVal ty b)
  else match valOf ty b with
    | .nan => fp32.nanCode
    | .inf n => fp32.infCode n
    | x => (roundF fp32 0 false x 0).1
/-- The 64 lanes of a vldw from its bytes; `q` tells whether its mode is poisoned (R260). -/
def widen (ty : Nat) (q : Bool) (r : Vc) : Vc :=
  let es := tyBytes ty
  (List.range 64).foldl (fun (a : Vc) j =>
    ⟨a.v ||| BitVec.ofNat 2048 (widenEl ty (vbytes r.v (es * j) es) * 2 ^ (32 * j)),
     a.p ||| (if q || r.p.getLsbD (es * j / 4) then BitVec.ofNat 64 (2 ^ j) else 0)⟩) Vc.zero

/-- Perform a flight's pieces of cycle `t` that `sel` chooses. The last piece of a vldw widens the bytes; lane 1 of its idx
holds the type, and in bit 8 whether the mode was poisoned (R260, R274, log 10). -/
def performPieces (sel : Flight → Piece → Bool) (c t : Nat) (s : State) (f : Flight) : State × Flight :=
  let (s, g) := f.pieces.foldl (fun (a : State × Flight) q =>
    if q.cyc = t ∧ sel f q then
      let (s, f) := if f.store then (writePiece a.1 c a.2 q, a.2) else readPiece a.1 c a.2 q
      (s, { f with pieces := f.pieces.filter (fun r => r != q) })
    else a) (s, f)
  (s, if !f.vsp && f.code == 0x3B6 && f.pieces != [] && g.pieces == [] then { g with res := widen (vbytes g.idx.v 4 1) (g.idx.v.getLsbD 40) g.res } else g)

/-- Perform over every flight of a core. -/
def performAll (sel : Flight → Piece → Bool) (c t : Nat) (s : State) : State :=
  (List.range 4).foldl (fun s b =>
    (s.brush c b).flights.foldl (fun s f =>
      if f.pieces.any (fun q => q.cyc == t && sel f q) then
        let (s, f') := performPieces sel c t s f
        s.modBrush c b (fun y => { y with flights := y.flights.map (fun g => if g.seq = f.seq then f' else g) })
      else s) s) s

/-! ### Atomics (R57 to R62, R240, R241) -/

/-- Trigger codes of the atomics by operation: 0 add … 9 cas, and the width in bytes. -/
def rmwOp (f : Flight) : Nat × Nat :=
  if f.vsp then ((match f.code with | 0x9C0 => 0 | 0x9C1 => 2 | 0x9C2 => 5 | _ => 4), 4)
  else if f.code < 0x390 then (f.code - 0x380, 4) else (f.code - 0x390, 8)

/-- The new value of an atomic of `w` bits (R240). -/
def rmwNew (op : Nat) (w : Nat) (m o cmp : Nat) : Nat :=
  let S (x : Nat) : Int := (BitVec.ofNat w x).toInt
  match op with
  | 0 => (m + o) % 2 ^ w
  | 1 => Nat.land m o
  | 2 => Nat.lor m o
  | 3 => Nat.xor m o
  | 4 => if S o < S m then o else m
  | 5 => if S m < S o then o else m
  | 6 => min m o
  | 7 => max m o
  | 8 => o
  | _ => if m = cmp then o else m

/-- The operand bytes a slot read takes: memory, the bypass of pending atomic writes (R59), then the brush's own stores of earlier
bundles still in the forwarding table (R125), which lie over the bypass (log 89). -/
def rmwRead (x : Core) (b : Nat) (g : Flight) (t a n : Nat) : Nat × Bool :=
  let (v, p) := x.rdScratch a n
  let onto (v lo k d : Nat) : Nat :=
    (List.range n).foldl (fun v j =>
      if lo ≤ a + j ∧ a + j < lo + k then v - v / 256 ^ j % 256 * 256 ^ j + d / 256 ^ (a + j - lo) % 256 * 256 ^ j else v) v
  let (v, p) := x.rmwW.foldl (fun (r : Nat × Bool) w =>
    (onto r.1 w.addr w.n w.data.toNat, r.2 || (w.pois && decide (w.addr < a + n ∧ a < w.addr + w.n)))) (v, p != 0)
  (x.brush b).flights.foldl (fun (r : Nat × Bool) f =>
    if f.store && !f.vsp && inR 0x2E7 0x2EA f.code && decide (f.seq < g.seq) && decide (f.t < g.t) then
      f.pieces.foldl (fun r q => if q.sp = .scratch ∧ t ≤ q.cyc then
        (onto r.1 q.addr q.n (vbytes f.src.v q.off q.n), r.2 || (f.src.p != 0 && decide (q.addr < a + n ∧ a < q.addr + q.n))) else r) r
    else r) (v, p)

/-- The physical address of an atomic's lane: its local address, relocated (R33). -/
def Flight.rmwLocal (f : Flight) (lane : Nat) : Nat := if f.vsp then vbytes f.idx.v (4 * lane) 4 else f.d.toNat
def Flight.rmwAddr (f : Flight) (lane : Nat) : Nat := f.rmwLocal lane + f.base

/-- Perform the slot of cycle `t` of one atomic: read, operate, leave the write for two cycles later. -/
def rmwSlotStep (c b t : Nat) (s : State) (f : Flight) : State :=
  match f.slots.find? (fun e => e.1 = t) with
  | none => s
  | some (_, lane) =>
    let (op, n) := rmwOp f
    let off := if f.vsp then 4 * lane else 0
    let addr := f.rmwAddr lane
    let s := s.eccTouch c false addr n
    let x := s.core c
    let (m, p) := rmwRead x b f t addr n
    let o := vbytes f.src.v off n
    let cmp := vbytes f.src.v 8 n
    let pd := p || (if f.vsp then f.src.p.getLsbD lane else f.src.p.getLsbD 0 || f.src.p.getLsbD 2)
    let new := rmwNew op (8 * n) m o cmp
    let f' := { f with slots := f.slots.filter (fun e => e.1 != t),
                       res := ⟨vput f.res.v off n m, pput f.res.p (off / 4) 1 (if p then 1 else 0)⟩ }
    let y := x.brush b
    let x : Core := { x with rmwW := x.rmwW ++ [⟨t + 2, addr, n, w64 new, pd, b, f.seq⟩] }
    s.setCore c (x.setBrush b { y with flights := y.flights.map (fun g => if g.seq = f.seq then f' else g) })

/-- RMW slot reads of a core in cycle `t`. -/
def rmwSlots (c t : Nat) (s : State) : State :=
  (List.range 4).foldl (fun s b => (s.brush c b).flights.foldl (rmwSlotStep c b t) s) s

/-- RMW writes of cycle `t` (R61: an 8-byte word is seen whole). -/
def rmwWrites (c t : Nat) (s : State) : State :=
  s.modCore c (fun x =>
    let x' := (x.rmwW.filter (fun w => w.cyc = t)).foldl (fun x w => x.wrScratch w.addr w.n w.data.toNat (if w.pois then 3 else 0)) x
    { x' with rmwW := x'.rmwW.filter (fun w => w.cyc != t) })

/-! ### Uses of the bank schedules by brush accesses -/

def reqLs (b : Nat) : Nat := b
/-- Port A uses of a flight's scratchpad pieces. -/
def portAUses (f : Flight) (req seq : Nat) : List BankE :=
  f.pieces.flatMap (fun q => if q.sp = .scratch then bankUses q.cyc q.addr q.n f.store req f.code (f.d.toNat % 2 ^ 36) f.brush seq else [])
/-- Port B uses of an indexed access (R63): its own lane cycles. -/
def idxUses (f : Flight) (seq : Nat) : List BankE :=
  f.pieces.flatMap (fun q => if q.sp = .scratch then bankUses q.cyc q.addr q.n f.store 0x05 f.code (q.addr - f.base) f.brush seq else [])
/-- Port B uses of an atomic: three cycles for each slot (R59). Atomics never collide with one another. -/
def rmwUses (f : Flight) (seq : Nat) : List BankE :=
  f.slots.flatMap (fun e =>
    let n := (rmwOp f).2
    (List.range 3).flatMap (fun j => bankUses (e.1 + j) (f.rmwAddr e.2) n true 0x08 f.code (f.rmwLocal e.2 % 2 ^ 36) f.brush seq))

def isRmwCode (f : Flight) : Bool := if f.vsp then inR 0x9C0 0x9C3 f.code else inR 0x380 0x399 f.code
def isIdxCode (f : Flight) : Bool := !f.vsp && inR 0x3B2 0x3B3 f.code

/-- Enter a flight's uses in the schedules of its core (R52, R56, R59, R63), or the conflict's trap. The forwarded load of
R56 does not meet its own brush's store in the same granule; a load of two granules is never forwarded (log 89). -/
def enterFlight (c : Nat) (f : Flight) (s : State) : Except Trap State :=
  let x := s.core c
  let seq := if f.seq = 0 then x.seq + 1 else f.seq
  if isRmwCode f then
    -- atomics never meet one another, but they meet a reduction or a drain (R59)
    match enterSched true x.k0 (x.schB.filter (fun e => e.req != 0x08 || decide (4 ≤ e.brush))) (rmwUses f seq) with
    | .error t => .error t
    | .ok _ => .ok (s.setCore c { x with schB := x.schB ++ rmwUses f seq })
  else if isIdxCode f then
    match enterSched true x.k0 x.schB (idxUses f seq) with
    | .error t => .error t
    | .ok l => .ok (s.setCore c { x with schB := l })
  else
    let uses := portAUses f (if inR 0x3B0 0x3B6 f.code then 0x04 else reqLs f.brush) seq
    let one := decide (uses.length = 1)
    let fwd (e : BankE) : Bool := one && !f.store && inR 0x2E0 0x2E6 f.code && e.wr && e.req == f.brush
      && uses.any (fun u => u.cyc == e.cyc && u.gran == e.gran)
    match enterSched false x.k0 (x.schA.filter (fun e => !fwd e)) uses with
    | .error t => .error t
    | .ok _ => .ok (s.setCore c { x with schA := x.schA ++ uses })

/-- A load that R56 combines with its brush's store of the cycle before, whose write falls in its bank cycle, reads after that store. -/
def isForwarded (x : Core) (f : Flight) (q : Piece) : Bool :=
  !f.store && inR 0x2E0 0x2E6 f.code && q.sp == .scratch &&
  (x.brush f.brush).flights.any (fun g => g.store && !g.vsp && inR 0x2E7 0x2EA g.code &&
    g.pieces.any (fun r => r.sp == .scratch && r.cyc == q.cyc && granules q.addr q.n == [q.addr / 64]
      && (granules r.addr r.n).contains (q.addr / 64)))

/-! ### The accesses of an operation, counted from its issue (R50, R58, R63, R68) -/

/-- Bytes of an LS operation (R238). -/
def lsBytes (code : Nat) : Nat :=
  match code with
  | 0x2E0 => 1 | 0x2E1 => 1 | 0x2E7 => 1 | 0x2E2 => 2 | 0x2E3 => 2 | 0x2E8 => 2 | 0x2E4 => 4 | 0x2E5 => 4 | 0x2E9 => 4
  | _ => 8
def lsIsStore (code : Nat) : Bool := inR 0x2E7 0x2EA code

/-- LS latency by range (R230), and the bank cycle of a load and a store (R26, R27, R50). -/
def lsDue (sp : Space) (store : Bool) (t : Nat) : Nat :=
  if store then t + 3 else match sp with | .vault => t + 48 | .window => t + 12 | _ => t + 4
def lsPieces (sp : Space) (code phys t : Nat) : List Piece :=
  match sp with
  | .vault => [] | .window => []
  | _ => [⟨if lsIsStore code then t + 3 else t + 2, sp, phys, lsBytes code, 0, 0⟩]

/-- Whether a VL code stores. -/
def vlIsStore (code : Nat) : Bool := code == 0x3B1 || code == 0x3B5 || code == 0x3B3

/-- A contiguous run cut at 64-byte lines: line pieces in ascending order (R67, R273). -/
def cutLines (a n : Nat) : List (Nat × Nat × Nat) :=
  (granules a n).map (fun g => (max a (g * 64), min (a + n) (g * 64 + 64) - max a (g * 64), max a (g * 64) - a))

/-- VL latency by range (R230) and store cycles. -/
def vlDue (sp : Space) (code t lines : Nat) : Nat :=
  if vlIsStore code then (if sp = .vault then t + lines - 1 else t + 3)
  else match sp with | .vault => t + 52 | .window => t + 12 | _ => t + 6

/-- Pieces of an affine vector access given the physical addresses of its runs. -/
def vlPieces (sp : Space) (code t : Nat) (runs : List (Nat × Nat × Nat)) : List Piece :=
  match sp with
  | .window => []
  | .vault => match runs with
    | [] => []
    | (a, _, _) :: _ =>
      let n := runs.foldl (fun m r => m + r.2.1) 0
      let ls := cutLines a n
      (List.range ls.length).map (fun i => let l := ls.getD i (0, 0, 0); ⟨t + i, .vault, l.1, l.2.1, l.2.2, 0⟩)
  | _ => runs.map (fun r => ⟨if vlIsStore code then t + 3 else t + 2, sp, r.1, r.2.1, r.2.2, 0⟩)

/-- The checks of an affine access's address (R36, R273), in the brush's privilege: its space and its runs by physical address,
bytes and vector byte. `es` is vldw's element size. -/
def vlCheck (s : State) (c b code : Nat) (d : Word) (stride : BitVec 32) (es : Nat) : Except Trap (Space × List (Nat × Nat × Nat)) :=
  let st := vlIsStore code
  let strided := (code == 0x3B0 || code == 0x3B1) && stride != 0 && stride != 64
  let n := match code with | 0x3B0 => 256 | 0x3B1 => 256 | 0x3B6 => 64 * es | _ => 64
  if d.toNat % 4 ≠ 0 ∨ (strided ∧ stride.toNat % 4 ≠ 0) then .error (segTrap d n code 11)
  else if strided then
    let a (p : Nat) : Word := d + BitVec.ofInt 64 (p * stride.toInt)
    if (List.range 4).any (fun p => decide (Config.scratchBytes < (a p).toNat + 64)) then .error (segTrap d n code 11)
    else
      (match (List.range 4).mapM (fun p => relocScratch (s.core c) ((s.brush c b).sys) st (a p).toNat 64) with
       | none => .error (segTrap d n code 5)
       | some l => .ok (.scratch, (List.range 4).map (fun p => (l.getD p 0, 64, 64 * p))))
  else do
    let (sp, ph) ← checkAddr s c b .vl st d n code
    .ok (sp, if n = 256 then (List.range 4).map (fun p => (ph + 64 * p, 64, 64 * p)) else [(ph, n, 0)])

/-- Active lanes of an index or address vector: bit 31 clear (R241, R275). -/
def activeLanes (idx : Vec) : List Nat := (List.range 64).filter (fun i => !(vlane idx i).getLsbD 31)

/-- Slots of a brush from cycle `t` on: the first `n` with k mod 4 = b, from phase origin `k0` (R58). -/
def slotsFrom (k0 b t n : Nat) : List Nat :=
  let s := t + (b + 4 - (t - k0) % 4) % 4
  (List.range n).map (fun i => s + 4 * i)

/-! ### Taking a trap (R312 to R318) -/

/-- The record kind of a flight (R316). -/
def recKind (f : Flight) : Nat :=
  let busy := f.pieces != [] || f.slots != []
  if inR 0x3B0 0x3B6 f.code || f.vsp then (if busy then 5 else 4)
  else if !busy then 0
  else if isRmwCode f then 3
  else if f.store then 2 else 1

/-- Blocks a record kind uses. -/
def recBlocks (k : Nat) : Nat := if k = 3 ∨ k = 4 then 1 else if k = 5 then 2 else 0

/-- What relocation adds to a local scratchpad address of a brush (R33). -/
def State.physBase (s : State) (c b : Nat) : Nat := if (s.brush c b).sys then 0 else SEGSP_BASE (s.core c) * 64

/-- Lanes of a flight already performed are marked inactive (R316). -/
def doneInactive (f : Flight) : Vec :=
  if isIdxCode f || (f.vsp && isRmwCode f) then
    (activeLanes f.idx.v).foldl (fun v i =>
      if f.pieces.any (fun q => q.lane == i) || f.slots.any (fun e => e.2 == i) then v else vsetLane v i (vlane v i ||| 0x80000000)) f.idx.v
  else f.idx.v

/-- Block BLK of a record of kind 5: store data or operands; the lanes with nothing left to perform hold their result (R316, log 10). -/
def recData (f : Flight) : Vc :=
  if !f.store && (isIdxCode f || (f.vsp && isRmwCode f)) then
    (List.range 64).foldl (fun (r : Vc) i =>
      if f.pieces.any (fun q => q.lane == i) || f.slots.any (fun e => e.2 == i) then r
      else ⟨vsetLane r.v i (vlane f.res.v i), pput r.p i 1 (if f.res.p.getLsbD i then 1 else 0)⟩) f.src
  else if f.store then f.src else f.res

/-- One record (R316): its three doublewords. -/
def recWords (x blk : Nat) (f : Flight) : Nat × Nat × Nat :=
  let k := recKind f
  let pois := match k with
    | 0 => f.res.p.getLsbD 0 || f.res.p.getLsbD 1
    | 2 => f.src.p != 0
    | 3 => f.src.p != 0
    | 4 => f.ysP
    | _ => false
  let rd0 := f.code + (if f.vsp then 2 ^ 12 else 0) + k * 2 ^ 13 + (f.due - x) % 512 * 2 ^ 16
    + (if recBlocks k = 0 then 0 else blk) * 2 ^ 25 + f.flags.toNat * 2 ^ 30 + (if pois then 2 ^ 35 else 0)
  let rd1 := match k with
    | 0 => f.res.v.toNat % 2 ^ 64
    | 4 => if f.wys then f.ys.toNat else 0
    | _ => f.d.toNat
  let rd2 := match k with
    | 2 => f.src.v.toNat % 2 ^ 64
    | 3 => f.src.v.toNat % 2 ^ 64
    | 4 => f.res.p.toNat
    | 5 => (recData f).p.toNat
    | _ => 0
  (rd0, rd1, rd2)

/-- Write a record and its capture blocks. -/
def writeRecord (b x i blk : Nat) (f : Flight) (m : List Host.Cell) : List Host.Cell :=
  let (r0, r1, r2) := recWords x blk f
  let a := Config.frameBase + 512 * b + 0xE0 + 24 * i
  let m := wrBytes (wrBytes (wrBytes m a r0 8) (a + 8) r1 8) (a + 16) r2 8
  let cap := Config.captureBase + 6144 * b + 256 * blk
  match recKind f with
  | 3 => wrBytes m cap (vbytes f.src.v 8 8) 256
  | 4 => wrBytes m cap f.res.v.toNat 256
  | 5 => wrBytes (wrBytes m cap (recData f).v.toNat 256) (cap + 256) (doneInactive f).toNat 256
  | _ => m

/-- Write records 0, 1, … with their blocks in record order, then zero records up to the twelfth (R314, R317). -/
def writeRecords (b x : Nat) : Nat → Nat → List Flight → List Host.Cell → List Host.Cell
  | i, _, [], m => wrBytes m (Config.frameBase + 512 * b + 0xE0 + 24 * i) 0 (24 * (12 - i))
  | i, blk, f :: fs, m => writeRecords b x (i + 1) (blk + recBlocks (recKind f)) fs (writeRecord b x i blk f m)

/-- The private latches of the frame, in order (R314). -/
def frameLatches (y : Brush) : List Sc := (List.range 20).map (fun i => mget Sc.zero y.lat i)

def causeWord (y : Brush) (t : Trap) (n : Nat) : Nat :=
  let lp := (List.range 20).foldl (fun m i => if (mget Sc.zero y.lat i).p then m + 2 ^ i else m) 0
  t.code + t.fate * 2 ^ 17 + (if t.part then 2 ^ 19 else 0) + (if y.sys then 2 ^ 20 else 0) + n * 2 ^ 32 + lp * 2 ^ 44

def resumeWord (y : Brush) : Nat :=
  match y.xfer with
  | none => y.pc % 2 ^ 14
  | some z => y.pc % 2 ^ 14 + z.dly * 2 ^ 16 + z.tgt % 2 ^ 14 * 2 ^ 32 + 2 ^ 47

/-- The frame and the capture area of a trap (R312 step 3, R314 to R317). -/
def writeFrame (x : Core) (b cyc k : Nat) (t : Trap) (fs : List Flight) : Core :=
  let y := x.brush b
  let a := Config.frameBase + 512 * b
  let put (m : List Host.Cell) (o v : Nat) := wrBytes m (a + o) v 8
  let m := put (put (put (put x.mem 0 (causeWord y t fs.length)) 8 t.d0.toNat) 0x10 t.d1.toNat) 0x18 t.d2.toNat
  let m := put (put (put (put m 0x20 (resumeWord y)) 0x28 x.cycle.toNat) 0x30 k) 0x38 0
  let m := (List.range 20).foldl (fun m i => put m (0x40 + 8 * i) (mget Sc.zero y.lat i).v.toNat) m
  let m := writeRecords b cyc 0 0 fs m
  let cap := Config.captureBase + 6144 * b
  let ov := mget Vc.zero y.vlat 0
  let yv := mget Vc.zero y.vlat 1
  let m := wrBytes (wrBytes m (cap + 256 * 22) ov.v.toNat 256) (cap + 256 * 23) yv.v.toNat 256
  let m := wrBytes (wrBytes m (Config.handlerArea + 16 * b) ov.p.toNat 8) (Config.handlerArea + 16 * b + 8) yv.p.toNat 8
  -- only the blocks written are clean again (R78)
  [(a, 512), (cap, 256 * (fs.foldl (fun n f => n + recBlocks (recKind f)) 0)), (cap + 256 * 22, 512), (Config.handlerArea + 16 * b, 16)].foldl
    (fun (x : Core) w => { x with memP := wrPois x.memP 8 w.1 w.2 0, ecc := clearEcc x.ecc 0 8 w.1 w.2 }) { x with mem := m }

/-- The checkpoint interval of a sitting's record (R327 offset 0x58). -/
def leBytes (l : List Byte) (o n : Nat) : Nat := ((l.drop o).take n).foldr (fun b acc => b.toNat + 256 * acc) 0
def Sitting.ckpt (t : Sitting) : Nat := leBytes t.task.rec_ 0x58 4

/-- The job device number of the sitting placed on a core (R327, R255). -/
def State.devOf (s : State) (c : Nat) : Nat := match s.sittingOf c with | some t => leBytes t.task.rec_ 0x70 2 | none => 0

/-- A contained error that ends in a rollback, or in the end of the task where the sitting cannot roll back (R343, R346):
`detail` is the completion detail. A sitting that has ended, or whose rollback is ordered, orders none. -/
def State.escalate (s : State) (c detail : Nat) : State :=
  match s.sittingOf c with
  | none => s
  | some t =>
    if t.ckpt ≠ 0 then if t.rolling || (t.frozen && t.status.isSome) then s else
      let s := s.modSitting c (fun t => { t with frozen := true, rolling := true })
      -- in a job of several parts the driver orders the rollback (R348)
      if 1 < leBytes t.task.rec_ 0x16 2 then s.raiseMsi mcVector else { s with agenda := s.agenda ++ [.ev (t.cores.headD c) .rollback] }
    else s.modSitting c (fun t => { t with status := t.status.orElse (fun _ => some (7, detail)) })

/-- Poison that a unit meets outside a bundle: a rollback of a sitting that checkpoints, at once, or a trap marked for the brush concerned
(R343). -/
def State.poisonMet (s : State) (c b : Nat) (t : Trap) : State :=
  if (s.sittingOf c).any (fun z => z.ckpt != 0) then s.escalate c 0 else s.markTrap c b t

/-- One flight after the reads of the present cycle; a load that R56 forwards reads its brush's store of the cycle. -/
def readNow (c cyc : Nat) (s : State) (f : Flight) : State × Flight :=
  let (s, f) := performPieces (fun f q => !isForwarded (s.core c) f q) c cyc s f
  if f.pieces.any (fun q => q.cyc == cyc) then
    let w := (s.brush c f.brush).flights.foldl (fun w g =>
      if g.store then (performPieces (fun g q => q.sp == .scratch && !isIdxCode g) c cyc w g).1 else w) s
    (s, (performPieces (fun _ _ => true) c cyc w f).2)
  else (s, f)

/-- Uses of the schedules after cycle `cyc` that stay when operations are captured: those of other operations, and of an atomic past
its slot read, whose write goes on (R312). -/
def Core.keepsUse (x : Core) (seqs : List Nat) (cyc : Nat) (e : BankE) : Bool :=
  !(seqs.contains e.seq && decide (cyc < e.cyc))
    || (e.req == 0x08 && x.rmwW.any (fun w => w.seq == e.seq && decide (e.cyc ≤ w.cyc) && (granules w.addr w.n).contains e.gran))

/-- Take a trap on brush `b` of core `c` in the present cycle (R312). Reads performed in this cycle stand; writes of this
cycle go on; everything later is captured and its uses of the schedules and the vault port withdrawn. A trap in the trapped state is
a double trap (R318). -/
def trapEntry (c b : Nat) (t : Trap) (gang : List Nat) (s : State) : State :=
  let cyc := s.cyc c
  if (s.brush c b).trapped.isSome then
    ((s.coreError c 10 0x0B 1 0 b 0).modBrush c b (fun y => { y with run := .stopped })).escalate c 0
  else
    let s := (s.brush c b).flights.foldl (fun s f =>
      if f.store then s else
        let (s, f') := readNow c cyc s f
        s.modBrush c b (fun y => { y with flights := y.flights.map (fun g => if g.seq = f.seq then f' else g) })) s
    let s := (s.brush c b).flights.foldl (rmwSlotStep c b cyc) s
    let x := s.core c
    let y := x.brush b
    let due (f : Flight) (q : Piece) : Bool := f.store && q.cyc == cyc
    let own := y.flights.filter (fun f => !x.inMove f)
    let stay := y.flights.filter x.inMove
      ++ (own.filter (fun f => f.pieces.any (due f))).map (fun f => { f with dst := none, pieces := f.pieces.filter (due f) })
    let fs := (own.filter (fun f => !(f.pieces != [] && f.pieces.all (due f)))).map (fun f => { f with pieces := f.pieces.filter (fun q => !due f q) })
    let seqs := fs.map (fun f => f.seq)
    let cap (f : Flight) : Cap := ⟨f.seq, f.t, isNewest x y f, isNewestYs x f, f.pc⟩
    -- a captured operation is in flight no more: it makes no read early (R232)
    let others := stay ++ (x.brushes.flatMap (fun z => z.flights)).filter (fun g => !y.flights.contains g)
    let drop (m : Map (Nat × Nat)) (shared : Bool) : Map (Nat × Nat) :=
      fs.foldl (fun m f => match f.dst with
        | some (.ss _) => if shared then newestWithout others (f.asNewest (isNewest x y f) (isNewestYs x f)) m else m
        | some (.vs _) => if shared then newestWithout others (f.asNewest (isNewest x y f) (isNewestYs x f)) m else m
        | _ => if shared then m else newestWithout stay (f.asNewest (isNewest x y f) false) m) m
    let left (p : Piece → Bool) : List Nat := (fs.filter (fun f => f.pieces.any p || f.slots != [])).map (fun f => f.seq)
    let lastRes := fs.foldl (fun m f => if f.pieces = [] ∧ f.slots = [] then max m (f.due + 1) else m) 0
    let w := match y.run with | .waiting w => some w | _ => none
    let served : Served := { x := cyc, kx := s.k c, seq := x.seq, wait := w, run := y.run, gang := gang,
                             caps := fs.map cap, accs := left Piece.counts,
                             slotAccs := (fs.filter (fun f => f.pieces.any (fun q => q.sp == .stream))).map (fun f => f.seq) }
    let x := writeFrame x b cyc (s.k c) t fs
    let gone := fs.flatMap (fun f => (f.pieces.filter (fun q => q.sp == .vault)).map (fun q => q.cyc))
    let y' : Brush := { y with
      trapped := some served, sys := true, pc := y.tvb.toNat, xfer := none, flights := stay, newest := drop y.newest false,
      run := if t.code = 0x16 ∧ t.d0 = 1 ∧ ¬ t.part then .waiting .service else .running,
      nextAt := max (cyc + 8) lastRes, after := none, newXfer := none, jump := none, newWait := none }
    s.setCore c ({ x with schA := x.schA.filter (x.keepsUse seqs cyc), schB := x.schB.filter (x.keepsUse seqs cyc),
                          vport := x.vport.filter (fun e => !gone.contains e.1), newest := drop x.newest true }.setBrush b y')

/-! ### Returning from a trap (R319, R320) -/

/-- A doubleword of brush `b`'s frame. -/
def frameDw (x : Core) (b o : Nat) : Nat := rdBytes x.mem (Config.frameBase + 512 * b + o) 8

/-- The frame's reserved fields are zero, NREC, LAT and BLK within their limits (R319). -/
def frameOk (x : Core) (b : Nat) : Bool :=
  let c := frameDw x b 0
  let r := frameDw x b 0x20
  let n := c / 2 ^ 32 % 16
  let okCause := c / 2 ^ 16 % 2 = 0 ∧ c / 2 ^ 17 % 4 < 3 ∧ c / 2 ^ 21 % 2 ^ 11 = 0 ∧ c / 2 ^ 36 % 256 = 0 ∧ n ≤ 12
  let okResume := r / 2 ^ 14 % 4 = 0 ∧ r / 2 ^ 46 % 2 = 0 ∧ r / 2 ^ 48 = 0
  decide (okCause ∧ okResume) && (List.range n).all (fun i =>
    let d := frameDw x b (0xE0 + 24 * i)
    decide (d / 2 ^ 36 = 0 ∧ d / 2 ^ 13 % 8 < 6 ∧ d / 2 ^ 16 % 512 ≠ 0) &&
    decide (¬ (d / 2 ^ 13 % 8 = 5) ∨ d / 2 ^ 25 % 32 + 1 ≤ 21) && decide (d / 2 ^ 25 % 32 ≤ 21))

/-- Whether a doubleword of brush `b`'s frame is poisoned, and a lane mask read from one: with its doubleword poisoned, of all lanes (R77). -/
def framePois (x : Core) (b o : Nat) : Bool := anyPois x.memP 8 (Config.frameBase + 512 * b + o) 8
def poisMask (p : Bool) (v : Nat) : BitVec 64 := if p then BitVec.allOnes 64 else BitVec.ofNat 64 v

/-- The capture blocks that the records of brush `b`'s frame use. -/
def frameBlocks (x : Core) (b : Nat) : Nat :=
  (List.range (min 12 (frameDw x b 0 / 2 ^ 32 % 16))).foldl (fun m i =>
    let d := frameDw x b (0xE0 + 24 * i)
    let n := recBlocks (d / 2 ^ 13 % 8)
    if n = 0 then m else max m (min 22 (d / 2 ^ 25 % 32 + n))) 0

/-- The return reads the frame, the capture blocks in use and the masks of RM.ov and RM.yv, and meets their latent errors (R76, R77, R319). -/
def frameTouch (c b : Nat) (s : State) : State :=
  let s := s.eccTouch c false (Config.frameBase + 512 * b) 512
  let cap := Config.captureBase + 6144 * b
  ((s.eccTouch c false cap (256 * frameBlocks (s.core c) b)).eccTouch c false (cap + 256 * 22) 512).eccTouch c false (Config.handlerArea + 16 * b) 16

/-- Poison in what a return takes as control or as an address: CAUSE, RESUME, RD0 of a record, its address, its lane addresses (R342; log 54). -/
def frameBad (x : Core) (b : Nat) : Bool :=
  framePois x b 0 || framePois x b 0x20 || (List.range (min 12 (frameDw x b 0 / 2 ^ 32 % 16))).any (fun i =>
    let o := 0xE0 + 24 * i
    let d := frameDw x b o
    let k := d / 2 ^ 13 % 8
    framePois x b o || ((inR 1 3 k || k == 5) && framePois x b (o + 8))
      || (k == 5 && anyPois x.memP 8 (Config.captureBase + 6144 * b + 256 * (d / 2 ^ 25 % 32 + 1)) 256))

/-- The result latch an operation's trigger code names (R223, R227); latch numbers of Machine/Operands.lean. -/
def dstOfCode (vsp : Bool) (code : Nat) : Option Dst :=
  if vsp then
    if inR 0x812 0x816 code then some (.vs 5) else if inR 0x800 0x819 code then some (.vs 4)
    else if inR 0x892 0x896 code then some (.vs 11) else if inR 0x880 0x899 code then some (.vs 10)
    else if inR 0x900 0x917 code then some (.vs 15) else if inR 0x9C0 0x9C3 code then some (.pv 1) else none
  else
    if inR 0x200 0x222 code then some (.ps 3) else if inR 0x240 0x262 code then some (.ps 7)
    else if inR 0x280 0x287 code then some (.ps 10) else if inR 0x2A0 0x2B1 code then some (.ps 12)
    else if inR 0x2E0 0x2E6 code then some (.ps 14)
    else if code = 0x322 ∨ code = 0x323 ∨ inR 0x334 0x335 code ∨ code = 0x339 ∨ code = 0x33B then some (.ps 16)
    else if inR 0x380 0x399 code then some (.ps 19)
    else if code = 0x3B0 ∨ code = 0x3B2 ∨ code = 0x3B4 ∨ code = 0x3B6 then some (.vs 21)
    else if code = 0x3C2 then some (.ss 0) else if code = 0x3E2 then some (.ss 1) else if code = 0x3F2 then some (.ps 22)
    else none

/-- The client of an access by its trigger code. -/
def clientOf (code : Nat) : Client := if inR 0x2E0 0x2EB code then .ls else if inR 0x3B0 0x3B6 code then .vl else .rm

/-- The flight a record re-injects, completing in cycle `r + LAT` (R319); `t` is its issue cycle moved by the time of the trap. Accesses
are checked again in the brush's restored privilege; a failing check is the trap. -/
def flightOfRecord (s : State) (c b r t i : Nat) : Except Trap Flight :=
  let x := s.core c
  let d0 := frameDw x b (0xE0 + 24 * i)
  let d1 := frameDw x b (0xE8 + 24 * i)
  let d2 := frameDw x b (0xF0 + 24 * i)
  let code := d0 % 4096
  let vsp := d0 / 4096 % 2 = 1
  let kind := d0 / 2 ^ 13 % 8
  let due := r + d0 / 2 ^ 16 % 512
  let cap := Config.captureBase + 6144 * b + 256 * (d0 / 2 ^ 25 % 32)
  let flags := BitVec.ofNat 5 (d0 / 2 ^ 30)
  let pois := d0 / 2 ^ 35 % 2 = 1
  let p1 := framePois x b (0xE8 + 24 * i)
  let p2 := framePois x b (0xF0 + 24 * i)
  let dst := dstOfCode vsp code
  let base : Flight := { Flight.done b code vsp t due dst (w64 d1) Vc.zero flags with base := s.physBase c b }
  let vec (a : Nat) : Vec := BitVec.ofNat 2048 (rdBytes x.mem a 256)
  let dat : Vc := ⟨vec cap, poisMask p2 d2 ||| BitVec.ofNat 64 (lanePois x.memP 8 cap 256)⟩
  match kind with
  | 0 => .ok { base with res := ⟨BitVec.ofNat 2048 d1, if pois ∨ p1 then 1 else 0⟩ }
  | 4 => .ok { base with res := dat, wys := vsp && code == 0x902, ys := w64 d1, ysP := pois || p1 }
  | 1 => do
    let (sp, ph) ← checkAddr s c b .ls false (w64 d1) (lsBytes code) code
    .ok { base with pieces := lsPieces sp code ph (due - 4) }
  | 2 => do
    let (sp, ph) ← checkAddr s c b .ls true (w64 d1) (lsBytes code) code
    .ok { base with store := true, src := ⟨BitVec.ofNat 2048 d2, if pois ∨ p2 then 3 else 0⟩, pieces := lsPieces sp code ph (due - 3) }
  | 3 => do
    let n := if code < 0x390 then 4 else 8
    let _ ← checkAddr s c b .rm true (w64 d1) n code
    .ok { base with src := ⟨BitVec.ofNat 2048 (d2 + rdBytes x.mem cap 8 * 2 ^ 64), if pois ∨ p2 ∨ anyPois x.memP 8 cap 8 then 1 else 0⟩, slots := [(due - 3, 0)] }
  | _ =>
    let idx := vec (cap + 256)
    if vsp then do
      let ls := activeLanes idx
      let _ ← ls.mapM (fun l => checkAddr s c b .rm true (w64 (vlane idx l).toNat) 4 code)
      .ok { base with src := dat, res := dat, idx := ⟨idx, 0⟩,
                      slots := (List.range ls.length).map (fun j => (due - 7 - 4 * (ls.length - 1 - j), ls.getD j 0)) }
    else if inR 0x3B2 0x3B3 code then do
      let ls := activeLanes idx
      let st := code == 0x3B3
      let t := if st then due - 4 - ls.getLastD 0 else due - 72
      let ps ← ls.foldlM (fun (ps : List Piece) l => do
        let (sp, ph) ← checkAddr s c b .vl st (w64 (d1 + (vlane idx l).toNat % 2 ^ 31)) 4 code
        pure (ps ++ [⟨t + 4 + l, sp, ph, 4, 4 * l, l⟩])) []
      .ok { base with store := st, src := dat, res := dat, idx := ⟨idx, 0⟩, pieces := ps }
    else do
      let st := vlIsStore code
      let (sp, phys) ← vlCheck s c b code (w64 d1) (vlane idx 0) (tyBytes (vbytes idx 4 1))
      let lines := (vlPieces .vault code 0 phys).length
      let t := if st then (if sp = .vault then due + 1 - lines else due - 3) else if sp = .vault then due - 52 else due - 6
      .ok { base with store := st, src := if st then dat else Vc.zero, res := if st then Vc.zero else dat,
                      idx := ⟨idx, 0⟩, pieces := (vlPieces sp code t phys).filter (fun q => decide (r < q.cyc)) }

/-- The bank of a vault offset (R66). -/
def vaultBank (o : Nat) : Nat := o / 64 % 256

/-- Whether a port cycle `p` on `bank` is held, or lies within 15 cycles of another on the bank (R67, R71; log 90). -/
def portBusy (l : List (Nat × Nat × Nat)) (p bank : Nat) : Bool :=
  l.any (fun e => e.1 == p || (e.2.1 == bank && decide (e.1 < p + 16) && decide (p < e.1 + 16)))

/-- The vault port cycles of a flight's lines, or the trap of the first that is busy (R71). -/
def enterPort (c : Nat) (f : Flight) (s : State) : Except Trap State :=
  let ps := (f.pieces.filter (fun q => q.sp == .vault)).map (fun q => (q.cyc, vaultBank q.addr, f.brush))
  match ps.find? (fun p => portBusy (s.core c).vport p.1 p.2.1) with
  | some p => .error (mkTrap 0x08 f.d (w64 p.2.1) 0)
  | none => .ok (s.modCore c (fun x => { x with vport := x.vport ++ ps }))

/-- Put a re-injected operation back among its brush's: where it was its latch's newest trigger it is so again (R232). -/
def rejoin (c b : Nat) (k : Cap) (f : Flight) (s : State) : State :=
  let x := s.core c
  let y := x.brush b
  let n := if f.seq = 0 then x.seq + 1 else x.seq
  let f := if f.seq = 0 then { f with seq := n } else f
  let g := f.asNewest k.new k.newYs
  s.setCore c ({ x with seq := n, newest := newestShared g x.newest }.setBrush b { y with flights := y.flights ++ [f], newest := newestOwn g y.newest })

/-- Enter one re-injected operation; a collision is the trap taken again (R319). -/
def reinject (c b : Nat) (k : Cap) (f : Flight) (s : State) : Except Trap State := do
  let s ← enterFlight c f s
  let s ← enterPort c f s
  .ok (rejoin c b k f s)

/-- Re-inject the records of the frame in order. A record whose access collides is kept with the rest for recapture, and its
trap is raised in cycle `r`. Each keeps its place among the releases of its brush (R128). -/
def reinjectAll (c b r d n : Nat) (caps : List Cap) (s : State) : State × Option Trap :=
  (List.range n).foldl (fun (a : State × Option Trap) i =>
    let k := caps.getD i ⟨0, r - d, true, true, 0⟩
    match flightOfRecord a.1 c b r (k.t + d) i with
    | .error t => (a.1, a.2.orElse (fun _ => some t))
    | .ok f =>
      let f := { f with seq := k.seq, pc := k.pc }
      match reinject c b k f a.1 with
      | .ok s => (s, a.2)
      | .error t => (rejoin c b k f a.1, a.2.orElse (fun _ => some t))) (s, none)

/-- The first cycle after `t` whose k is congruent to `kx` modulo the host-slot period (R73, R319). -/
def resumeCycle (t k kx vhost : Nat) : Nat :=
  let m := max vhost 1
  t + 1 + ((kx + m * (k + 2) - (k + 1)) % m)

/-- A trapped brush as its frame restores it from cycle `r` on, and whether it restores a mark (R319). A restored wait is tested from `r`
on; a bundle that a cadence held is issued in `r` or held again (R149). -/
def frameBrush (x : Core) (b r : Nat) (v : Served) : Brush × Bool :=
  let y := x.brush b
  let cause := frameDw x b 0
  let res := frameDw x b 0x20
  let lat := (List.range 20).foldl (fun m i => mput m i ⟨w64 (frameDw x b (0x40 + 8 * i)), cause.testBit (44 + i) || framePois x b (0x40 + 8 * i)⟩) y.lat
  let cap := Config.captureBase + 6144 * b
  let vec (o : Nat) (k : Nat) : Vc :=
    let a := Config.handlerArea + 16 * b + k
    ⟨BitVec.ofNat 2048 (rdBytes x.mem (cap + o) 256), poisMask (anyPois x.memP 8 a 8) (rdBytes x.mem a 8) ||| BitVec.ofNat 64 (lanePois x.memP 8 (cap + o) 256)⟩
  let ov := vec (256 * 22) 0
  let yv := vec (256 * 23) 8
  ({ y with
      trapped := none, sys := decide (cause / 2 ^ 20 % 2 = 1), pc := res % 2 ^ 14, nextAt := r, resumeAt := r,
      xfer := if res / 2 ^ 47 % 2 = 1 then some ⟨res / 2 ^ 32 % 2 ^ 14, res / 2 ^ 16 % 2 ^ 16⟩ else none,
      lat := lat, vlat := mput (mput y.vlat 0 ov) 1 yv,
      run := match v.wait with
        | some (.gang _) => .running
        | some (.cad _) => .running
        | some w => .waiting w
        | none => match v.run with | .parked => .parked | _ => .running },
   (List.range 20).any (fun i => (mget Sc.zero lat i).p) || ov.p != 0 || yv.p != 0)

/-- Restore the frame of a brush and resume it in cycle `r` (R319). Its accesses enter the schedules now, ahead of those cycles. Poison in
what it takes as control or as an address is consumed in the trapped state: a double trap (R318; log 54). -/
def trapReturn (c b r : Nat) (s : State) : State :=
  let s := frameTouch c b s
  let x := s.core c
  match (x.brush b).trapped with
  | none => s
  | some v =>
    if frameBad x b then trapEntry c b (poisonTrap x (w64 (Config.frameBase + 512 * b)) 1) [] (s.consumed c (w64 (x.brush b).pc) b 0)
    else
      let z := frameBrush x b r v
      let a := reinjectAll c b r (r - v.x) (frameDw x b 0 / 2 ^ 32 % 16) v.caps (s.setCore c ((x.mark z.2).setBrush b z.1))
      match a.2 with
      | none => a.1
      | some t => a.1.modBrush c b (fun y => { y with pend := ⟨t.code, t.d0, t.d1, t.d2, 2, false, t.unit⟩ :: y.pend })

end Sys2Proof.Machine
end

