-- ==== Sys2Proof/Machine/Operands.lean ====
section
/-! DEFINITION. Every operand form: the latches behind the ports, reading a source, writing a destination, guards, splats
and broadcasts (01 R15, R19; 10 R200, R201; 11 R222 to R229), and who may use a port (R163, R168, R221). -/
namespace Sys2Proof.Machine

/-! ### Latches

Private scalar latches 0 to 19 stand in the order of R314; 20, 21, 22 are SYS.o, SYS.c, SYS.y. Shared scalar latches: 0 XE.y,
1 XC.y, 2 SW.o, 3 SW.c, 4 XC.o, 5 SP.o.0, 6 SP.o.1. Shared vector latches: 0 to 5 VA0.o1 .o2 .m .p .y .yp, 6 to 11 the same
of VA1, 12 to 16 VX.o1 .o2 .m .y .ys, 17 to 21 VL.o .x .s .m .y, 22 NB.o, 23 to 26 NB.y.n .e .s .w. Private vector latches:
0 RM.ov, 1 RM.yv. -/

/-- The latch of an S-space operand port (R224). -/
def sOperand (code : Nat) : Option Dst :=
  match code with
  | 0x100 => some (.ps 0) | 0x101 => some (.ps 1) | 0x102 => some (.ps 2)
  | 0x104 => some (.ps 4) | 0x105 => some (.ps 5) | 0x106 => some (.ps 6)
  | 0x108 => some (.ps 8) | 0x109 => some (.ps 9) | 0x10C => some (.ps 11) | 0x110 => some (.ps 13)
  | 0x114 => some (.ps 15) | 0x118 => some (.ps 17) | 0x119 => some (.ps 18)
  | 0x120 => some (.ss 2) | 0x121 => some (.ss 3) | 0x124 => some (.ss 4) | 0x128 => some (.ss 5) | 0x129 => some (.ss 6)
  | 0x12C => some (.ps 20) | 0x12D => some (.ps 21)
  | _ => none

/-- The latch of an S-space result port (R223); SP.y has none. -/
def sResult (code : Nat) : Option Dst :=
  match code with
  | 0x0C0 => some (.ps 3) | 0x0C1 => some (.ps 7) | 0x0C2 => some (.ps 10) | 0x0C3 => some (.ps 12) | 0x0C4 => some (.ps 14)
  | 0x0C5 => some (.ps 16) | 0x0C6 => some (.ps 19) | 0x0C7 => some (.ss 0) | 0x0C8 => some (.ss 1) | 0x0C9 => some (.ps 22)
  | _ => none

/-- The latch of a V-space port (R227). -/
def vOperand (code : Nat) : Option Dst :=
  if inR 0x400 0x403 code then some (.vs (code - 0x400)) else if inR 0x404 0x407 code then some (.vs (code - 0x404 + 6))
  else if inR 0x408 0x40A code then some (.vs (code - 0x408 + 12)) else if inR 0x40B 0x40E code then some (.vs (code - 0x40B + 17))
  else if code = 0x40F then some (.pv 0) else if code = 0x410 then some (.vs 22) else none
def vResult (code : Nat) : Option Dst :=
  match code with
  | 0x3C0 => some (.vs 4) | 0x3C1 => some (.vs 5) | 0x3C2 => some (.vs 10) | 0x3C3 => some (.vs 11) | 0x3C4 => some (.vs 15)
  | 0x3C5 => some (.vs 16) | 0x3C6 => some (.vs 21) | 0x3C7 => some (.pv 1)
  | 0x3C8 => some (.vs 23) | 0x3C9 => some (.vs 24) | 0x3CA => some (.vs 25) | 0x3CB => some (.vs 26)
  | _ => none

def getLat (x : Core) (b : Nat) : Dst → Vc
  | .ps n => scVc (mget Sc.zero (x.brush b).lat n)
  | .ss n => scVc (mget Sc.zero x.slat n)
  | .vs n => mget Vc.zero x.vlat n
  | .pv n => mget Vc.zero (x.brush b).vlat n

def setLat (x : Core) (b : Nat) (d : Dst) (v : Vc) : Core :=
  match d with
  | .ps n => x.modBrush b (fun y => { y with lat := mput y.lat n (vcSc v) })
  | .ss n => { x with slat := mput x.slat n (vcSc v) }
  | .vs n => { x with vlat := mput x.vlat n v }
  | .pv n => x.modBrush b (fun y => { y with vlat := mput y.vlat n v })

/-- A private scalar latch and a shared vector latch by number. -/
def pLat (s : State) (c b n : Nat) : Sc := mget Sc.zero (s.brush c b).lat n
def sLat (s : State) (c n : Nat) : Sc := mget Sc.zero (s.core c).slat n
def vLat (s : State) (c n : Nat) : Vc := mget Vc.zero (s.core c).vlat n

/-! ### Registers -/

/-- s0 reads zero (R222). -/
def readS (y : Brush) (n : Nat) : Sc := if n = 0 then Sc.zero else mget Sc.zero y.s n
/-- A write to s0 is ignored (R222). -/
def writeS (y : Brush) (n : Nat) (v : Sc) : Brush := if n = 0 then y else { y with s := mput y.s n v }
/-- p0 reads all ones (R222). -/
def readP (y : Brush) (n : Nat) : Sc := if n = 0 then ⟨BitVec.allOnes 64, false⟩ else mget Sc.zero y.p n
/-- A write to p0 is ignored (R222). -/
def writeP (y : Brush) (n : Nat) (v : Sc) : Brush := if n = 0 then y else { y with p := mput y.p n v }
/-- A vector register (R226). -/
def readV (x : Core) (n : Nat) : Vc := mget Vc.zero x.v n

/-- Bit 0 of every predicate, as a chain snapshots them (R107). -/
def predSnap (y : Brush) : BitVec 128 := 
  BitVec.ofNat 128 ((List.range 128).foldl (fun m i => if (readP y i).v.getLsbD 0 then m + 2 ^ i else m) 0)

/-! ### Immediates, splats, broadcasts -/

/-- The signed value of the low 11 bits of a source code (R200). -/
def imm11 (code : Nat) : Word := (BitVec.ofNat 11 code).signExtend 64

/-- The low `w` bytes of a value in every element of `w` bytes (R19). -/
def replicate (w : Nat) (v : Word) : Vec := BitVec.ofNat 2048 (v.toNat % 256 ^ w * ((2 ^ 2048 - 1) / (256 ^ w - 1)))
/-- A value in every 32-bit lane. -/
def fill32 (v : Word) : Vec := replicate 4 v

/-- A predicate as a lane mask: all ones in lane i where bit i is 1 (R229). -/
def maskOf (p : BitVec 64) : Vec :=
  BitVec.ofNat 2048 ((List.range 64).foldl (fun acc i => if p.getLsbD i then acc + 0xFFFFFFFF * 2 ^ (32 * i) else acc) 0)
/-- Bit 0 of each lane (R229, R259). -/
def bitsOf (v : Vec) : BitVec 64 :=
  BitVec.ofNat 64 ((List.range 64).foldl (fun acc i => if v.getLsbD (32 * i) then acc + 2 ^ i else acc) 0)

/-! ### Reading a source -/

/-- An S-space source (R222, R201). -/
def readSrcS (s : State) (c b : Nat) (lits : List (BitVec 32)) (code : Nat) : Sc :=
  let x := s.core c
  let y := x.brush b
  if 0x800 ≤ code then ⟨imm11 code, false⟩
  else if code < 0x40 then readS y code
  else if code < 0xC0 then readP y (code - 0x40)
  else if code = 0x0CA then ⟨(s.region (regionOf c)).sp0, false⟩
  else if code = 0x0CB then ⟨(s.region (regionOf c)).sp1, false⟩
  else if code = 0x3FE then ⟨(lits.getD 0 0).setWidth 64, false⟩
  else if code = 0x3FF then ⟨(lits.getD 1 0).setWidth 64, false⟩
  else if code = 0x3FD then ⟨(lits.getD 1 0) ++ (lits.getD 0 0), false⟩
  else match sResult code with
    | some d => vcSc (getLat x b d)
    | none => Sc.zero

/-- A V-space source: a vector, or a scalar still to be spread (R19, R226). -/
inductive VSrc where
  | vec (v : Vc)
  | scalar (v : Sc)
deriving DecidableEq, Repr

def readSrcV (s : State) (c b : Nat) (code : Nat) : VSrc :=
  let x := s.core c
  let y := x.brush b
  if 0x800 ≤ code then .scalar ⟨imm11 code, false⟩
  else if code < 0x300 then .vec (readV x code)
  else if code < 0x380 then
    let p := readP y (code - 0x300)
    .vec ⟨maskOf p.v, if p.p then BitVec.allOnes 64 else 0⟩
  else if code < 0x3C0 then .scalar (readS y (code - 0x380))
  else match vResult code with
    | some d => .vec (getLat x b d)
    | none => .vec Vc.zero

/-- VX triggers whose data is a count, an index, an amount, a half or a parity (R19, R265). -/
def vxCount (code : Nat) : Bool :=
  code == 0x902 || code == 0x903 || code == 0x909 || code == 0x90A || code == 0x90B || code == 0x90C || code == 0x90E

/-- The mode latch that sets the width of a splat into a V-space destination (R19): VA0.m, VA1.m, VX.m. -/
def widthLatch (code : Nat) : Option Nat :=
  if code = 0x400 ∨ code = 0x401 ∨ code = 0x403 ∨ inR 0x800 0x819 code then some 2
  else if code = 0x404 ∨ code = 0x405 ∨ code = 0x407 ∨ inR 0x880 0x899 code then some 8
  else if code = 0x408 ∨ code = 0x409 ∨ (inR 0x900 0x917 code ∧ ¬ vxCount code) then some 14
  else none

/-- The vector a V-move carries to a destination, in a state whose mode latches stand as the bundle leaves them (R19). -/
def vValue (x : Core) (dst : Nat) : VSrc → Vc
  | .vec v => v
  | .scalar v =>
    let w := match widthLatch dst with
      | some n => tyBytes ((mget Vc.zero x.vlat n).v.toNat % 256)
      | none => 4
    ⟨replicate w v.v, if v.p then BitVec.allOnes 64 else 0⟩

/-! ### Guards (R15) -/

def guardBit (y : Brush) (m : MoveWord) : Bool := (readP y m.guard.toNat).v.getLsbD 0 != m.neg
def guardMask (y : Brush) (m : MoveWord) : BitVec 64 :=
  let p := (readP y m.guard.toNat).v
  if m.neg then ~~~p else p

/-- Lanes of `new` where the mask is 1, of `old` elsewhere (R15). -/
def blend (mask : BitVec 64) (new old : Vc) : Vc :=
  if mask = BitVec.allOnes 64 then new
  else
    let m := maskOf mask
    ⟨(new.v &&& m) ||| (old.v &&& ~~~m), (new.p &&& mask) ||| (old.p &&& ~~~mask)⟩

/-! ### Writing a destination that is no trigger -/

/-- An S-space destination (R222, R224); a poisoned value marks the register or latch it is written to (R342). -/
def writeDstS (x : Core) (b code : Nat) (v : Sc) : Core :=
  if code = 0 ∨ code = 0x40 then x
  else
    let x := x.mark v.p
    if code < 0x40 then x.modBrush b (fun y => writeS y code v)
    else if code < 0xC0 then x.modBrush b (fun y => writeP y (code - 0x40) v)
    else match sOperand code with
      | some d => setLat x b d (scVc v)
      | none => x

def isModeLatch (code : Nat) : Bool := code == 0x402 || code == 0x406 || code == 0x40A || code == 0x40E

/-- A V-space destination under a lane mask (R226, R227, R229). A vector register is written at the end of the cycle (R203);
a mode latch takes lane 0 (R19). Poisoned lanes mark what they are written to (R342). -/
def writeDstV (x : Core) (b code : Nat) (mask : BitVec 64) (v : Vc) : Core :=
  let x := x.mark (code != 0x300 && (v.p &&& mask &&& (if isModeLatch code then 1 else BitVec.allOnes 64)) != 0)
  if code < 0x300 then
    let old := match x.vwr.reverse.find? (fun e => e.1 = code) with
      | some e => e.2
      | none => readV x code
    { x with vwr := x.vwr ++ [(code, blend mask v old)] }
  else if code < 0x380 then
    let y := x.brush b
    let old := readP y (code - 0x300)
    let new := (bitsOf v.v &&& mask) ||| (old.v &&& ~~~mask)
    x.setBrush b (writeP y (code - 0x300) ⟨new, (v.p &&& mask != 0) || (old.p && mask != BitVec.allOnes 64)⟩)
  else if isModeLatch code then
    if mask.getLsbD 0 then
      match vOperand code with
      | some d => setLat x b d ⟨(vlane v.v 0).setWidth 2048, v.p &&& 1⟩
      | none => x
    else x
  else match vOperand code with
    | some d => setLat x b d (blend mask v (getLat x b d))
    | none => x

/-! ### Ownership, privilege and phase of a move (R204 step 6) -/

/-- Index of a shared unit in OWN (R169). -/
def unitIndex : FU → Option Nat
  | .va0 => some 0 | .va1 => some 1 | .vx => some 2 | .vl => some 3 | .nb => some 4 | .mt => some 5 | .xe => some 6
  | .sw => some 7 | .xc => some 8
  | _ => none

/-- The owner OWN names (R168): unit 9 is the vault port, whose owner 4 is the XE. -/
def ownerOf (own : BitVec 21) (u : Nat) : Nat :=
  if u = 9 then (own.extractLsb' 18 3).toNat else (own.extractLsb' (2 * u) 2).toNat

/-- The unit whose port a code is. -/
def portUnit (v : Bool) (code : Nat) : Option FU :=
  if v then
    if inR 0x3C0 0x3C1 code || inR 0x400 0x403 code then some .va0 else if inR 0x3C2 0x3C3 code || inR 0x404 0x407 code then some .va1
    else if inR 0x3C4 0x3C5 code || inR 0x408 0x40A code then some .vx else if code == 0x3C6 || inR 0x40B 0x40E code then some .vl
    else if code = 0x410 then some .nb else none
  else
    if code = 0x0C7 then some .xe else if code = 0x0C8 ∨ code = 0x124 ∨ code = 0x128 ∨ code = 0x129 then some .xc
    else if code = 0x120 ∨ code = 0x121 then some .sw
    else if code = 0x0C9 ∨ code = 0x12C ∨ code = 0x12D then some .sys else none

/-- A unit in transfer takes no move (R169), from the cycle after the `own`. -/
def inTransfer (x : Core) (t u : Nat) : Bool := x.moving.any (fun m => m.1 == u && decide (m.2.2 < t))

/-- A brush may move into a shared unit. -/
def mayUse (x : Core) (b t u : Nat) : Bool := ownerOf x.own u == b && !inTransfer x t u

/-- Triggers that are phase-illegal in an exchange phase (R163). -/
def phaseBad (v : Bool) (code : Nat) : Bool :=
  if v then inR 0x9C0 0x9C3 code || inR 0x9D0 0x9D3 code
  else inR 0x2E0 0x2EB code || inR 0x380 0x399 code || inR 0x3B0 0x3B6 code || code == 0x3C0 || inR 0x3D0 0x3D2 code
    || inR 0x3E0 0x3E2 code || code == 0x32C || code == 0x32E || inR 0x331 0x333 code || inR 0x337 0x33C code || code == 0x3F3

/-- Ports that may not be read, and not be written, in an exchange phase (R163). -/
def phaseBadSrc (v : Bool) (code : Nat) : Bool := if v then inR 0x3C8 0x3CB code else inR 0x0CA 0x0CB code
def phaseBadDst (v : Bool) (code : Nat) : Bool := !v && inR 0x128 0x129 code

def phaseTrap (s : State) (c : Nat) (v : Bool) (code pos : Nat) : Trap :=
  mkTrap 0x0D (w64 (code + if v then 4096 else 0))
    (w64 ((if s.exch c then 1 else 0) + (s.phaseN c).toNat % 2 ^ 32 * 2 ^ 32)) (w64 pos)

/-- Whether the link of a core's side (0 N, 1 E, 2 S, 3 W) is locked (R122). -/
def linkTo (c side : Nat) : Option Nat :=
  match side with
  | 0 => if rowOf c = 0 then none else some (c - 32)
  | 1 => if colOf c = 31 then none else some (c + 1)
  | 2 => if rowOf c = 31 then none else some (c + 32)
  | _ => if colOf c = 0 then none else some (c - 1)

def linked (s : State) (c side : Nat) : Bool :=
  match linkTo c side with
  | none => true
  | some d =>
    let member := match s.sittingOf c with | some t => t.cores.contains d | none => false
    let a := (s.region (regionOf c)).a
    let b := (s.region (regionOf d)).a
    !member || (srcOf a == srcOf b && pOf a == pOf b && qOf a == qOf b)

/-- Check 6 of R204 on one move at position `pos`. -/
def moveCheck (s : State) (c b : Nat) (v : Bool) (m : MoveWord) (pos : Nat) : Option Trap :=
  if isNull m then none else
  let x := s.core c
  let t := s.cyc c
  let src := m.src.toNat
  let dst := m.dst.toNat
  let u := match trigUnit v dst with | some u => some u | none => portUnit v dst
  let ownSrc := match (portUnit v src).bind unitIndex with
    | some u => ownerOf x.own u == b
    | none => true
  let ownDst := match u.bind unitIndex with
    | some u => mayUse x b t u
    | none => true
  let user := !(x.brush b).sys
  if !ownSrc then some (ownershipTrap src)
  else if !ownDst then some (ownershipTrap dst)
  else if user && (portUnit v src == some .sys) then some (privTrap src)
  else if user && (u == some .sys || (!v && dst == 0x329)) then some (privTrap dst)
  else if s.exch c && phaseBadSrc v src then some (phaseTrap s c v src pos)
  else if s.exch c && ((trigUnit v dst).isSome && phaseBad v dst || phaseBadDst v dst) then some (phaseTrap s c v dst pos)
  else if v && inR 0x3C8 0x3CB src && !linked s c (src - 0x3C8) then some (mkTrap 0x11 (w64 (src - 0x3C8)) 0 0)
  else none

/-- The early-read check of one source (R199, R232). -/
def earlyCheck (s : State) (c b : Nat) (v : Bool) (m : MoveWord) : Option Trap :=
  if isNull m then none else
  match if v then vResult m.src.toNat else sResult m.src.toNat with
  | none => none
  | some d =>
    let x := s.core c
    let map := match d with | .ps _ => (x.brush b).newest | .pv _ => (x.brush b).newest | _ => x.newest
    let (due, code) := mget (0, 0) map d.key
    let t := s.cyc c
    if v && inR 0x3C8 0x3CB m.src.toNat then none
    else if t < due then some (mkTrap 0x05 (w64 (m.src.toNat + if v then 4096 else 0)) (w64 (due - t)) (w64 code))
    else none

/-! ### The ticks of a cadence (R146, R148 to R150) -/

def isPin (src : Nat) : Bool := inR 2 5 src
/-- Cycles per sample of a region: N = P / Q (R146); 0 where the region is not sample-locked. -/
def Region.samples (r : Region) : Nat := if isPin (srcOf r.a) ∧ qOf r.a ≠ 0 then pOf r.a / qOf r.a else 0
/-- The cycle of grid cycle h_k (R146): the next one is number `grid`. -/
def Region.gridAt (r : Region) (k : Nat) : Nat :=
  if r.grid ≤ k then r.nextGrid + (k - r.grid) * r.samples else r.nextGrid - (r.grid - k) * r.samples
/-- The first grid cycle at or after cycle `x`. -/
def Region.firstGrid (r : Region) (x : Nat) : Nat :=
  let n := max 1 r.samples
  if x ≤ r.nextGrid then r.grid - (r.nextGrid - x) / n else r.grid + (x - r.nextGrid + n - 1) / n

/-- A cadence at cycle `x` of its region: in a sample-locked one its tick is a grid cycle; marked for resynchronisation it skips the ticks
before `x` (R150). -/
def Cad.at (z : Cad) (r : Region) (x : Nat) : Cad :=
  if r.samples ≠ 0 then
    if z.resync then
      let k := r.firstGrid x
      { z with grid := some k, due := r.gridAt k, j := z.j + (r.gridAt k - z.due) / max 1 z.n }
    else match z.grid with
      | some k => { z with due := r.gridAt k }
      | none => z
  else if z.resync ∧ z.due < x then
    let m := (x - z.due + z.n - 1) / z.n
    { z with due := z.due + m * z.n, j := z.j + m }
  else z

end Sys2Proof.Machine
end

