-- ==== Sys2Proof/Machine/Issue.lean ====
section
/-! DEFINITION. Issuing a bundle as one step (10 R202, R204): its checks, its sources read in the state before it, its moves,
its triggers, its matrix command, and where the brush goes next (01 R18, 12 R243, R245). A trap discards the whole bundle. -/
namespace Sys2Proof.Machine

/-- What a trigger is told of its bundle: core and brush, header and length in words, its own code, whether the bundle holds
another control transfer, the bundle's Wait field. -/
structure Iss where
  c : Nat
  b : Nat
  h : Nat
  len : Nat
  code : Nat
  wait : Nat
  /-- The position of the move word, or of matrix word 0 (R205, R281). -/
  pos : Nat
  /-- The brush's predicates before the bundle (R293, R294). -/
  snap : BitVec 128
  /-- The last sequence number given out before the bundle. -/
  seq : Nat
deriving DecidableEq, Repr

/-- The meaning of an S-space trigger: its data, and the state whose latches stand as the bundle leaves them. -/
abbrev SOp := Iss → Sc → State → Except Trap State
/-- The meaning of a V-space trigger. -/
abbrev VOp := Iss → Vc → State → Except Trap State
/-- The meaning of a matrix command. -/
abbrev MOp := Iss → MxCmd → State → Except Trap State

/-- The triggers an issue may meet, by code, and the matrix engine. -/
structure Ops where
  s : Nat → SOp
  v : Nat → VOp
  m : MOp

/-- A bundle that is held until a cycle with none of its effects (R149): no cause of the table. -/
def holdCode : Nat := 0x10000

/-- The gang of a brush in a cycle of lock-step issue: the brushes of the sync mask (R166, R320). -/
def gangOf (s : State) (c b : Nat) : List Nat :=
  let x := s.core c
  if x.syncGo && x.syncm.getLsbD b then (List.range 4).filter (fun j => x.syncm.getLsbD j) else []

/-- Take the trap of a bundle that had no effect, or of a brush before its next bundle. Poison consumed under checkpointing is
a rollback instead (R343); a hold only sets the cycle. -/
def takeTrap (c b : Nat) (t : Trap) (gang : List Nat) (s : State) : State :=
  if t.code = holdCode then s.modBrush c b (fun y => { y with run := .waiting (.cad t.d0.toNat) })
  else if t.code = 0x1A then
    -- a pending boundary trap was recorded by the boundary, and leaving the sitting is no type of R338
    let s := if t.d1 = 6 ∨ t.d1 = 7 then s else s.consumed c (w64 (s.brush c b).pc) b t.unit
    match s.sittingOf c with
    | some z => if z.ckpt ≠ 0 then s.escalate c 0 else trapEntry c b t gang s
    | none => trapEntry c b t gang s
  else if t.code = 0x0E ∧ ¬ t.part then
    -- a cadence overrun marks the cadence for resynchronisation (R150)
    trapEntry c b t gang (s.modBrush c b (fun y => { y with cad := y.cad.map (fun z => { z with resync := true }) }))
  else trapEntry c b t gang s

/-- A poisoned value met by an address, target, count or condition (R233, R342): detail word 0 is the address, or the port
code (R343; log 21). -/
def needClean (s : State) (c : Nat) (v : Sc) (way port : Nat) : Except Trap Unit :=
  if v.p then .error { poisonTrap (s.core c) (if way = 1 then v.v else w64 port) way with unit := port } else .ok ()

/-! ### The values that moves carry (R15, R341) -/

/-- Mark a scalar value, and lanes of a vector. -/
def scMark (v : Sc) : Sc := { v with p := true }
def vcMark (m : BitVec 64) (v : Vc) : Vc := { v with p := v.p ||| m }
def hitS (p : Bool) (v : Sc) : Sc := if p then scMark v else v
def hitV (p : Bool) (v : Vc) : Vc := if p then vcMark (BitVec.allOnes 64) v else v

/-- Whether a move carries a value: it is no null move, and its guard holds, in some lane where it writes a vector. -/
def carries (y : Brush) (e : Bool × MoveWord) : Bool :=
  !isNull e.2 && (if e.1 && (trigUnit true e.2.dst.toNat).isNone then guardMask y e.2 != 0 else guardBit y e.2)
/-- The move whose value a parity error of the transport bus strikes: the first that carries one (R341; log 17). -/
def strikeOf (s : State) (c b : Nat) (ms : List (Bool × MoveWord)) : Option (Bool × MoveWord) :=
  if (s.core c).glitch = 3 then ms.find? (carries (s.brush c b)) else none

/-- What a move carries: its source as read in `s0`, marked if it is the one that was struck, `k`. -/
def movedS (c b : Nat) (lits : List (BitVec 32)) (s0 : State) (k : Option (Bool × MoveWord)) (m : MoveWord) : Sc :=
  hitS (k == some (false, m)) (readSrcS s0 c b lits m.src.toNat)
def movedV (c b : Nat) (x : Core) (s0 : State) (k : Option (Bool × MoveWord)) (m : MoveWord) : Vc :=
  hitV (k == some (true, m)) (vValue x m.dst.toNat (readSrcV s0 c b m.src.toNat))

/-- Writes of the moves that are no trigger, mode latches first (R19, R202). Sources are read in `s0`. -/
def applyMoves (c b : Nat) (lits : List (BitVec 32)) (s0 : State) (k : Option (Bool × MoveWord)) (ms : List (Bool × MoveWord)) (modes : Bool)
    (x : Core) : Core :=
  ms.foldl (fun x e =>
    let (v, m) := e
    let dst := m.dst.toNat
    if isNull m || (trigUnit v dst).isSome || (v && isModeLatch dst) != modes then x
    else if v then
      writeDstV x b dst (guardMask (s0.brush c b) m) (movedV c b x s0 k m)
    else if guardBit (s0.brush c b) m then writeDstS x b dst (movedS c b lits s0 k m) else x) x

/-- Poison moved into SP.o leaves the sitting (R342, R343). -/
def spoPoison (c b : Nat) (lits : List (BitVec 32)) (s : State) (k : Option (Bool × MoveWord)) (e : Bool × MoveWord) : Option Trap :=
  if !e.1 && inR 0x128 0x129 e.2.dst.toNat && guardBit (s.brush c b) e.2 && (movedS c b lits s k e.2).p then
    some (poisonTrap (s.core c) (w64 e.2.dst.toNat) 6)
  else none

/-- One trigger, if its guard holds. -/
def runTrigger (ops : Ops) (i : Iss) (lits : List (BitVec 32)) (s0 : State) (k : Option (Bool × MoveWord)) (s : State) (e : Bool × MoveWord) :
    Except Trap State :=
  let (v, m) := e
  let dst := m.dst.toNat
  if isNull m || (trigUnit v dst).isNone || !guardBit (s0.brush i.c i.b) m then .ok s
  else
    let i := { i with code := dst }
    if v then ops.v dst i (movedV i.c i.b (s.core i.c) s0 k m) s
    else ops.s dst i (movedS i.c i.b lits s0 k m) s

/-- The triggers of a bundle in its order (R202): `n` is the position of the first. -/
def runTriggers (ops : Ops) (i : Iss) (lits : List (BitVec 32)) (s0 : State) (k : Option (Bool × MoveWord)) :
    Nat → List (Bool × MoveWord) → State → Except Trap State
  | _, [], s => .ok s
  | n, e :: l, s =>
    match runTrigger ops { i with pos := n } lits s0 k s e with
    | .error t => .error t
    | .ok z => runTriggers ops i lits s0 k (n + 1) l z

/-- The matrix command of a bundle, if it holds one. -/
def runMx (ops : Ops) (i : Iss) (mx : Option MxCmd) (s : State) : Except Trap State :=
  match mx with
  | none => .ok s
  | some c => ops.m { i with code := c.op.toNat } c s

/-- A bundle with a cadtk before its tick is held whole until its cycle (R149): the hold, as an outcome of its checks. In a sample-locked
region whose grid has not been placed it is held from cycle to cycle. -/
def cadHold (i : Iss) (ms : List (Bool × MoveWord)) (s : State) : Option Trap :=
  match (s.brush i.c i.b).cad with
  | none => none
  | some z =>
    let r := s.region (regionOf i.c)
    let x := s.cyc i.c
    let due := if r.samples ≠ 0 ∧ r.arrivals = 0 then x + 1 else (z.at r x).due
    if x < due ∧ !s.exch i.c ∧ ms.any (fun e => !e.1 && e.2.dst == 0x333 && guardBit (s.brush i.c i.b) e.2) then
      some (mkTrap holdCode (w64 (if r.samples ≠ 0 then x + 1 else due)) 0 0)
    else none

/-- Whether the bundle at `h` ends the top loop (R245). -/
def Brush.atEnd (y : Brush) (h : Nat) : Bool := match y.loops with | l :: _ => l.last == h | [] => false

/-- The first of the checks of R204, R199 and R342 that a bundle fails, before any of its moves; a cadence's hold comes first. Details 0
and 2 of a phase-illegal matrix command are its opcode and the position of its first word (log 92). -/
def bundleTrap (i : Iss) (b : Bundle) (s : State) : Option Trap :=
  let ms := bundleMoves b
  let y := s.brush i.c i.b
  (((((bundleFault b).orElse (fun _ => cadHold i ms s)).orElse (fun _ =>
    (List.range ms.length).findSome? (fun n => let e := ms.getD n (false, nullMove); moveCheck s i.c i.b e.1 e.2 (n + 1)))).orElse (fun _ =>
    match b.mx with
    | none => none
    | some c =>
      if !mayUse (s.core i.c) i.b (s.cyc i.c) 5 then some (ownershipTrap c.op.toNat)
      else if s.exch i.c then some (phaseTrap s i.c false c.op.toNat (ms.length + 1)) else none)).orElse (fun _ =>
    if y.chk = 2 ∨ (y.chk = 1 ∧ b.check) then ms.findSome? (fun e => earlyCheck s i.c i.b e.1 e.2) else none)).orElse (fun _ =>
    ms.findSome? (spoPoison i.c i.b b.lits s (strikeOf s i.c i.b ms)))

/-- The effects of a bundle, or its first trap. -/
def effects (ops : Ops) (i : Iss) (b : Bundle) (s : State) : Except Trap State :=
  let ms := bundleMoves b
  let y := s.brush i.c i.b
  match bundleTrap i b s with
  | some t => .error t
  | none =>
  let k := strikeOf s i.c i.b ms
  let x := applyMoves i.c i.b b.lits s k ms true (s.core i.c)
  let s1 := s.setCore i.c (applyMoves i.c i.b b.lits s k ms false x)
  match runTriggers ops i b.lits s k 1 ms s1 with
  | .error t => .error t
  | .ok s2 =>
  match runMx ops i b.mx s2 with
  | .error t => .error t
  | .ok s3 =>
    -- an end bundle reached with a transfer pending, or holding one (R245)
    if y.atEnd i.h && (y.xfer.isSome || (s3.brush i.c i.b).newXfer.isSome) then .error (badOp 0 17) else .ok s3

/-- The loop stack after an end bundle, and whether it goes back to a start (R245). -/
def loopEnd (h : Nat) : List LoopE → List LoopE × Option Nat
  | [] => ([], none)
  | l :: r =>
    if l.last = h then
      if 1 < l.rem then ({ l with rem := l.rem - 1 } :: r, some l.start) else loopEnd h r
    else (l :: r, none)

/-- Where a brush goes after a bundle, and when (R18, R243, R245). -/
def advance (h len wait t : Nat) (y : Brush) : Brush :=
  let next := h + len
  let y := { y with nextAt := t + 1 + wait }
  match y.newXfer with
  | some tgt => { y with newXfer := none, xfer := some ⟨tgt, 2⟩, pc := next }
  | none =>
    match y.xfer with
    | some z => if z.dly ≤ 1 then { y with xfer := none, pc := z.tgt } else { y with xfer := some { z with dly := z.dly - 1 }, pc := next }
    | none =>
      match y.jump with
      | some j => { y with jump := none, pc := j }
      | none =>
        let (l, go) := loopEnd h y.loops
        { y with loops := l, pc := go.getD next }

/-- Give the bundle's releases and a fence their place after every access of earlier bundles, whose sequence numbers lie below `n`, and a
phend its place after those of its own bundle too (R128, R129, R164, log 9). -/
def sealReleases (c b n : Nat) (s : State) : State :=
  let x := s.core c
  let m := x.seq + 2
  let rels := x.rels.map (fun r => if r.seq = 0 then { r with seq := n } else r)
  let x := { x with seq := m, rels := rels }
  s.setCore c (x.modBrush b (fun y => { y with newWait := match y.newWait with
    | some (.fence 0) => some (.fence n)
    | some (.phend 0 a) => some (.phend m a)
    | w => w }))

/-- A bundle as the brush whose turn it is issues it. -/
def issOf (b : Bundle) (s : State) : Iss :=
  { c := s.cur.1, b := s.cur.2, h := (s.brush s.cur.1 s.cur.2).pc, len := bundleLen b, code := 0, wait := b.wait.toNat,
    pos := (bundleMoves b).length + 1, snap := predSnap (s.brush s.cur.1 s.cur.2), seq := (s.core s.cur.1).seq }

/-- A brush before its bundle: nothing started. -/
def Brush.fresh (y : Brush) : Brush := { y with newXfer := none, jump := none, newWait := none, after := none }

/-- A brush after its bundle: a wait that it starts holds it. -/
def Brush.settle (y : Brush) : Brush :=
  { y with after := none, newWait := none,
           run := match y.newWait with
             | some w => if y.run = .running then .waiting w else y.run
             | none => y.run }

/-- The state after a bundle's effects `s1`, the bundle having met core `c` with `n` sequence numbers given out. -/
def finishIssue (i : Iss) (n : Nat) (s1 : State) : State :=
  (sealReleases i.c i.b (n + 1) s1).modBrush i.c i.b (fun y => (advance i.h i.len i.wait (s1.cyc i.c) y).settle)

/-- The state a bundle of the brush whose turn it is starts from. -/
def State.started (s : State) : State := { s with busy := false }.modBrush s.cur.1 s.cur.2 Brush.fresh

/-- Issue a bundle for the brush whose turn it is. -/
def issue (ops : Ops) (b : Bundle) (s : State) : Out :=
  let i := issOf b s
  let s := s.started
  match effects ops i b s with
  | .error t => .next (takeTrap i.c i.b t (gangOf s i.c i.b) s)
  | .ok s1 =>
    let s2 := finishIssue i (s.core i.c).seq s1
    match (s1.brush i.c i.b).after with
    | some t => .next (trapEntry i.c i.b t (gangOf s i.c i.b) s2)
    | none => .next s2

/-- Operations that the bundle of one trigger never meets. -/
def noOps : Ops :=
  Ops.mk (fun _ i _ _ => Except.error (badOp i.code 0)) (fun _ i _ _ => Except.error (badOp i.code 0))
    (fun i _ _ => Except.error (badOp i.code 12))

/-- Issue a lone S-space trigger. -/
def issueS (code : Nat) (op : SOp) (m : Trig) (s : State) : Out :=
  issue { noOps with s := fun _ => op } (soloBundle false m code) s
/-- Issue a lone V-space trigger. -/
def issueV (code : Nat) (op : VOp) (m : Trig) (s : State) : Out :=
  issue { noOps with v := fun _ => op } (soloBundle true m code) s
/-- Issue a lone matrix command. -/
def issueM (code : Nat) (op : MOp) (f : MxF) (s : State) : Out :=
  issue { noOps with m := op } (mxBundle code f) s

end Sys2Proof.Machine
end

