-- ==== Sys2Proof/Machine/Transc.lean ====
section
/-! DEFINITION. The transcendental functions (09 R190, 04 R87): exact values approximated from below to more than 250 bits,
with the lowest bit set where the value is no such fraction, then rounded once (log 12). -/
namespace Sys2Proof.Machine

/-- Bits of the fixed point. -/
def fxBits : Nat := 320
/-- 2π and ln 2 in units of 2^−320. -/
def fxTwoPi : Nat := 0x6487ED5110B4611A62633145C06E0E68948127044533E63A0105DF531D89CD9128A5043CC71A026EF
def fxLn2 : Nat := 0xB17217F7D1CF79ABC9E3B39803F2F6AF40F343267298B62D8A0D175B8BAAFA2BE7B876206DEBAC98

def fxMul (a b : Nat) : Nat := a * b / 2 ^ fxBits

/-- A value that lies strictly above m · 2^e and below (m + 1) · 2^e. -/
def sticky (neg : Bool) (m : Nat) (e : Int) : Num := .fin neg (2 * m + 1) (e - 1)

/-- Integer square root by bits, `n` bits of root. -/
def isqrtBits (x : Nat) : Nat → Nat → Nat
  | 0, r => r
  | n + 1, r => let c := r + 2 ^ n; isqrtBits x n (if c * c ≤ x then c else r)

/-- √(m · 2^e). -/
def sqrtN (m : Nat) (e : Int) : Num :=
  let (m, e) := if e % 2 = 0 then (m, e) else (2 * m, e - 1)
  let x := m * 2 ^ 160
  let r := isqrtBits x (Nat.log2 x / 2 + 1) 0
  if r * r = x then .fin false r (e / 2 - 80) else sticky false r (e / 2 - 80)

/-- 1 / (m · 2^e). -/
def rcpN (neg : Bool) (m : Nat) (e : Int) : Num :=
  let s := Nat.log2 m + 160
  let q := 2 ^ s / m
  if q * m = 2 ^ s then .fin neg q (-e - s) else sticky neg q (-e - s)

/-- 1 / √(m · 2^e). -/
def rsqN (m : Nat) (e : Int) : Num :=
  let (m, e) := if e % 2 = 0 then (m, e) else (2 * m, e - 1)
  let s := 2 * (Nat.log2 m + 160)
  let x := 2 ^ s / m
  let r := isqrtBits x (Nat.log2 x / 2 + 1) 0
  if r * r * m = 2 ^ s then .fin false r (-(e / 2) - (s / 2 : Nat)) else sticky false r (-(e / 2) - (s / 2 : Nat))

/-- e^z, z in units of 2^−320, below 1. -/
def fxExp (z : Nat) : Nat :=
  ((List.range 80).foldl (fun (a : Nat × Nat) i => let t := fxMul a.2 z / (i + 1); (a.1 + t, t)) (2 ^ fxBits, 2 ^ fxBits)).1

/-- 2^x of a finite nonzero x = ± m · 2^e. -/
def exp2N (neg : Bool) (m : Nat) (e : Int) : Num :=
  if 12 < e + Nat.log2 m then sticky false 1 (if neg then -4000 else 4000)
  else
    -- x = i + f, f in [0, 1) in units of 2^-320
    let a := if 0 ≤ e + fxBits then m * 2 ^ (e + fxBits).toNat else m / 2 ^ (-(e + fxBits)).toNat
    let v : Int := if neg then -(a : Int) else a
    let i := v / (2 ^ fxBits : Nat)
    let f := (v % (2 ^ fxBits : Nat)).toNat
    if f = 0 then .fin false 1 i else sticky false (fxExp (fxMul f fxLn2)) (i - fxBits)

/-- atanh z, z in units of 2^−320, at most 1/3. -/
def fxAtanh (z : Nat) : Nat :=
  let z2 := fxMul z z
  ((List.range 110).foldl (fun (a : Nat × Nat) i => (a.1 + a.2 / (2 * i + 1), fxMul a.2 z2)) (0, z)).1

/-- log2 of a positive finite m · 2^e. -/
def log2N (m : Nat) (e : Int) : Num :=
  let l := Nat.log2 m
  let ei := e + l
  if m = 2 ^ l then .fin (decide (ei < 0)) ei.natAbs 0
  else
    let one := 2 ^ l
    let z := (m - one) * 2 ^ fxBits / (m + one)
    let lg := 2 * fxAtanh z * 2 ^ fxBits / fxLn2
    let v : Int := ei * (2 ^ fxBits : Nat) + lg
    sticky (decide (v < 0)) (if v < 0 then v.natAbs - 1 else v.natAbs) (-(fxBits : Int))

/-- sin z and cos z, z in units of 2^−320, at most π/2. -/
def fxSin (z : Nat) : Nat :=
  let z2 := fxMul z z
  let (p, n, _) := (List.range 50).foldl (fun (a : Nat × Nat × Nat) i =>
    let (p, n, t) := a
    let t' := fxMul t z2 / ((2 * i + 2) * (2 * i + 3))
    (if i % 2 = 0 then (p + t, n, t') else (p, n + t, t'))) (0, 0, z)
  p - n
def fxCos (z : Nat) : Nat :=
  let z2 := fxMul z z
  let (p, n, _) := (List.range 50).foldl (fun (a : Nat × Nat × Nat) i =>
    let (p, n, t) := a
    let t' := fxMul t z2 / ((2 * i + 1) * (2 * i + 2))
    (if i % 2 = 0 then (p + t, n, t') else (p, n + t, t'))) (0, 0, 2 ^ fxBits)
  p - n

/-- cos 2πt and sin 2πt of a turn t = m · 2^e in [0, 1); exact zeros are +0.0. -/
def turnN (sin : Bool) (m : Nat) (e : Int) : Num :=
  -- t in units of 2^-320: exact for every operand the part has
  let t := (if 0 ≤ e + fxBits then m * 2 ^ (e + fxBits).toNat else m / 2 ^ (-(e + fxBits)).toNat) % 2 ^ fxBits
  let q := 4 * t / 2 ^ fxBits
  let u := t - q * 2 ^ (fxBits - 2)
  -- sin of quadrant q: sin u, cos u, -sin u, -cos u; cos is sin one quadrant on
  let q := (if sin then q else q + 1) % 4
  let neg := decide (2 ≤ q)
  if u = 0 then (if q % 2 = 0 then .fin false 0 0 else .fin neg 1 0)
  else
    let z := fxMul u fxTwoPi
    sticky neg (if q % 2 = 0 then fxSin z else fxCos z) (-(fxBits : Int))

/-- A transcendental of R190 by its place in the list vexp2, vlog2, vrcp, vrsq, vsqrt, vsint, vcost: the exact value and the
flags of special operands. -/
def transc (op : Nat) (x : Num) : Num × Nat :=
  match op, x with
  | _, .nan => (.nan, 0)
  | 0, .inf n => (if n then .fin false 0 0 else .inf false, 0)
  | 0, .fin n m e => (if m = 0 then .fin false 1 0 else exp2N n m e, 0)
  | 1, .inf n => if n then (.nan, fNV) else (.inf false, 0)
  | 1, .fin n m e => if m = 0 then (.inf true, fDZ) else if n then (.nan, fNV) else (log2N m e, 0)
  | 2, .inf n => (.fin n 0 0, 0)
  | 2, .fin n m e => if m = 0 then (.inf n, fDZ) else (rcpN n m e, 0)
  | 3, .inf n => if n then (.nan, fNV) else (.fin false 0 0, 0)
  | 3, .fin n m e => if m = 0 then (.inf n, fDZ) else if n then (.nan, fNV) else (rsqN m e, 0)
  | 4, .inf n => if n then (.nan, fNV) else (.inf false, 0)
  | 4, .fin n m e => if m = 0 then (.fin n 0 0, 0) else if n then (.nan, fNV) else (sqrtN m e, 0)
  | 5, .inf _ => (.nan, fNV)
  | 5, .fin n m e => (match turnN true m e with
      | .fin _ 0 _ => .fin n 0 0
      | y => if n then y.neg else y, 0)
  | _, .inf _ => (.nan, fNV)
  | _, .fin _ m e => (turnN false m e, 0)

end Sys2Proof.Machine
end

