-- ==== Sys2Proof/Machine/Stencil.lean ====
section
/-! DEFINITION. Stencil windows: descriptors and their validity (04 R79 to R81), reading (R82 to R90), changing them
(R91 to R95, 15 R297, R298). -/
namespace Sys2Proof.Machine

/-! ### Fields of a descriptor -/

def dDw (d : BitVec 512) (i : Nat) : Nat := (d.extractLsb' (64 * i) 64).toNat
def dKind (d : BitVec 512) : Nat := dDw d 0 % 16
def dType (d : BitVec 512) : Nat := dDw d 0 / 2 ^ 8 % 256
def dMode (d : BitVec 512) : Nat := dDw d 0 / 2 ^ 16 % 4
def dExtent (d : BitVec 512) : Nat := dDw d 0 / 2 ^ 32
def dIoff (d : BitVec 512) : Nat := dDw d 1
def dRow0 (d : BitVec 512) : Nat := dDw d 2 % 2 ^ 32
def dCol0 (d : BitVec 512) : Nat := dDw d 2 / 2 ^ 32
def dWidth (d : BitVec 512) : Nat := dDw d 3 % 2 ^ 32
def dTbase (d : BitVec 512) : Nat := dDw d 4
def dTlen (d : BitVec 512) : Nat := dDw d 5 % 256

/-- The types a kind and mode permit (R81). -/
def dTypeOk (kind mode ty : Nat) : Bool :=
  match kind, mode with
  | 1, _ => tyInt ty || tyFloat ty
  | 2, _ => tyInt ty || tyFloat ty || tyB8 ty
  | 3, _ => tyFloat ty
  | 4, 0 => inR 0x03 0x05 ty || inR 0x23 0x25 ty
  | 4, 1 => ty == 0x42
  | 4, 2 => tyFloat ty || ty == 0x03 || ty == 0x23
  | 4, _ => true
  | _, _ => false

/-- The byte offsets of the fields that break a rule of R81. Where a rule joins fields, the lowest; a limit on a field that holds for
some types only is broken by that field (R91; log 20). -/
def dBad (d : BitVec 512) : List Nat :=
  let kind := dKind d
  let ty := dType d
  let es := tyBytes ty
  let bad (b : Bool) (o : Nat) : List Nat := if b then [o] else []
  if 4 < kind then [0]
  else if kind = 0 then
    bad (dDw d 0 / 16 % 16 != 0) 0 ++ bad (ty != 0) 1 ++ bad (dDw d 0 / 2 ^ 16 % 2 ^ 16 != 0) 2 ++ bad (dExtent d != 0) 4
    ++ bad (dIoff d != 0) 8 ++ bad (dRow0 d != 0) 16 ++ bad (dCol0 d != 0) 20 ++ bad (dWidth d != 0) 24
    ++ bad (dDw d 3 / 2 ^ 32 != 0) 28 ++ (List.range 4).flatMap (fun i => bad (dDw d (4 + i) != 0) (32 + 8 * i))
  else
    bad (dDw d 0 / 16 % 16 != 0) 0 ++ bad (!dTypeOk kind (dMode d) ty || decide (2 ^ 32 < dExtent d * es)) 1
    ++ bad ((kind != 4 && dMode d != 0) || dMode d == 3 || dDw d 0 / 2 ^ 18 % 2 ^ 14 != 0) 2
    ++ bad (dDw d 3 / 2 ^ 32 != 0) 28
    ++ match kind with
      | 1 => bad (tyFloat ty && dDw d 4 / 2 ^ 32 != 0) 32 ++ bad (tyFloat ty && dDw d 5 / 2 ^ 32 != 0) 40
          ++ bad (dDw d 6 != 0) 48 ++ bad (dDw d 7 != 0) 56
      | 2 => bad (dWidth d == 0) 24 ++ bad (dDw d 7 != 0) 56
      | 3 => bad (dWidth d % 2 != 0 || !inR 2 (2 * dTlen d) (dWidth d)) 24 ++ bad (dTbase d % 64 != 0) 32
          ++ bad (!inR 1 128 (dTlen d)) 40 ++ bad (dDw d 5 / 256 != 0) 41 ++ bad (dDw d 6 != 0) 48 ++ bad (dDw d 7 != 0) 56
      | _ => bad (dMode d == 2 && tyInt ty && dDw d 7 % 2 ^ 32 != 0) 56 ++ bad (dDw d 7 / 2 ^ 32 != 0) 60

/-- The byte offset reported of an invalid image (R91): the lowest broken field; then the declaration (R298). -/
def dFault (d : BitVec 512) (tb tl : Nat) : Option Nat :=
  match dBad d with
  | o :: l => some (l.foldl Nat.min o)
  | [] =>
    if dKind d = 3 then (if dTbase d ≠ tb then some 32 else if dTlen d ≠ tl then some 40 else none)
    else if tb ≠ 0 then some 32 else if tl ≠ 0 then some 40 else none

/-! ### Values -/

/-- The bits of element `g` (R85 to R89); `rot` is the descriptor's frequency table. A float ramp whose START or STEP is an infinity or
a NaN takes the values of IEEE 754 arithmetic (log 91). -/
def dValue (d : BitVec 512) (rot : Nat → Word) (g : Nat) : Nat :=
  let ty := dType d
  let es := tyBytes ty
  match dKind d with
  | 1 =>
    if tyInt ty then (dDw d 4 + g * dDw d 5) % 256 ^ es
    else
      let p := (Num.fin false g 0).mul (fp32.decode (dDw d 5 % 2 ^ 32))
      let v := match ((fp32.decode (dDw d 4 % 2 ^ 32)).add 0 p.1).1 with
        | .fin _ 0 _ => Num.fin false 0 0
        | v => v
      (roundTo ty 0 false v 0).1
  | 2 =>
    let row := dRow0 d + g / dWidth d
    let col := dCol0 d + g % dWidth d
    let diag := (BitVec.ofNat 32 (dDw d 4)).toInt
    let band := dDw d 4 / 2 ^ 32
    let pass := decide ((col : Int) ≤ row + diag) && (band == 0xFFFFFFFF || decide (row ≤ col + band))
    (if pass then dDw d 5 else dDw d 6) % 256 ^ es
  | 3 =>
    let pos := (dRow0 d + g / dWidth d) % 2 ^ 64
    let j := g % dWidth d
    let t := pos * (rot (j / 2)).toNat % 2 ^ 64
    (roundTo ty 0 false (turnN (j % 2 == 1) t (-64)) 0).1
  | _ =>
    let k (i : Nat) : BitVec 32 := d.extractLsb' (256 + 32 * i) 32
    let w := (mix k g (BitVec.ofNat 32 (dDw d 6))).toNat
    let scale := dDw d 7 % 2 ^ 32
    match dMode d with
    | 0 => w % 256 ^ es
    | 1 => (roundTo 0x42 0 false (.fin false (w / 256) (-24)) 0).1
    | _ =>
      if dDw d 6 / 2 ^ 32 ≤ w then 0
      else if tyInt ty then 1
      else if ty = 0x42 then scale else (roundTo ty 0 false (fp32.decode scale) 0).1

/-- The descriptor and table that a read issued in cycle `t` sees (R92). -/
def Core.descAt (x : Core) (n t : Nat) : BitVec 512 × (Nat → Word) :=
  match x.swOld.find? (fun o => o.n == n && decide (t < o.upto)) with
  | some o => (o.desc, fun i => o.rot.getD i 0)
  | none => (mget 0 x.desc n, fun i => mget 0 x.rot (n * 128 + i))

/-- A stencil range trap (R95). -/
def rangeTrap (a : Word) (n code reason : Nat) : Trap := mkTrap 0x0C a (w64 (n % 65536 + code * 65536)) (w64 reason)

/-- A descriptor's latent error (R94): the key of a descriptor among the core's errors (log 17). -/
def descKey (n : Nat) : Nat := 2 ^ 41 + n

/-- What a read of `n` bytes of a window at `a` meets under descriptor `d` (R82). -/
def windowTrap (d : BitVec 512) (a n code : Nat) : Option Trap :=
  let es := tyBytes (dType d)
  let o := (a - 0x800000000) % 2 ^ 32
  if dKind d = 0 then some (rangeTrap (w64 a) n code 3)
  else if o % es ≠ 0 ∨ n % es ≠ 0 then some (rangeTrap (w64 a) n code 1)
  else if dExtent d < o / es + n / es then some (rangeTrap (w64 a) n code 2)
  else none

/-- Bytes of a window: of a permitted read, or of the part of an XE copy that one beat or line carries (R82, R84). -/
def windowBytes (d : BitVec 512) (rot : Nat → Word) (a n : Nat) : Nat :=
  let es := tyBytes (dType d)
  let o := (a - 0x800000000) % 2 ^ 32
  (List.range ((o % es + n + es - 1) / es)).foldl (fun v i => v + dValue d rot ((dIoff d + o / es + i) % 2 ^ 64) * 256 ^ (es * i)) 0
    / 256 ^ (o % es) % 256 ^ n

/-- Read `n` bytes of a window at `a` (R82), in a read issued in cycle `t`: the bytes and whether they are poisoned (R94). -/
def Core.readWindow (x : Core) (t a n code : Nat) : Except Trap (Nat × Bool) :=
  let wn := (a - 0x800000000) / 2 ^ 32
  let (d, rot) := x.descAt wn t
  match windowTrap d a n code with
  | some tr => .error tr
  | none => .ok (windowBytes d rot a n, mget 0 x.ecc (descKey wn) == 2)

/-- The error of a descriptor word, recorded at a read: corrected, or contained with poisoned data (R94, R338). -/
def State.descTouch (s : State) (c wn : Nat) : State :=
  match mget 0 (s.core c).ecc (descKey wn) with
  | 0 => s
  | 2 => (s.coreError c 4 0x05 1 0 0 0).modCore c (fun x => { x with created := true })
  | _ => s.coreError c 4 0x05 0 0 0 0

/-- The window of a local address (R29). -/
def windowOf (a : Nat) : Nat := (a - 0x800000000) / 2 ^ 32

/-! ### Changing descriptors -/

/-- Install a descriptor with write cycle `w`; reads issued up to w + 1 go on seeing the old one (R92). -/
def Core.setDesc (x : Core) (n w : Nat) (d : BitVec 512) (rot : Option (List Word)) : Core :=
  let old : SwOld := ⟨n, mget 0 x.desc n, (List.range 128).map (fun i => mget 0 x.rot (n * 128 + i)), w + 2⟩
  let x := { x with swOld := x.swOld ++ [old], desc := mset 0 x.desc n d }
  match rot with
  | none => x
  | some l => { x with rot := (List.range 128).foldl (fun m i => mset 0 m (n * 128 + i) (l.getD i 0)) x.rot }

/-- Checks common to the SW triggers (R93, R297): the pending swset and the selector. -/
def swPre (i : Iss) (d : Word) (allowed : Word) (s : State) : Except Trap Unit :=
  if (s.core i.c).swset.isSome then .error (badOp i.code 2)
  else if d &&& ~~~allowed ≠ 0 then .error (badOp i.code 22) else .ok ()

/-- swset (R91, R297, R298). -/
def trigSwset : SOp := fun i d s => do
  swPre i d.v 0xFF07 s
  let o := sLat s i.c 2
  let cb := sLat s i.c 3
  needClean s i.c o 1 i.code
  let tl := d.v.toNat / 256
  let t := s.cyc i.c
  let x := s.core i.c
  if o.v.toNat % 64 ≠ 0 then .error (segTrap o.v 64 i.code 15) else
  let (_, pi) ← checkAddr s i.c i.b .sw false o.v 64 i.code
  let pt ← if tl = 0 then pure 0 else do
    needClean s i.c cb 1 i.code
    let (_, p) ← checkAddr s i.c i.b .sw false cb.v (8 * tl) i.code
    pure p
  let g := (tl + 7) / 8
  let base := s.physBase i.c i.b
  let seq := x.seq + 1
  let uses := bankUses (t + 2) pi 64 false 0x09 i.code i.b i.b seq
    ++ (List.range g).flatMap (fun j => bankUses (t + 3 + j) (pt + 64 * j) (min 64 (8 * tl - 64 * j)) false 0x09 i.code i.b i.b seq)
  let schA ← enterSched false x.k0 x.schA uses
  pure (s.setCore i.c { x with
    seq := seq, schA := schA,
    swset := some ⟨i.b, d.v.toNat % 8, o.v.toNat, cb.v.toNat, tl, t, t + 3 + g, base, 0, [], false, seq⟩ })

/-- swget (R91, R297): the image of the descriptor as this issue sees it (R92), written at t + 3. -/
def trigSwget : SOp := fun i d s => do
  swPre i d.v 0x7 s
  let o := sLat s i.c 2
  needClean s i.c o 1 i.code
  let t := s.cyc i.c
  let x := s.core i.c
  if o.v.toNat % 64 ≠ 0 then .error (segTrap o.v 64 i.code 15) else
  let (_, p) ← checkAddr s i.c i.b .sw true o.v 64 i.code
  let seq := x.seq + 1
  let schA ← enterSched false x.k0 x.schA (bankUses (t + 3) p 64 true 0x09 i.code i.b i.b seq)
  let (dd, _) := x.descAt (d.v.toNat % 8) t
  let pois := if mget 0 x.ecc (descKey (d.v.toNat % 8)) = 2 then BitVec.ofNat 64 (2 ^ 16 - 1) else 0
  pure ((s.setCore i.c { x with
    seq := seq, schA := schA,
    engW := x.engW ++ [⟨t + 3, p, 64, dd.setWidth 2048, pois, i.b, seq⟩] }).descTouch i.c (d.v.toNat % 8))

/-- swoff (R91, R297): new IOFF, ROW0 and COL0 at once. Offsets moved in poisoned are written and their mark is dropped: a descriptor holds
none (DESIGN CHOICE; the spec names no outcome; log 106). -/
def trigSwoff : SOp := fun i d s => do
  swPre i d.v 0x7 s
  let n := d.v.toNat % 8
  let x := s.core i.c
  let old := mget 0 x.desc n
  if dKind old = 0 then .error (rangeTrap d.v 0 i.code 3) else
  let o := sLat s i.c 2
  let cb := sLat s i.c 3
  let new := old.extractLsb' 192 320 ++ cb.v ++ o.v ++ old.extractLsb' 0 64
  pure (s.setCore i.c (x.setDesc n (s.cyc i.c) new none))

def execSwset (m : Trig) (s : State) : Out := issueS 0x3D0 trigSwset m s
def execSwget (m : Trig) (s : State) : Out := issueS 0x3D1 trigSwget m s
def execSwoff (m : Trig) (s : State) : Out := issueS 0x3D2 trigSwoff m s

/-- SWSET_WRITE: the reads of a pending swset, its check in cycle w − 1 and its write in cycle w (R91, R298). An image read
poisoned poisons the descriptor (log 20). One whose image is not valid is pending no more once the check has failed, at the start of cycle
w − 1 (DESIGN CHOICE; R93 speaks of its write cycle alone; log 106). -/
def swsetStep (c : Nat) (s : State) : State :=
  let t := s.cyc c
  match (s.core c).swset with
  | none => s
  | some q =>
    let s := if t = q.t + 2 then
        let s := s.eccTouch c false (q.base + q.img) 64
        s.modCore c (fun x => let r := x.rdScratch (q.base + q.img) 64
          { x with swset := some { q with image := BitVec.ofNat 512 r.1, bad := r.2 != 0 } })
      else if q.t + 3 ≤ t ∧ t < q.w ∧ q.tl ≠ 0 then
        let a := q.base + q.tb + 64 * (t - q.t - 3)
        let n := min 64 (8 * q.tl - 64 * (t - q.t - 3))
        let s := s.eccTouch c false a n
        s.modCore c (fun x => let r := x.rdScratch a n
          { x with swset := some { q with tab := q.tab ++ (List.range (n / 8)).map (fun i => w64 (r.1 / 2 ^ (64 * i))), bad := q.bad || r.2 != 0 } })
      else s
    match (s.core c).swset with
    | none => s
    | some q =>
      if t + 1 = q.w then
        match dFault q.image q.tb q.tl with
        | none => s
        | some o =>
          (s.modCore c (fun x => { x with swset := none })).markTrapAt true c q.brush (rangeTrap (w64 q.img) 64 0x3D0 (4 + 256 * o))
      else if t = q.w then
        s.modCore c (fun x =>
          let x := { x with swset := none }.setDesc q.n q.w q.image (if dKind q.image = 3 then some q.tab else none)
          { x with ecc := if q.bad then mput x.ecc (descKey q.n) 2 else mdel x.ecc (descKey q.n) })
      else s

def execSwsetWrite (s : State) : Out := .next (swsetStep s.here s)

end Sys2Proof.Machine
end

