-- ==== Sys2Proof/Machine/LoadStore.lean ====
section
/-! DEFINITION. Scalar accesses (12 R238, R239), the vault port's rules (03 R67 to R71) and fence (06 R129). -/
namespace Sys2Proof.Machine

/-! ### The vault port -/

/-- The kind of a reserved cycle, 0 a refresh and 1 a host slot (R69). -/
def slotKind (s : State) (c t : Nat) : Option Nat :=
  let k := t - (s.core c).k0
  let r := s.vref c
  let h := s.vhost c
  if r ≠ 0 ∧ k % r = 0 then some 0 else if h ≠ 0 ∧ k % h = h / 2 then some 1 else none

/-- A brush access's port cycles, from `t` one for each line: reserved slots first, then the busy rules (R67, R69, R71). -/
def enterVault (c b t : Nat) (a : Word) (lines : List Nat) (s : State) : Except Trap State :=
  let ps := (List.range lines.length).map (fun i => (t + i, vaultBank (lines.getD i 0), b))
  match ps.findSome? (fun p => (slotKind s c p.1).map (fun k => (k, p.1))) with
  | some (k, p) => .error (mkTrap 0x09 a (w64 (k + (p - (s.core c).k0) % 2 ^ 32 * 2 ^ 32)) 0)
  | none =>
    match ps.find? (fun p => portBusy (s.core c).vport p.1 p.2.1) with
    | some p => .error (mkTrap 0x08 a (w64 p.2.1) 0)
    | none => .ok (s.modCore c (fun x => { x with vport := x.vport ++ ps }))

/-- The port is one of the shared units; its user is its owner (R67). -/
def needPort (s : State) (i : Iss) : Except Trap Unit :=
  if mayUse (s.core i.c) i.b (s.cyc i.c) 9 then .ok () else .error (ownershipTrap i.code)

/-! ### LS -/

/-- An LS access (R238, R239): the checks of R36 in order, then the vault's own, then its banks. -/
def lsAccess : SOp := fun i d s => do
  needClean s i.c d 1 i.code
  let t := s.cyc i.c
  let n := lsBytes i.code
  let st := lsIsStore i.code
  let (sp, ph) ← checkAddr s i.c i.b .ls st d.v n i.code
  let o := pLat s i.c i.b 13
  let base : Flight := { Flight.done i.b i.code false t (lsDue sp st t) (if st then none else some (.ps 14)) d.v Vc.zero 0 with
    store := st, base := s.physBase i.c i.b }
  match sp with
  | .window => do
    let (v, p) ← (s.core i.c).readWindow t ph n i.code
    let s := s.descTouch i.c (windowOf ph)
    addFlight i.c i.b { base with res := scVc ⟨lsExtend i.code v, p⟩ } s
  | .vault => do
    if 64 < ph % 64 + n then .error (segTrap d.v n i.code 9)
    needPort s i
    let s ← enterVault i.c i.b t d.v [ph] s
    if st then
      -- the port cycle is the issue: seen by loads from t + 1, committed at t + 24 (R68)
      pure (s.modCore i.c (fun x => { x with vpend := x.vpend ++
        [⟨t + 24, i.b, ph, n, BitVec.ofNat 2048 (o.v.toNat % 256 ^ n), if o.p then 3 else 0, none, x.seq + 1⟩] }))
    else
      let s := s.eccTouch i.c true ph n
      let (v, p) := (s.core i.c).rdVault ph n
      addFlight i.c i.b { base with res := scVc ⟨lsExtend i.code v, p != 0⟩ } s
  | _ => do
    crossingClean s i.c sp d.v (st && o.p)
    let f : Flight := { base with pieces := lsPieces sp i.code ph t, src := ⟨BitVec.ofNat 2048 o.v.toNat, if o.p then 3 else 0⟩ }
    let s ← enterFlight i.c f s
    addFlight i.c i.b f s

/-- fence waits for every access of its brush issued before it (R129); its order is sealed with the bundle (log 9). -/
def trigFence : SOp := fun i _ s => .ok (s.modBrush i.c i.b (fun y => { y with newWait := some (.fence 0) }))

/-- ldb (R238). -/
def trigLdb : SOp := lsAccess
/-- ldbn (R238). -/
def trigLdbn : SOp := lsAccess
/-- ldh (R238). -/
def trigLdh : SOp := lsAccess
/-- ldhn (R238). -/
def trigLdhn : SOp := lsAccess
/-- ldw (R238). -/
def trigLdw : SOp := lsAccess
/-- ldwn (R238). -/
def trigLdwn : SOp := lsAccess
/-- ldd (R238). -/
def trigLdd : SOp := lsAccess
/-- stb (R238). -/
def trigStb : SOp := lsAccess
/-- sth (R238). -/
def trigSth : SOp := lsAccess
/-- stw (R238). -/
def trigStw : SOp := lsAccess
/-- std (R238). -/
def trigStd : SOp := lsAccess
def execLdb (m : Trig) (s : State) : Out := issueS 0x2E0 trigLdb m s
def execLdbn (m : Trig) (s : State) : Out := issueS 0x2E1 trigLdbn m s
def execLdh (m : Trig) (s : State) : Out := issueS 0x2E2 trigLdh m s
def execLdhn (m : Trig) (s : State) : Out := issueS 0x2E3 trigLdhn m s
def execLdw (m : Trig) (s : State) : Out := issueS 0x2E4 trigLdw m s
def execLdwn (m : Trig) (s : State) : Out := issueS 0x2E5 trigLdwn m s
def execLdd (m : Trig) (s : State) : Out := issueS 0x2E6 trigLdd m s
def execStb (m : Trig) (s : State) : Out := issueS 0x2E7 trigStb m s
def execSth (m : Trig) (s : State) : Out := issueS 0x2E8 trigSth m s
def execStw (m : Trig) (s : State) : Out := issueS 0x2E9 trigStw m s
def execStd (m : Trig) (s : State) : Out := issueS 0x2EA trigStd m s
def execFence (m : Trig) (s : State) : Out := issueS 0x2EB trigFence m s

end Sys2Proof.Machine
end

