-- ==== Sys2Proof/Machine/Atomic.lean ====
section
/-! DEFINITION. Atomics: scalar (12 R240) and vector (R241), their slots and limits (03 R57 to R62). -/
namespace Sys2Proof.Machine

/-- Atomics of a brush with a slot still to come (R62). -/
def rmwPending (y : Brush) : Nat := (y.flights.filter (fun f => isRmwCode f && f.slots != [])).length

/-- The first `n` slots of a brush from cycle `t` that its earlier atomics have not taken (R58). -/
def freeSlots (x : Core) (b t n : Nat) : List Nat :=
  let taken := (x.brush b).flights.flatMap (fun f => f.slots.map (fun e => e.1))
  ((slotsFrom x.k0 b t (n + taken.length)).filter (fun s => !taken.contains s)).take n

/-- A scalar atomic (R240): address and alignment, the limit of four, its slot, the schedule. -/
def rmAccess (cas : Bool) : SOp := fun i d s => do
  needClean s i.c d 1 i.code
  let n := if i.code < 0x390 then 4 else 8
  let _ ← checkAddr s i.c i.b .rm true d.v n i.code
  if d.v.toNat % n ≠ 0 then .error (mkTrap 0x13 d.v 0 0) else
  let x := s.core i.c
  if 4 ≤ rmwPending (x.brush i.b) then .error (badOp i.code 1) else
  let t := s.cyc i.c
  let slot := (freeSlots x i.b t 1).headD t
  let o := pLat s i.c i.b 17
  let cmp := pLat s i.c i.b 18
  let f : Flight := { Flight.done i.b i.code false t (slot + 3) (some (.ps 19)) d.v Vc.zero 0 with
    slots := [(slot, 0)], src := ⟨BitVec.ofNat 2048 (o.v.toNat + cmp.v.toNat * 2 ^ 64),
      (if o.p then 1 else 0) + (if cas && cmp.p then 4 else 0)⟩, base := s.physBase i.c i.b }
  let s ← enterFlight i.c f s
  addFlight i.c i.b f s

/-- Checks of the active lanes of a vector atomic in ascending order (R36, R62, R241). -/
def rmLanes (i : Iss) (d : Vc) (s : State) : Except Trap Unit :=
  (activeLanes d.v).forM (fun l => do
    let a := (vlane d.v l).setWidth 64
    needClean s i.c ⟨a, d.p.getLsbD l⟩ 1 i.code
    let _ ← checkAddr s i.c i.b .rm true a 4 i.code
    if a.toNat % 4 ≠ 0 then .error (mkTrap 0x13 a 0 0) else pure ())

/-- A vector atomic (R241): one slot of the brush for each active lane; with none, its zeros complete at t + 3. -/
def rmVector : VOp := fun i d s => do
  rmLanes i d s
  let x := s.core i.c
  if 4 ≤ rmwPending (x.brush i.b) then .error (badOp i.code 1) else
  let t := s.cyc i.c
  let ls := activeLanes d.v
  let slots := freeSlots x i.b t ls.length
  let due := match slots.getLast? with | some l => l + 7 | none => t + 3
  let ov := mget Vc.zero (x.brush i.b).vlat 0
  let f : Flight := { Flight.done i.b i.code true t due (some (.pv 1)) 0 Vc.zero 0 with
    slots := slots.zip ls, src := ov, idx := d, base := s.physBase i.c i.b }
  let s ← enterFlight i.c f s
  addFlight i.c i.b f s

/-- aadd (R240). -/
def trigAadd : SOp := rmAccess false
/-- aand (R240). -/
def trigAand : SOp := rmAccess false
/-- aor (R240). -/
def trigAor : SOp := rmAccess false
/-- axor (R240). -/
def trigAxor : SOp := rmAccess false
/-- amin (R240). -/
def trigAmin : SOp := rmAccess false
/-- amax (R240). -/
def trigAmax : SOp := rmAccess false
/-- aminn (R240). -/
def trigAminn : SOp := rmAccess false
/-- amaxn (R240). -/
def trigAmaxn : SOp := rmAccess false
/-- aswp (R240). -/
def trigAswp : SOp := rmAccess false
/-- acas (R240). -/
def trigAcas : SOp := rmAccess true
def execAadd (m : Trig) (w : Bool) (s : State) : Out := issueS (if w then 0x390 else 0x380) trigAadd m s
def execAand (m : Trig) (w : Bool) (s : State) : Out := issueS (if w then 0x391 else 0x381) trigAand m s
def execAor (m : Trig) (w : Bool) (s : State) : Out := issueS (if w then 0x392 else 0x382) trigAor m s
def execAxor (m : Trig) (w : Bool) (s : State) : Out := issueS (if w then 0x393 else 0x383) trigAxor m s
def execAmin (m : Trig) (w : Bool) (s : State) : Out := issueS (if w then 0x394 else 0x384) trigAmin m s
def execAmax (m : Trig) (w : Bool) (s : State) : Out := issueS (if w then 0x395 else 0x385) trigAmax m s
def execAminn (m : Trig) (w : Bool) (s : State) : Out := issueS (if w then 0x396 else 0x386) trigAminn m s
def execAmaxn (m : Trig) (w : Bool) (s : State) : Out := issueS (if w then 0x397 else 0x387) trigAmaxn m s
def execAswp (m : Trig) (w : Bool) (s : State) : Out := issueS (if w then 0x398 else 0x388) trigAswp m s
def execAcas (m : Trig) (w : Bool) (s : State) : Out := issueS (if w then 0x399 else 0x389) trigAcas m s
/-- vaadd (R241). -/
def trigVaadd : VOp := rmVector
/-- vaor (R241). -/
def trigVaor : VOp := rmVector
/-- vamax (R241). -/
def trigVamax : VOp := rmVector
/-- vamin (R241). -/
def trigVamin : VOp := rmVector
def execVaadd (m : Trig) (s : State) : Out := issueV 0x9C0 trigVaadd m s
def execVaor (m : Trig) (s : State) : Out := issueV 0x9C1 trigVaor m s
def execVamax (m : Trig) (s : State) : Out := issueV 0x9C2 trigVamax m s
def execVamin (m : Trig) (s : State) : Out := issueV 0x9C3 trigVamin m s

/-- RMW_SLOT: the atomics of a core whose slot is the present cycle read and operate (R58, R60). -/
def execRmwSlot (s : State) : Out := .next (rmwSlots s.here (s.cyc s.here) s)

end Sys2Proof.Machine
end

