-- ==== Sys2Proof/Machine/Engine.lean ====
section
/-! DEFINITION. Requests of the engines on port A (03 R52, R53): the matrix engine and the exchange engine enter their accesses
two cycles ahead; those of one cycle are judged together. -/
namespace Sys2Proof.Machine

/-- A request: the banks it uses, and a key by which its engine knows it. -/
structure EReq where
  uses : List BankE
  key : Nat × Nat
deriving DecidableEq, Repr

/-- The uses of an access of several ranges in one bank cycle, each granule once. -/
def engUses (cyc : Nat) (rs : List (Nat × Nat)) (wr : Bool) (req code laddr brush seq : Nat) : List BankE :=
  ((rs.flatMap (fun r => granules r.1 r.2)).eraseDups).map (fun g => ⟨cyc, g % 64, g, wr, req, code, laddr, brush, seq⟩)

/-- For each request the entry it meets, if any: one standing in the schedule, or one of another request of the cycle; both of two
that meet are refused (R52). -/
def judge (sch : List BankE) (rs : List EReq) : List (EReq × Option (BankE × BankE)) :=
  let all := sch ++ rs.flatMap (fun r => r.uses)
  rs.map (fun r => (r, r.uses.findSome? (fun e => (all.find? (fun f => e.meets f)).map (fun f => (e, f)))))

/-- Enter the requests that meet nothing; what the refused ones named stands aside until the end of the cycle. -/
def enterJudged (js : List (EReq × Option (BankE × BankE))) (x : Core) : Core :=
  { x with schA := x.schA ++ (js.filter (fun j => j.2.isNone)).flatMap (fun j => j.1.uses),
           shadow := x.shadow ++ (js.filter (fun j => j.2.isSome)).flatMap (fun j => j.1.uses) }

/-- Whether an entry is one of an engine's access made in cycle `t`, two cycles ahead (R52). -/
def BankE.enteredIn (e : BankE) (t : Nat) : Bool := (e.req == 6 || e.req == 7 || e.req == 0x0A) && e.cyc == t + 2
/-- Whether two entries are of one access. -/
def BankE.sameAccess (e f : BankE) : Bool := e.seq == f.seq && e.cyc == f.cyc && e.req == f.req

end Sys2Proof.Machine
end

