-- ==== Sys2Proof/Machine/Matrix.lean ====
section
/-! DEFINITION. The matrix engine (14 R278 to R291; 09 R189, R192 to R195): its queue, its checks at issue, the cycles of its
accesses, its arithmetic, completion. -/
namespace Sys2Proof.Machine

/-! ### Tiles and accumulators -/

/-- Replace bytes of a tile. -/
def tput {w : Nat} (t : BitVec w) (off n v : Nat) : BitVec w :=
  BitVec.ofNat w (t.toNat - t.toNat / 256 ^ off % 256 ^ n * 256 ^ off + v % 256 ^ n * 256 ^ off)
/-- Element `i` of an accumulator and its poison (R278). -/
def Acc.el (a : Acc) (i : Nat) : Nat := a.v.toNat / 2 ^ (34 * i) % 2 ^ 34
/-- An accumulator from its elements: bits and poison. -/
def Acc.build (f : Nat → Nat × Bool) : Acc :=
  let (v, p) := (List.range 1024).foldl (fun (r : Nat × Nat) i =>
    let (x, q) := f i
    (r.1 + x % 2 ^ 34 * 2 ^ (34 * i), if q then r.2 + 2 ^ i else r.2)) (0, 0)
  ⟨BitVec.ofNat 34816 v, BitVec.ofNat 1024 p⟩
/-- RNE_xf34 of the sum of two accumulators, element by element (R193, R288). -/
def Acc.add (a b : Acc) : Acc := Acc.build (fun i => (xfAdd (a.el i) (b.el i), a.p.getLsbD i || b.p.getLsbD i))
def xfNaN (x : Nat) : Bool := (xf34.decode x).isNaN

/-! ### One step of one element (R192) -/

/-- The elements of row `r` of a step tile. -/
def tileRow (ty : Nat) (t : BitVec 32768) (r : Nat) : List Num :=
  let es := tyBytes ty
  (List.range (128 / es)).map (fun k => valOf ty (t.toNat / 256 ^ (128 * r + es * k) % 256 ^ es))

/-- The exact sum of a group of binary8 products: an exact zero is +0.0. -/
def groupSum (ps : List Num) : Num :=
  match ps.foldl (fun (a : Num) p => (a.add 0 p).1) (Num.fin false 0 0) with
  | .fin _ 0 _ => Num.fin false 0 0
  | v => v

/-- S_g as xf34 bits; `sa` and `sb` are the scales of the group's block. -/
def groupPart (b8 scaled : Bool) (ps : List Num) (sa sb : Nat) : Nat :=
  if b8 then
    let s := groupSum ps
    if scaled then (if sa = 255 ∨ sb = 255 then xf34.nanCode else rneXf (s.scale ((sa : Int) - 127 + (sb - 127)))) else rneXf s
  else
    match treeFold (fun x y => xf34.decode (rneXf (x.add 0 y).1)) 4 (ps.map some) with
    | some v => rneXf v
    | none => 0

/-- The step partial P of a row and a column (R192). -/
def stepPart (ty : Nat) (scaled : Bool) (as bs : List Num) (sa sb : Nat → Nat) : Nat :=
  let es := tyBytes ty
  let ps := (as.zip bs).map (fun p => (p.1.mul p.2).1)
  let part (g : Nat) : Nat := groupPart (tyB8 ty) scaled ((ps.drop (16 * g)).take 16) (sa (g / 2)) (sb (g / 2))
  (List.range (8 / es - 1)).foldl (fun p g => xfAdd p (part (g + 1))) (part 0)

/-! ### The plan of a command (R283 to R290) -/

/-- An access in one bank cycle: a tag, whether it writes, its ranges by local address. Tags: 0 to 7 the eighths of A, 8 to 15 of
B, 16 and 17 the scales, 18 and 19 the halves of a raw tile, 20 the epilogue operand, 30 the group table, 40 to 43 the rows of a
retire, 44 and 45 the halves of a save. -/
structure MAcc where
  tag : Nat
  wr : Bool
  rs : List (Nat × Nat)
deriving DecidableEq, Repr

def MtCmd.op (q : MtCmd) : Nat := q.cmd.op.toNat
def MtCmd.isMul (q : MtCmd) : Bool := q.op == 1 || q.op == 2
def MtCmd.stream (q : MtCmd) : Bool := q.cmd.f.an || q.cmd.f.bw
def MtCmd.ks (q : MtCmd) : Nat := q.cmd.f.ks.toNat
/-- Cycles of a step (R289). -/
def MtCmd.stepLen (q : MtCmd) : Nat := if q.cmd.f.ta = 0x42 then 32 else if q.stream then 16 else 8
/-- Cycles of all its passes. -/
def MtCmd.mulLen (q : MtCmd) : Nat := q.stepLen * q.ks * q.groups.length
/-- Bytes of an output row and the distance of two rows (R288). -/
def retRow (f : MxF) : Nat := 32 * tyBytes f.ta.toNat
def retPitch (f : MxF) : Nat := if f.astr = 0 then retRow f else f.astr.toNat * 64

/-- The cycle after the start in which the engine is free, and the cycle of completion (R289). -/
def MtCmd.freeAfter (q : MtCmd) : Nat :=
  if q.isMul then q.mulLen
  else match q.op with
    | 4 => 2 | 5 => 2 | 6 => (if q.cmd.f.sel = 8 then 2 else 1) | 7 => 4 | _ => 1
def MtCmd.doneAfter (q : MtCmd) : Nat :=
  if q.isMul then q.mulLen + 14
  else match q.op with
    | 4 => 6 | 5 => 4 | 6 => (if q.cmd.f.sel = 8 then 7 else 5) | 7 => 10 | _ => 1

/-- Where bank cycle `cyc` lies in a multiply: pass, step, cycle of the step. -/
def MtCmd.place (q : MtCmd) (cyc : Nat) : Option (Nat × Nat × Nat) :=
  match q.start with
  | none => none
  | some c =>
    let l := q.stepLen
    if !q.isMul || decide (cyc < c + 2) || decide (c + 2 + q.mulLen ≤ cyc) then none
    else
      let o := cyc - (c + 2)
      some (o / (l * q.ks), o / l % q.ks, o % l)

/-- The accesses of a command in a bank cycle. -/
def MtCmd.at (q : MtCmd) (cyc : Nat) : List MAcc :=
  let f := q.cmd.f
  match q.start with
  | none => if q.op = 2 ∧ cyc = q.t + 3 then [⟨30, false, [(f.gtab.toNat * 64, 4 * f.gcnt.toNat)]⟩] else []
  | some c =>
    match q.place cyc with
    | some (p, s, o) =>
      let (_, _, bb, sb) := q.groups.getD p (0, 0, 0, 0)
      let u := q.stepLen / 8
      let ea := o / u
      let eb := if q.stream then ea else (ea + 4) % 8
      let a : List MAcc := if o % u = 0 ∧ ¬ f.an then [⟨ea, false, [(f.aaddr.toNat * 64 + s * f.astr.toNat * 64 + 512 * ea, 512)]⟩] else []
      let b : List MAcc := if o % u = 0 ∧ ¬ f.bw then [⟨8 + eb, false, [(bb + s * f.bstr.toNat * 64 + 512 * eb, 512)]⟩] else []
      let sc : List MAcc := if o = 0 ∧ f.scaled then [⟨16, false, [(f.sa.toNat * 64 + 128 * s, 128)]⟩, ⟨17, false, [(sb + 128 * s, 128)]⟩] else []
      a ++ b ++ sc
    | none =>
      if cyc < c + 2 then [] else
      let o := cyc - (c + 2)
      let a := f.aaddr.toNat * 64
      match q.op with
      | 4 => if o < 2 then [⟨18 + o, false, [(a + 4096 * o, 4096)]⟩] else []
      | 5 => if o < 2 then [⟨44 + o, true, [(a + 4096 * o, 4096)]⟩] else []
      | 6 => if f.sel = 8 ∧ o < 2 then [⟨18 + o, false, [(a + 4096 * o, 4096)]⟩] else []
      | 7 =>
        if o = 0 ∧ f.sel = 2 then [⟨20, false, [(f.sa.toNat * 64, 8)]⟩]
        else if o = 0 ∧ f.sel = 3 then [⟨20, false, [(f.sa.toNat * 64, 128)]⟩]
        else if 4 ≤ o ∧ o < 8 then
          [⟨36 + o, true, (List.range 8).map (fun r => (a + (8 * (o - 4) + r) * retPitch f, retRow f))⟩]
        else []
      | _ => []

/-! ### Checks at issue (R195, R281) -/

def mxB8 (t : Nat) : Bool := tyB8 t && inR 3 5 (t % 8)

/-- Check 1: the type pair, or the output type. -/
def mxTypes (c : MxCmd) : Option Trap :=
  let ta := c.f.ta.toNat
  let tb := c.f.tb.toNat
  let tr (r : Nat) : Trap := mkTrap 0x12 (w64 (ta + tb * 256)) 0 (w64 r)
  if c.op = 1 ∨ c.op = 2 then
    if !tyImpl ta || !tyImpl tb then some (tr 1)
    else if !((mxB8 ta && mxB8 tb) || (tyFloat ta && ta == tb)) then some (tr 3)
    else if c.f.scaled && tyFloat ta then some (tr 4) else none
  else if c.op = 7 then
    if !tyImpl ta then some (tr 1) else if tyInt ta then some (tr 4) else none
  else none

/-- Check 2: the links that AN and BW read. -/
def mxLinks (s : State) (c : Nat) (f : MxF) : Option Trap :=
  if f.an && !linked s c 0 then some (mkTrap 0x11 0 0 0)
  else if f.bw && !linked s c 3 then some (mkTrap 0x11 3 0 0) else none

/-- The extents of a command that its words fix: whether written, local address, bytes. The B tiles of mmag follow its table. -/
def mxExtents (c : MxCmd) : List (Bool × Nat × Nat) :=
  let f := c.f
  let a := f.aaddr.toNat * 64
  let n := f.ks.toNat
  let tiles (b st : Nat) : List (Bool × Nat × Nat) := (List.range n).map (fun s => (false, b + s * st * 64, 4096))
  let scales (b : Nat) : List (Bool × Nat × Nat) := if f.scaled then [(false, b, 128 * n)] else []
  match c.op.toNat with
  | 1 => (if f.an then [] else tiles a f.astr.toNat) ++ (if f.bw then [] else tiles (f.baddr.toNat * 64) f.bstr.toNat)
      ++ scales (f.sa.toNat * 64) ++ scales (f.sb.toNat * 64)
  | 2 => tiles a f.astr.toNat ++ scales (f.sa.toNat * 64) ++ [(false, f.gtab.toNat * 64, 4 * f.gcnt.toNat)]
  | 4 => [(false, a, 8192)]
  | 5 => [(true, a, 8192)]
  | 6 => if f.sel = 8 then [(false, a, 8192)] else []
  | 7 => (if f.sel = 2 then [(false, f.sa.toNat * 64, 8)] else if f.sel = 3 then [(false, f.sa.toNat * 64, 128)] else [])
      ++ (List.range 32).map (fun r => (true, a + r * retPitch f, retRow f))
  | _ => []

/-- An extent outside the scratchpad or the segment, or written into the chain region: its first failing byte (R33, R34, R36,
R281). `lim` and `wlim` bound reads and writes; `check` other than 0 stands in place of the check. -/
def extentTrap (lim wlim code check : Nat) (e : Bool × Nat × Nat) : Option Trap :=
  let (wr, a, n) := e
  let top := if wr then wlim else lim
  let seg (bad k : Nat) : Option Trap := some (segTrap (w64 bad) n code (if check ≠ 0 then check else k))
  match accessRange a n with
  | none => seg (a + ((List.range n).find? (fun j => (accessRange a (j + 1)).isNone)).getD 0) 2
  | some (.scratch, _) => if a + n ≤ top then none else seg (max a top) 5
  | some (.window, _) => if wr then some (mkTrap 0x0B (w64 a) (w64 (n + code * 65536)) 3) else seg a 5
  | some _ => seg a 5

/-- The limits of a brush's reads and writes of the scratchpad. -/
def scratchLims (x : Core) (sys : Bool) : Nat × Nat :=
  if sys then (Config.scratchBytes, Config.scratchBytes)
  else (min Config.scratchBytes (SEGSP_SIZE x * 64), min Config.scratchBytes ((SEGSP_SIZE x - SEGSP_CHAIN x) * 64))

/-- Check 4: two granules of one bank among the rows of one bank cycle; they are named by local address. -/
def retClash (k base : Nat) (f : MxF) : Option Trap :=
  let a := f.aaddr.toNat * 64
  (List.range 4).findSome? (fun j =>
    let gs := ((List.range 8).flatMap (fun r => granules (base + a + (8 * j + r) * retPitch f) (retRow f))).eraseDups
    gs.findSome? (fun g => (gs.find? (fun h => h % 64 == g % 64 && decide (g < h))).map (fun h =>
      let e (g : Nat) : BankE := ⟨k, g % 64, g, true, 0x06, 7, g * 64 - base, 0, 0⟩
      conflictTrap false k (e g) (e h))))

/-- Issuing a matrix command (R279, R281). Decoding has passed its checks 12 and 26. -/
def mxIssue : MOp := fun i c s =>
  let x := s.core i.c
  let sys := (x.brush i.b).sys
  let code := c.op.toNat
  let base := if sys then 0 else SEGSP_BASE x * 64
  let (lim, wlim) := scratchLims x sys
  match mxTypes c with
  | some t => .error t
  | none =>
  match mxLinks s i.c c.f with
  | some t => .error t
  | none =>
  match (mxExtents c).findSome? (extentTrap lim wlim code 0) with
  | some t => .error t
  | none =>
  match (if code = 7 then retClash (s.k i.c) base c.f else none) with
  | some t => .error t
  | none =>
  if 16 ≤ x.mtq.length + x.mtRun.length then
    .error ⟨0x02, w64 code, 24, w64 i.pos, 0, false, 0⟩
  else
    let q : MtCmd := {
      cmd := c, brush := i.b, t := s.cyc i.c, base := base, lim := lim, pos := i.pos, judged := false,
      groups := (if code = 1 then [(0, 32, c.f.baddr.toNat * 64, c.f.sb.toNat * 64)] else []), start := none,
      a := 0, b := 0, sc := 0, raw := 0, ap := 0, bp := 0, rp := 0, part := [], out := none, ref := [] }
    .ok (s.setCore i.c { x with mtq := x.mtq ++ [q] })

/-! ### Starting (R279) -/

/-- The accumulators a command names. -/
def MtCmd.names (q : MtCmd) : List Nat :=
  if q.op = 0 then [] else q.cmd.f.acc.toNat :: (if q.op = 6 ∧ q.cmd.f.sel.toNat < 8 then [q.cmd.f.sel.toNat] else [])

/-- Whether every semaphore of a mask is above 0. -/
def semsReady (x : Core) (m : BitVec 16) : Bool := (List.range 16).all (fun n => !m.getLsbD n || mget 0 x.sems n != 0)

/-- Conditions 1 to 3 of the start of the head. -/
def headReady (x : Core) (t : Nat) (q : MtCmd) : Bool :=
  decide (q.t < t) && (q.op != 2 || (q.judged && decide (q.t + 4 ≤ t))) && decide (x.mtFree ≤ t)
  && x.mtRun.all (fun r => !r.names.any (fun n => q.names.contains n))

/-- Requests for bank cycle `cyc` of the commands that have started, and of a table read (R286): the command's place among the
running, or 100 + its place in the queue, and the access. -/
def mtReqs (x : Core) (cyc : Nat) : List (Nat × MAcc × MtCmd) :=
  let of (off : Nat) (l : List MtCmd) := (List.range l.length).flatMap (fun n =>
    match l[n]? with | some q => (q.at cyc).map (fun a => (off + n, a, q)) | none => [])
  of 0 x.mtRun ++ of 100 x.mtq

/-- The requests as banks. -/
def mtEReqs (x : Core) (cyc seq : Nat) (rs : List (Nat × MAcc × MtCmd)) : List EReq :=
  (List.range rs.length).flatMap (fun n => match rs[n]? with
    | some (k, a, q) => [⟨engUses cyc (a.rs.map (fun r => (q.base + r.1, r.2))) a.wr 0x06 q.op (a.rs.headD (0, 0)).1 (ownerOf x.own 5) (seq + n + 1), (k, a.tag)⟩]
    | none => [])

/-- Mark a refused access, and trap the owner of the engine (R53, R284). -/
def mtRefuse (c cyc : Nat) (j : EReq × Option (BankE × BankE)) (s : State) : State :=
  match j.2 with
  | none => s
  | some (e, f) =>
    let k := j.1.key.1
    let mark (q : MtCmd) : MtCmd := { q with ref := q.ref ++ [(cyc, j.1.key.2)] }
    let x := s.core c
    let x := if k < 100 then { x with mtRun := x.mtRun.modify k mark } else { x with mtq := x.mtq.modify (k - 100) mark }
    (s.setCore c x).markTrap c (ownerOf x.own 5) (conflictTrap false (e.cyc - x.k0) e f)

/-- Start the head if it may (R279). Its first accesses are entered with the other requests of the cycle, or by `mtLate`. -/
def mtStart (c : Nat) (s : State) : State :=
  let x := s.core c
  let t := s.cyc c
  match x.mtq with
  | [] => s
  | q :: r =>
    if headReady x t q && semsReady x q.cmd.f.wmask then
      let q := { q with start := some t }
      let sems := (List.range 16).foldl (fun m n => if q.cmd.f.wmask.getLsbD n then mput m n (mget 0 m n - 1) else m) x.sems
      s.setCore c { x with mtq := r, mtRun := x.mtRun ++ [q], mtFree := t + q.freeAfter, sems := sems }
    else s

/-- MATRIX_START. -/
def execMatrixStart (s : State) : Out := .next (mtStart s.here s)

/-- Refuse the accesses of a command in bank cycle `cyc` that name granule `g`, reads or writes. -/
def MtCmd.refuseAt (q : MtCmd) (cyc g : Nat) (wr : Bool) : MtCmd :=
  let l := (q.at cyc).filter (fun a => a.wr == wr && a.rs.any (fun r => (granules (q.base + r.1) r.2).contains g))
  { q with ref := q.ref ++ l.map (fun a => (cyc, a.tag)) }

/-! ### Reading -/

/-- Rows of four with a poisoned lane, from the 128 lanes of an eighth. -/
def rowMask (p : Nat) : Nat := (List.range 4).foldl (fun m r => if p / 2 ^ (32 * r) % 2 ^ 32 = 0 then m else m + 2 ^ r) 0
/-- Elements of a half raw tile with a poisoned container. -/
def rawMask (p : Nat) : Nat := (List.range 512).foldl (fun m i => if p / 2 ^ (2 * i) % 4 = 0 then m else m + 2 ^ i) 0

/-- What a read of tag `tag` delivers: its bytes and lane poison. -/
def MtCmd.take (q : MtCmd) (tag v p : Nat) : MtCmd :=
  if tag < 8 then { q with a := tput q.a (512 * tag) 512 v, ap := q.ap ||| BitVec.ofNat 32 (rowMask p * 2 ^ (4 * tag)) }
  else if tag < 16 then { q with b := tput q.b (512 * (tag - 8)) 512 v, bp := q.bp ||| BitVec.ofNat 32 (rowMask p * 2 ^ (4 * (tag - 8))) }
  else if tag = 16 then { q with sc := tput q.sc 0 128 v, ap := q.ap ||| BitVec.ofNat 32 p }
  else if tag = 17 then { q with sc := tput q.sc 128 128 v, bp := q.bp ||| BitVec.ofNat 32 p }
  else if tag < 20 then { q with raw := tput q.raw (4096 * (tag - 18)) 4096 v, rp := q.rp ||| BitVec.ofNat 1024 (rawMask p * 2 ^ (512 * (tag - 18))) }
  else { q with sc := tput q.sc 0 128 v, bp := BitVec.ofNat 32 p }

/-- The stream vector a step reads in this cycle (R290), from a port's latch. -/
def streamTake (q : MtCmd) (b : Bool) (j : Nat) (v : Vc) : MtCmd :=
  let lo := if v.p.toNat % 2 ^ 32 = 0 then 0 else 1
  let hi := if v.p.toNat / 2 ^ 32 = 0 then 0 else 2
  let m := BitVec.ofNat 32 ((lo + hi) * 2 ^ (2 * j))
  if b then { q with b := tput q.b (256 * j) 256 v.v.toNat, bp := q.bp ||| m }
  else { q with a := tput q.a (256 * j) 256 v.v.toNat, ap := q.ap ||| m }

/-- The step partials of the rows of a pass, +0.0 elsewhere. -/
def MtCmd.stepAcc (q : MtCmd) (row rows : Nat) : Acc :=
  let ty := q.cmd.f.ta.toNat
  let bs := (List.range 32).map (fun c => tileRow q.cmd.f.tb.toNat q.b c)
  let as := (List.range 32).map (fun r => if row ≤ r ∧ r < row + rows then tileRow ty q.a r else [])
  Acc.build (fun i =>
    let r := i / 32
    let c := i % 32
    if row ≤ r ∧ r < row + rows then
      (stepPart ty q.cmd.f.scaled (as.getD r []) (bs.getD c []) (fun k => q.sc.toNat / 256 ^ (4 * r + k) % 256)
        (fun k => q.sc.toNat / 256 ^ (128 + 4 * c + k) % 256), q.ap.getLsbD r || q.bp.getLsbD c)
    else (0, false))

/-- Add a step partial to the canonical tree's finished subtrees, latest first (R193). -/
def ctPush (a : Nat × Acc) : List (Nat × Acc) → List (Nat × Acc)
  | [] => [a]
  | b :: l => if a.1 = b.1 then ctPush (a.1 + b.1, b.2.add a.2) l else a :: b :: l
/-- The root over the finished subtrees. -/
def ctRoot : List (Nat × Acc) → Acc
  | [] => Acc.zero
  | a :: l => l.foldl (fun t b => b.2.add t) a.2

/-- The end of a step, and of a pass: its rows of the result stand. -/
def MtCmd.endStep (q : MtCmd) (p s : Nat) : MtCmd :=
  let (row, rows, _, _) := q.groups.getD p (0, 0, 0, 0)
  let part := ctPush (1, q.stepAcc row rows) q.part
  let q := { q with ap := 0, bp := 0, part := part }
  if s + 1 < q.ks then q
  else
    let t := ctRoot part
    let old := q.out.getD Acc.zero
    { q with part := [], out := some (Acc.build (fun i =>
        if row ≤ i / 32 ∧ i / 32 < row + rows then (t.el i, t.p.getLsbD i) else (old.el i, old.p.getLsbD i))) }

/-- The last cycle of a step in which it reads. -/
def MtCmd.lastRead (q : MtCmd) : Nat := if q.stream then 15 * (q.stepLen / 16) else 7 * (q.stepLen / 8)

/-- The reads of the running commands in cycle `t`: memory first, then streams, then the arithmetic of a step that ends. -/
def mtReadOne (c t k : Nat) (s : State) : State :=
  match (s.core c).mtRun[k]? with
  | none => s
  | some q =>
    let (s, q) := ((q.at t).filter (fun a => !a.wr)).foldl (fun (r : State × MtCmd) a =>
      let (ad, n) := a.rs.headD (0, 0)
      let s := r.1.eccTouch c false (q.base + ad) n
      let (v, p) := (s.core c).rdScratch (q.base + ad) n
      let bad := q.ref.contains (t, a.tag)
      (if bad then s.modCore c (fun x => x.mark true) else s, r.2.take a.tag v (if bad then 2 ^ (n / 4) - 1 else p))) (s, q)
    let q := match q.place t with
      | none => q
      | some (p, st, o) =>
        let x := s.core c
        let u := q.stepLen / 16
        let q := if q.cmd.f.an ∧ o % u = 0 then streamTake q false (o / u) (mget Vc.zero x.vlat 23) else q
        let q := if q.cmd.f.bw ∧ o % u = 0 then streamTake q true (o / u) (mget Vc.zero x.vlat 26) else q
        if o = q.lastRead then q.endStep p st else q
    s.modCore c (fun x => { x with mtRun := x.mtRun.set k q })

def mtReads (c t : Nat) (s : State) : State := (List.range (s.core c).mtRun.length).foldl (fun s k => mtReadOne c t k s) s

/-! ### The group table (R286) -/

/-- The passes of a table: rows from, rows, B tile, B scales, for each nonzero entry. -/
def groupsOf (q : MtCmd) (es : List Nat) : List (Nat × Nat × Nat × Nat) :=
  ((List.range es.length).foldl (fun (a : List (Nat × Nat × Nat × Nat) × Nat) i =>
    let e := es.getD i 0
    let rows := e % 65536
    (if rows = 0 then a.1 else a.1 ++ [(a.2, rows, e / 65536 * 64, q.cmd.f.sb.toNat * 64 + 128 * q.ks * i)], a.2 + rows)) ([], 0)).1

/-- The check of a command whose table is read in cycle `t`: the command with its passes, or its trap. A poisoned or refused table
poisons every element. -/
def tableCheck (x : Core) (t : Nat) (q : MtCmd) : Except Trap MtCmd :=
  let f := q.cmd.f
  let n := f.gcnt.toNat
  let (v, p) := x.rdScratch (q.base + f.gtab.toNat * 64) (4 * n)
  let es := (List.range n).map (fun i => v / 2 ^ (32 * i) % 2 ^ 32)
  let sum := es.foldl (fun a e => a + e % 65536) 0
  if sum ≠ 32 then .error ⟨0x02, w64 (f.gtab.toNat * 64), 25, w64 (sum % 65536 * 2 ^ 32), 2, false, 0⟩
  else
    let gs := groupsOf q es
    let ex := gs.flatMap (fun g => (List.range q.ks).map (fun s => (false, g.2.2.1 + s * f.bstr.toNat * 64, 4096))
      ++ (if f.scaled then [(false, g.2.2.2, 128 * q.ks)] else []))
    match ex.findSome? (extentTrap q.lim q.lim 2 13) with
    | some tr => .error tr
    | none => .ok { q with judged := true, groups := gs, rp := if p ≠ 0 ∨ q.ref.contains (t, 30) then BitVec.allOnes 1024 else 0 }

/-- MMAG_TABLE_CHECK: each queued mmag whose table is read in the present cycle; a failing one leaves the queue and its brush
traps before its next bundle. -/
def mtTables (c t : Nat) (s : State) : State :=
  (s.core c).mtq.foldl (fun s q =>
    if q.op = 2 ∧ q.t + 3 = t ∧ !q.judged then
      let s := s.eccTouch c false (q.base + q.cmd.f.gtab.toNat * 64) (4 * q.cmd.f.gcnt.toNat)
      let x := s.core c
      match tableCheck x t q with
      | .ok q' => s.setCore c { x with mtq := x.mtq.map (fun r => if r = q then q' else r) }
      | .error tr => (s.setCore c { x with mtq := x.mtq.filter (fun r => r != q) }).markTrap c q.brush tr
    else s) s
def execMmagTableCheck (s : State) : Out := .next (mtTables s.here (s.cyc s.here) s)

/-! ### Results and writes -/

/-- A raw tile as an accumulator (R287). -/
def MtCmd.rawAcc (q : MtCmd) : Acc :=
  Acc.build (fun i =>
    let v := q.raw.toNat / 2 ^ (64 * i) % 2 ^ 64
    (if v < 2 ^ 34 then v else xf34.nanCode, q.rp.getLsbD i))

/-- The value of an element that a retire writes, before rounding (R288). -/
def MtCmd.epi (q : MtCmd) (c : Nat) (a : Num) : Num :=
  let w (o : Nat) : Num := fp32.decode (q.sc.toNat / 256 ^ o % 2 ^ 32)
  match q.cmd.f.sel.toNat with
  | 1 => (match a with
      | .nan => .nan
      | .inf true => .fin false 0 0
      | .fin true _ _ => .fin false 0 0
      | .fin _ 0 _ => .fin false 0 0
      | v => v)
  | 2 =>
    let lo := w 0
    let hi := w 4
    if a.isNaN || lo.isNaN || hi.isNaN then .nan
    else
      let v := match a.cmp lo with | .lt => lo | _ => a
      match v.cmp hi with | .gt => hi | _ => v
  | 3 => (a.mul (w (4 * c))).1
  | _ => a

/-- One output element: its code, whether OSAT clamped it, whether it is a NaN that its accumulator element was not, its poison. -/
def MtCmd.retEl (q : MtCmd) (acc : Acc) (i : Nat) : Nat × Bool × Bool × Bool :=
  let f := q.cmd.f
  let ta := f.ta.toNat
  let a := xf34.decode (acc.el i)
  let (v, fl) := roundTo ta 0 f.osat (q.epi (i % 32) a) 0
  let pois := acc.p.getLsbD i || (f.sel == 2 && q.bp != 0) || (f.sel == 3 && q.bp.getLsbD (i % 32))
  (v, f.osat && fl / 4 % 2 == 1, (valOf ta v).isNaN && !a.isNaN, pois)

/-- Write ranges of bytes with lane poison. -/
def mtWriteOne (c t k : Nat) (s : State) : State :=
  match (s.core c).mtRun[k]? with
  | none => s
  | some q =>
    ((q.at t).filter (fun a => a.wr && !q.ref.contains (t, a.tag))).foldl (fun s a =>
      let acc := mget Acc.zero (s.core c).accs q.cmd.f.acc.toNat
      if q.op = 5 then
        let h := a.tag - 44
        let (v, p) := (List.range 512).foldl (fun (r : Nat × Nat) i =>
          (r.1 + acc.el (512 * h + i) * 2 ^ (64 * i), if acc.p.getLsbD (512 * h + i) then r.2 + 3 * 2 ^ (2 * i) else r.2)) (0, 0)
        s.modCore c (fun x => x.wrScratch (q.base + (a.rs.headD (0, 0)).1) 4096 v p)
      else
        let es := tyBytes q.cmd.f.ta.toNat
        (List.range 8).foldl (fun s r =>
          let row := 8 * (a.tag - 40) + r
          let (v, p) := (List.range 32).foldl (fun (z : Nat × Nat) e =>
            let (x, _, _, bad) := q.retEl acc (32 * row + e)
            (z.1 + x * 256 ^ (es * e), if bad then z.2 ||| 2 ^ (es * e / 4) else z.2)) (0, 0)
          s.modCore c (fun x => x.wrScratch (q.base + (a.rs.getD r (0, 0)).1) (32 * es) v p)) s) s

def mtWrites (c t : Nat) (s : State) : State := (List.range (s.core c).mtRun.length).foldl (fun s k => mtWriteOne c t k s) s

/-- Add to the counters of an accumulator (R189). -/
def mxcAdd (m : Word) (nan sat pois : Nat) : Word :=
  let f (o n : Nat) : Nat := min 0xFFFF ((m.extractLsb' o 16).toNat + n)
  w64 (f 0 nan + f 16 sat * 2 ^ 16 + f 32 pois * 2 ^ 32)

def countP (f : Nat → Bool) : Nat := (List.range 1024).foldl (fun n i => if f i then n + 1 else n) 0

/-- The destination of a command as it stands at completion, and the counts of NANC, SATC and POIS (R287, R288, R291; log 31).
A residue error of the environment marks an element of a product (R291, R341; log 17). -/
def MtCmd.result (q : MtCmd) (x : Core) : Acc × Nat × Nat × Nat :=
  let f := q.cmd.f
  let old := mget Acc.zero x.accs f.acc.toNat
  let fin (a : Acc) : Acc × Nat × Nat × Nat := (a, countP (fun i => xfNaN (a.el i) && !xfNaN (old.el i)), 0, countP (fun i => a.p.getLsbD i))
  match q.op with
  | 1 | 2 =>
    let t := q.out.getD Acc.zero
    let t : Acc := { t with p := t.p ||| q.rp ||| (if inR 1024 2047 x.glitch then BitVec.ofNat 1024 (2 ^ (x.glitch - 1024)) else 0) }
    fin (if f.mode = 0 then t else old.add t)
  | 3 => (Acc.zero, 0, 0, 0)
  | 4 => let (a, n, _) := fin q.rawAcc; (a, n, 0, 0)
  | 6 => fin (old.add (if f.sel = 8 then q.rawAcc else mget Acc.zero x.accs f.sel.toNat))
  | 7 =>
    let es := (List.range 1024).map (q.retEl old)
    (old, es.countP (fun e => e.2.2.1), es.countP (fun e => e.2.1), es.countP (fun e => e.2.2.2))
  | _ => (old, 0, 0, 0)

/-- Commands that complete in cycle `t` (R280, R289), in the order they started. -/
def mtComplete (c t : Nat) (s : State) : State :=
  (s.core c).mtRun.foldl (fun s q =>
    match q.start with
    | none => s
    | some st =>
      if st + q.doneAfter ≠ t then s
      else
        let x := s.core c
        let n := q.cmd.f.acc.toNat
        let (a, nan, sat, pois) := q.result x
        let hit := q.isMul && inR 1024 2047 x.glitch
        let s := if hit then s.coreError c 6 0x07 1 0 q.brush q.op else s
        let x := s.core c
        let x := { x with mtRun := x.mtRun.filter (fun r => r.start != q.start),
                          accs := if q.op = 0 then x.accs else mset Acc.zero x.accs n a,
                          mxc := if q.op = 0 then x.mxc else mset 0 x.mxc n (mxcAdd (mget 0 x.mxc n) nan sat pois),
                          glitch := if hit then 0 else x.glitch,
                          created := x.created || pois != 0 || (q.op == 4 && q.rp != 0) }
        s.setCore c (x.semInc q.cmd.f.sig.toNat)) s
def execMatrixComplete (s : State) : Out := .next (mtComplete s.here (s.cyc s.here) s)

/-! ### The rows -/

/-- mnop (R287). -/
def mtMnop : MOp := mxIssue
/-- mma (R286). -/
def mtMma : MOp := mxIssue
/-- mmag (R286). -/
def mtMmag : MOp := mxIssue
/-- mzero (R287). -/
def mtMzero : MOp := mxIssue
/-- mld (R287). -/
def mtMld : MOp := mxIssue
/-- msave (R287). -/
def mtMsave : MOp := mxIssue
/-- mcmb (R288). -/
def mtMcmb : MOp := mxIssue
/-- mret (R288). -/
def mtMret : MOp := mxIssue
def execMnop (f : MxF) (s : State) : Out := issueM 0 mtMnop f s
def execMma (f : MxF) (s : State) : Out := issueM 1 mtMma f s
def execMmag (f : MxF) (s : State) : Out := issueM 2 mtMmag f s
def execMzero (f : MxF) (s : State) : Out := issueM 3 mtMzero f s
def execMld (f : MxF) (s : State) : Out := issueM 4 mtMld f s
def execMsave (f : MxF) (s : State) : Out := issueM 5 mtMsave f s
def execMcmb (f : MxF) (s : State) : Out := issueM 6 mtMcmb f s
def execMret (f : MxF) (s : State) : Out := issueM 7 mtMret f s

end Sys2Proof.Machine
end

