-- ==== Sys2Proof/Machine/Scalar.lean ====
section
/-! DEFINITION. Scalar operations: A0 and A1 (12 R234, R235), SM (R236), PL (R237). -/
namespace Sys2Proof.Machine

/-- A scalar result known at issue: it completes `lat` cycles later (R230). -/
def putS (lat : Nat) (dst : Dst) (d : Word) (r : Sc) (fl : BitVec 5) (i : Iss) (s : State) : Except Trap State :=
  addFlight i.c i.b (Flight.done i.b i.code false (s.cyc i.c) (s.cyc i.c + lat) (some dst) d (scVc r) fl) s

/-- The first latch of the A unit of a code: A0.o or A1.o (R223, R225). -/
def aBase (code : Nat) : Nat := if code < 0x240 then 0 else 4

/-- An A operation of o and d (R234); poison of either poisons the result (R233). -/
def aluBin (f : Word → Word → Word) : SOp := fun i d s =>
  let o := pLat s i.c i.b (aBase i.code)
  putS 1 (.ps (aBase i.code + 3)) d.v ⟨f o.v d.v, o.p || d.p⟩ 0 i s
/-- An A operation of d alone (R234). -/
def aluUn (f : Word → Word) : SOp := fun i d s => putS 1 (.ps (aBase i.code + 3)) d.v ⟨f d.v, d.p⟩ 0 i s

/-- The shift count: bits 5:0 of d (R234). -/
def shCount (d : Word) : Nat := (d.extractLsb' 0 6).toNat

/-- Leading zero bits, 0 to 64 (R234). -/
def clz64 (d : Word) : Nat := if d = 0 then 64 else 63 - Nat.log2 d.toNat
/-- Trailing zero bits among the low `n` bits. -/
def ctzFrom (d : Nat) : Nat → Nat
  | 0 => 0
  | n + 1 => if d % 2 = 1 then 0 else 1 + ctzFrom (d / 2) n
/-- Number of 1 bits among the low `n` bits. -/
def popFrom (d : Nat) : Nat → Nat
  | 0 => 0
  | n + 1 => d % 2 + popFrom (d / 2) n
/-- The low `n` groups of `w` bits in reverse order. -/
def revFrom (w d acc : Nat) : Nat → Nat
  | 0 => acc
  | n + 1 => revFrom w (d / 2 ^ w) (acc * 2 ^ w + d % 2 ^ w) n

/-- Sat(i64, x) (R179, R234). -/
def sat64 (x : Int) : Word := BitVec.ofInt 64 (satInt 0x26 x)

/-- The field POS, WID that A.c names, if it is valid (R235). -/
def fieldOf (c : Word) : Option (Nat × Nat) :=
  let pos := (c.extractLsb' 0 6).toNat
  let wid := (c.extractLsb' 8 7).toNat
  if wid = 0 ∨ 64 < pos + wid ∨ c &&& ~~~(0x7F3F : Word) ≠ 0 then none else some (pos, wid)

/-- ext and ins: the field comes from A.c (R235); `f` takes POS, WID, o and d. -/
def aluField (useO : Bool) (f : Nat → Nat → Nat → Nat → Nat) : SOp := fun i d s =>
  let o := pLat s i.c i.b (aBase i.code)
  let c := pLat s i.c i.b (aBase i.code + 1)
  match fieldOf c.v with
  | none => .error (badOp i.code 16)
  | some (pos, wid) =>
    putS 1 (.ps (aBase i.code + 3)) d.v ⟨w64 (f pos wid o.v.toNat d.v.toNat), (useO && o.p) || c.p || d.p⟩ 0 i s

/-- sel reads A.p (R234). -/
def aluSel : SOp := fun i d s =>
  let o := pLat s i.c i.b (aBase i.code)
  let p := pLat s i.c i.b (aBase i.code + 2)
  putS 1 (.ps (aBase i.code + 3)) d.v ⟨if p.v.getLsbD 0 then o.v else d.v, o.p || p.p || d.p⟩ 0 i s

/-! ### A0 and A1 -/

/-- add (R234). -/
def trigAdd : SOp := aluBin (fun o d => o + d)
/-- sub (R234). -/
def trigSub : SOp := aluBin (fun o d => o - d)
/-- rsb (R234). -/
def trigRsb : SOp := aluBin (fun o d => d - o)
/-- and (R234). -/
def trigAnd : SOp := aluBin (fun o d => o &&& d)
/-- or (R234). -/
def trigOr : SOp := aluBin (fun o d => o ||| d)
/-- xor (R234). -/
def trigXor : SOp := aluBin (fun o d => o ^^^ d)
/-- andn (R234). -/
def trigAndn : SOp := aluBin (fun o d => o &&& ~~~d)
/-- orn (R234). -/
def trigOrn : SOp := aluBin (fun o d => o ||| ~~~d)
/-- xnor (R234). -/
def trigXnor : SOp := aluBin (fun o d => ~~~(o ^^^ d))
/-- shl (R234). -/
def trigShl : SOp := aluBin (fun o d => o <<< shCount d)
/-- shr (R234). -/
def trigShr : SOp := aluBin (fun o d => o >>> shCount d)
/-- sar (R234). -/
def trigSar : SOp := aluBin (fun o d => o.sshiftRight (shCount d))
/-- rol (R234). -/
def trigRol : SOp := aluBin (fun o d => o.rotateLeft (shCount d))
/-- ror (R234). -/
def trigRor : SOp := aluBin (fun o d => o.rotateRight (shCount d))
/-- min (R234). -/
def trigMin : SOp := aluBin (fun o d => if d.slt o then d else o)
/-- max (R234). -/
def trigMax : SOp := aluBin (fun o d => if o.slt d then d else o)
/-- minn (R234). -/
def trigMinn : SOp := aluBin (fun o d => if d.ult o then d else o)
/-- maxn (R234). -/
def trigMaxn : SOp := aluBin (fun o d => if o.ult d then d else o)
/-- sxb (R234). -/
def trigSxb : SOp := aluUn (fun d => (d.setWidth 8).signExtend 64)
/-- sxh (R234). -/
def trigSxh : SOp := aluUn (fun d => (d.setWidth 16).signExtend 64)
/-- sxw (R234). -/
def trigSxw : SOp := aluUn (fun d => (d.setWidth 32).signExtend 64)
/-- zxb (R234). -/
def trigZxb : SOp := aluUn (fun d => (d.setWidth 8).setWidth 64)
/-- zxh (R234). -/
def trigZxh : SOp := aluUn (fun d => (d.setWidth 16).setWidth 64)
/-- zxw (R234). -/
def trigZxw : SOp := aluUn (fun d => (d.setWidth 32).setWidth 64)
/-- clz (R234). -/
def trigClz : SOp := aluUn (fun d => w64 (clz64 d))
/-- ctz (R234). -/
def trigCtz : SOp := aluUn (fun d => w64 (ctzFrom d.toNat 64))
/-- popc (R234). -/
def trigPopc : SOp := aluUn (fun d => w64 (popFrom d.toNat 64))
/-- bswap (R234). -/
def trigBswap : SOp := aluUn (fun d => w64 (revFrom 8 d.toNat 0 8))
/-- brev (R234). -/
def trigBrev : SOp := aluUn (fun d => w64 (revFrom 1 d.toNat 0 64))
/-- pass (R234). -/
def trigPass : SOp := aluUn (fun d => d)
/-- addsat (R234). -/
def trigAddsat : SOp := aluBin (fun o d => sat64 (o.toInt + d.toInt))
/-- subsat (R234). -/
def trigSubsat : SOp := aluBin (fun o d => sat64 (o.toInt - d.toInt))
/-- sel (R234). -/
def trigSel : SOp := aluSel
/-- ext (R234). -/
def trigExt : SOp := aluField false (fun pos wid _ d => d / 2 ^ pos % 2 ^ wid)
/-- ins (R234). -/
def trigIns : SOp := aluField true (fun pos wid o d => o - o / 2 ^ pos % 2 ^ wid * 2 ^ pos + d % 2 ^ wid * 2 ^ pos)
def execAdd (m : Trig) (u : Bool) (s : State) : Out := issueS (if u then 0x240 else 0x200) trigAdd m s
def execSub (m : Trig) (u : Bool) (s : State) : Out := issueS (if u then 0x241 else 0x201) trigSub m s
def execRsb (m : Trig) (u : Bool) (s : State) : Out := issueS (if u then 0x242 else 0x202) trigRsb m s
def execAnd (m : Trig) (u : Bool) (s : State) : Out := issueS (if u then 0x243 else 0x203) trigAnd m s
def execOr (m : Trig) (u : Bool) (s : State) : Out := issueS (if u then 0x244 else 0x204) trigOr m s
def execXor (m : Trig) (u : Bool) (s : State) : Out := issueS (if u then 0x245 else 0x205) trigXor m s
def execAndn (m : Trig) (u : Bool) (s : State) : Out := issueS (if u then 0x246 else 0x206) trigAndn m s
def execOrn (m : Trig) (u : Bool) (s : State) : Out := issueS (if u then 0x247 else 0x207) trigOrn m s
def execXnor (m : Trig) (u : Bool) (s : State) : Out := issueS (if u then 0x248 else 0x208) trigXnor m s
def execShl (m : Trig) (u : Bool) (s : State) : Out := issueS (if u then 0x249 else 0x209) trigShl m s
def execShr (m : Trig) (u : Bool) (s : State) : Out := issueS (if u then 0x24A else 0x20A) trigShr m s
def execSar (m : Trig) (u : Bool) (s : State) : Out := issueS (if u then 0x24B else 0x20B) trigSar m s
def execRol (m : Trig) (u : Bool) (s : State) : Out := issueS (if u then 0x24C else 0x20C) trigRol m s
def execRor (m : Trig) (u : Bool) (s : State) : Out := issueS (if u then 0x24D else 0x20D) trigRor m s
def execMin (m : Trig) (u : Bool) (s : State) : Out := issueS (if u then 0x24E else 0x20E) trigMin m s
def execMax (m : Trig) (u : Bool) (s : State) : Out := issueS (if u then 0x24F else 0x20F) trigMax m s
def execMinn (m : Trig) (u : Bool) (s : State) : Out := issueS (if u then 0x250 else 0x210) trigMinn m s
def execMaxn (m : Trig) (u : Bool) (s : State) : Out := issueS (if u then 0x251 else 0x211) trigMaxn m s
def execSxb (m : Trig) (u : Bool) (s : State) : Out := issueS (if u then 0x252 else 0x212) trigSxb m s
def execSxh (m : Trig) (u : Bool) (s : State) : Out := issueS (if u then 0x253 else 0x213) trigSxh m s
def execSxw (m : Trig) (u : Bool) (s : State) : Out := issueS (if u then 0x254 else 0x214) trigSxw m s
def execZxb (m : Trig) (u : Bool) (s : State) : Out := issueS (if u then 0x255 else 0x215) trigZxb m s
def execZxh (m : Trig) (u : Bool) (s : State) : Out := issueS (if u then 0x256 else 0x216) trigZxh m s
def execZxw (m : Trig) (u : Bool) (s : State) : Out := issueS (if u then 0x257 else 0x217) trigZxw m s
def execClz (m : Trig) (u : Bool) (s : State) : Out := issueS (if u then 0x258 else 0x218) trigClz m s
def execCtz (m : Trig) (u : Bool) (s : State) : Out := issueS (if u then 0x259 else 0x219) trigCtz m s
def execPopc (m : Trig) (u : Bool) (s : State) : Out := issueS (if u then 0x25A else 0x21A) trigPopc m s
def execBswap (m : Trig) (u : Bool) (s : State) : Out := issueS (if u then 0x25B else 0x21B) trigBswap m s
def execBrev (m : Trig) (u : Bool) (s : State) : Out := issueS (if u then 0x25C else 0x21C) trigBrev m s
def execPass (m : Trig) (u : Bool) (s : State) : Out := issueS (if u then 0x25D else 0x21D) trigPass m s
def execAddsat (m : Trig) (u : Bool) (s : State) : Out := issueS (if u then 0x25E else 0x21E) trigAddsat m s
def execSubsat (m : Trig) (u : Bool) (s : State) : Out := issueS (if u then 0x25F else 0x21F) trigSubsat m s
def execSel (m : Trig) (u : Bool) (s : State) : Out := issueS (if u then 0x260 else 0x220) trigSel m s
def execExt (m : Trig) (u : Bool) (s : State) : Out := issueS (if u then 0x261 else 0x221) trigExt m s
def execIns (m : Trig) (u : Bool) (s : State) : Out := issueS (if u then 0x262 else 0x222) trigIns m s

/-! ### SM -/

/-- A product (R236): latency 3. -/
def smMul (f : Word → Word → Word) : SOp := fun i d s =>
  let o := pLat s i.c i.b 8
  putS 3 (.ps 10) d.v ⟨f o.v d.v, o.p || d.p⟩ 0 i s
/-- A quotient or remainder (R236): latency 20; a zero divisor gives all ones and DZ. -/
def smDiv (f : Word → Word → Word) : SOp := fun i d s =>
  let o := pLat s i.c i.b 8
  if d.v = 0 then putS 20 (.ps 10) d.v ⟨BitVec.allOnes 64, o.p || d.p⟩ (BitVec.ofNat 5 fDZ) i s
  else putS 20 (.ps 10) d.v ⟨f o.v d.v, o.p || d.p⟩ 0 i s

/-- mul (R236). -/
def trigMul : SOp := smMul (fun o d => o * d)
/-- mulhi (R236). -/
def trigMulhi : SOp := smMul (fun o d => BitVec.ofInt 64 (o.toInt * d.toInt / 2 ^ 64))
/-- mulhn (R236). -/
def trigMulhn : SOp := smMul (fun o d => w64 (o.toNat * d.toNat / 2 ^ 64))
/-- mac (R236). -/
def trigMac : SOp := fun i d s =>
  let o := pLat s i.c i.b 8
  let c := pLat s i.c i.b 9
  putS 3 (.ps 10) d.v ⟨o.v * d.v + c.v, o.p || d.p || c.p⟩ 0 i s
/-- div (R236). -/
def trigDiv : SOp := smDiv (fun o d => BitVec.ofInt 64 (o.toInt.tdiv d.toInt))
/-- divn (R236). -/
def trigDivn : SOp := smDiv (fun o d => w64 (o.toNat / d.toNat))
/-- rem (R236). -/
def trigRem : SOp := smDiv (fun o d => BitVec.ofInt 64 (o.toInt.tmod d.toInt))
/-- remn (R236). -/
def trigRemn : SOp := smDiv (fun o d => w64 (o.toNat % d.toNat))
def execMul (m : Trig) (s : State) : Out := issueS 0x280 trigMul m s
def execMulhi (m : Trig) (s : State) : Out := issueS 0x281 trigMulhi m s
def execMulhn (m : Trig) (s : State) : Out := issueS 0x282 trigMulhn m s
def execMac (m : Trig) (s : State) : Out := issueS 0x283 trigMac m s
def execDiv (m : Trig) (s : State) : Out := issueS 0x284 trigDiv m s
def execDivn (m : Trig) (s : State) : Out := issueS 0x285 trigDivn m s
def execRem (m : Trig) (s : State) : Out := issueS 0x286 trigRem m s
def execRemn (m : Trig) (s : State) : Out := issueS 0x287 trigRemn m s

/-! ### PL -/

/-- T and F (R237). -/
def tf (b : Bool) : Word := if b then BitVec.allOnes 64 else 0
/-- A PL operation of o and d (R237). -/
def plBin (f : Word → Word → Word) : SOp := fun i d s =>
  let o := pLat s i.c i.b 11
  putS 1 (.ps 12) d.v ⟨f o.v d.v, o.p || d.p⟩ 0 i s
/-- A PL operation of d alone (R237). -/
def plUn (f : Word → Word) : SOp := fun i d s => putS 1 (.ps 12) d.v ⟨f d.v, d.p⟩ 0 i s

/-- eq (R237). -/
def trigEq : SOp := plBin (fun o d => tf (o == d))
/-- ne (R237). -/
def trigNe : SOp := plBin (fun o d => tf (o != d))
/-- lt (R237). -/
def trigLt : SOp := plBin (fun o d => tf (o.slt d))
/-- le (R237). -/
def trigLe : SOp := plBin (fun o d => tf (o.sle d))
/-- ltn (R237). -/
def trigLtn : SOp := plBin (fun o d => tf (o.ult d))
/-- len (R237). -/
def trigLen : SOp := plBin (fun o d => tf (o.ule d))
/-- tst (R237). -/
def trigTst : SOp := plBin (fun o d => tf (o &&& d != 0))
/-- pand (R237). -/
def trigPand : SOp := plBin (fun o d => o &&& d)
/-- por (R237). -/
def trigPor : SOp := plBin (fun o d => o ||| d)
/-- pxor (R237). -/
def trigPxor : SOp := plBin (fun o d => o ^^^ d)
/-- pandn (R237). -/
def trigPandn : SOp := plBin (fun o d => o &&& ~~~d)
/-- pnot (R237). -/
def trigPnot : SOp := plUn (fun d => ~~~d)
/-- pcnt (R237). -/
def trigPcnt : SOp := plUn (fun d => w64 (popFrom d.toNat 64))
/-- pfirst (R237). -/
def trigPfirst : SOp := plUn (fun d => w64 (ctzFrom d.toNat 64))
/-- pany (R237). -/
def trigPany : SOp := plUn (fun d => tf (d != 0))
/-- pall (R237). -/
def trigPall : SOp := plUn (fun d => tf (d == BitVec.allOnes 64))
/-- plane (R237). -/
def trigPlane : SOp := plUn (fun d => w64 (2 ^ Nat.min d.toNat 64 - 1))
/-- pmov (R237). -/
def trigPmov : SOp := plUn (fun d => d)
def execEq (m : Trig) (s : State) : Out := issueS 0x2A0 trigEq m s
def execNe (m : Trig) (s : State) : Out := issueS 0x2A1 trigNe m s
def execLt (m : Trig) (s : State) : Out := issueS 0x2A2 trigLt m s
def execLe (m : Trig) (s : State) : Out := issueS 0x2A3 trigLe m s
def execLtn (m : Trig) (s : State) : Out := issueS 0x2A4 trigLtn m s
def execLen (m : Trig) (s : State) : Out := issueS 0x2A5 trigLen m s
def execTst (m : Trig) (s : State) : Out := issueS 0x2A6 trigTst m s
def execPand (m : Trig) (s : State) : Out := issueS 0x2A7 trigPand m s
def execPor (m : Trig) (s : State) : Out := issueS 0x2A8 trigPor m s
def execPxor (m : Trig) (s : State) : Out := issueS 0x2A9 trigPxor m s
def execPandn (m : Trig) (s : State) : Out := issueS 0x2AA trigPandn m s
def execPnot (m : Trig) (s : State) : Out := issueS 0x2AB trigPnot m s
def execPcnt (m : Trig) (s : State) : Out := issueS 0x2AC trigPcnt m s
def execPfirst (m : Trig) (s : State) : Out := issueS 0x2AD trigPfirst m s
def execPany (m : Trig) (s : State) : Out := issueS 0x2AE trigPany m s
def execPall (m : Trig) (s : State) : Out := issueS 0x2AF trigPall m s
def execPlane (m : Trig) (s : State) : Out := issueS 0x2B0 trigPlane m s
def execPmov (m : Trig) (s : State) : Out := issueS 0x2B1 trigPmov m s

end Sys2Proof.Machine
end

