-- ==== Sys2Proof/Machine/Control.lean ====
section
/-! DEFINITION. The control unit (12 R242 to R256): branches, loops, traps, semaphores, waits, lock-step and ownership (08 R164
to R169, R175), the cadence (07 R148 to R150), counters, system registers and rings. -/
namespace Sys2Proof.Machine

/-- A selector with bits above its range (R242). -/
def needSel (code : Nat) (d : Word) (bits : Nat) : Except Trap Unit :=
  if d.toNat < 2 ^ bits then .ok () else .error (badOp code 22)

/-- Change the issuing brush. -/
def setB (i : Iss) (s : State) (f : Brush → Brush) : Except Trap State := .ok (s.modBrush i.c i.b f)

/-- A result of CU.y, from t + 1, poisoned as its operand is (R233, R251). -/
def putCU (d : Sc) (r : Word) (i : Iss) (s : State) : Except Trap State := putS 1 (.ps 16) d.v ⟨r, d.p⟩ 0 i s

/-! ### Branches and calls -/

/-- A bundle's length from its header word (R197). -/
def lenAt (x : Core) (b w : Nat) : Nat := headerWords (x.iword b w).w
/-- The bundle after the two that follow `w` in the store (R244). -/
def returnPoint (x : Core) (b w : Nat) : Nat :=
  let d2 := w + lenAt x b w
  d2 + lenAt x b d2

/-- Start a control transfer (R243); one in a delay bundle is illegal. -/
def transfer (i : Iss) (d : Sc) (tgt : Nat) (s : State) : Except Trap State := do
  needClean s i.c d 2 i.code
  if (s.brush i.c i.b).xfer.isSome then .error (badOp i.code 17) else setB i s (fun y => { y with newXfer := some tgt })

/-- The target relative to the bundle's header (R243). -/
def relTarget (i : Iss) (d : Word) : Nat := (w64 i.h + d).toNat

/-- bra (R243). -/
def trigBra : SOp := fun i d s => transfer i d d.v.toNat s
/-- ret is counted as a return besides (R244). -/
def trigRet : SOp := fun i d s => do
  let s ← transfer i d d.v.toNat s
  setB i s (fun y => { y with rets := y.rets + 1 })
/-- brai (R243). -/
def trigBrai : SOp := fun i d s => transfer i d (relTarget i d.v) s
/-- call and calli also give the return point (R244). -/
def trigCall : SOp := fun i d s => do
  let s ← transfer i d d.v.toNat s
  putCU d (w64 (returnPoint (s.core i.c) i.b (i.h + i.len))) i s
def trigCalli : SOp := fun i d s => do
  let s ← transfer i d (relTarget i d.v) s
  putCU d (w64 (returnPoint (s.core i.c) i.b (i.h + i.len))) i s

/-! ### Fetching (R33, R65) -/

/-- The trap of fetching `n` words at `w`: a branch past the store (R243), the extent of a user context, then the tags. Of a bundle
that both holds a data-tagged word and runs past the end, detail word 1 is the data word's index (DESIGN CHOICE; R65 names both values;
log 106). -/
def fetchTrap (x : Core) (b w n : Nat) : Option Trap :=
  if 16384 ≤ w then some (mkTrap 0x03 (w64 w) 16384 0)
  else if !(x.brush b).sys && decide (EXT x b < w + n) then some (mkTrap 0x0A (w64 w) (w64 (max w (EXT x b) % 2 ^ 16)) 5)
  else match (List.range n).find? (fun j => decide (16384 ≤ w + j) || !(x.iword b (w + j)).code) with
    | some j => some (mkTrap 0x03 (w64 w) (w64 (min (w + j) 16384)) 0)
    | none => none

/-! ### Loops (R245) -/

/-- A pop, a push, or with a count of 0 a jump past the bundle at END. -/
def loopOp : SOp := fun i d s => do
  let o := (pLat s i.c i.b 15).v
  let y := s.brush i.c i.b
  if o.getLsbD 63 then
    (match y.loops with
     | [] => .error (badOp i.code 18)
     | _ :: r => setB i s (fun y => { y with loops := r }))
  else do
    needClean s i.c d 3 i.code
    let e := o.toNat % 2 ^ 14
    if 2 ^ 32 ≤ d.v.toNat then .error (badOp i.code 18)
    else if o.toNat / 2 ^ 14 ≠ 0 ∨ e ≤ i.h then .error (badOp i.code 19)
    else if d.v = 0 then
      if y.xfer.isSome then .error (badOp i.code 17)
      else
        let n := lenAt (s.core i.c) i.b e
        match fetchTrap (s.core i.c) i.b e n with
        | some t => .error t
        | none => setB i s (fun y => { y with jump := some (e + n) })
    else if 4 ≤ y.loops.length then .error (mkTrap 0x19 o 0 0)
    else setB i s (fun y => { y with loops := ⟨i.h + i.len, e, d.v.toNat⟩ :: y.loops })

def trigLoop : SOp := loopOp
/-- The words of LOOP_POP are those of LOOP: CU.o bit 63 pops (R245; log 5). -/
def trigLoopPop : SOp := loopOp

/-! ### Halt and the traps by operation (R175, R247) -/

def trigHalt : SOp := fun i _ s => setB i s (fun y => { y with newWait := some .halt })

/-- Raised after every other move of the bundle, with fate Next (R247). -/
def trapAfter (code : Nat) : SOp := fun i d s => setB i s (fun y => { y with after := some { mkTrap code d.v 0 0 with fate := 1 } })
def trigTrap : SOp := trapAfter 0x15
def trigBrk : SOp := trapAfter 0x14
def trigSys : SOp := trapAfter 0x16
/-- The task service is system call 1; the Atelier serves it while the handler's first bundle waits (R333). -/
def trigTaskService : SOp := trapAfter 0x16

/-- tret (R319, R320): only from the trapped state; a bad frame is a double trap. The return is made when the brush's gang
is ready. -/
def trigTret : SOp := fun i _ s =>
  let x := s.core i.c
  match (x.brush i.b).trapped with
  | none => .error (badOp i.code 32)
  | some _ =>
    if !frameOk x i.b then .error (badOp i.code 32)
    else
      let r := resumeCycle (s.cyc i.c) (s.k i.c) (frameDw x i.b 0x30) (s.vhost i.c)
      setB i s (fun y => { y with newWait := some (.gang r) })

/-! ### Semaphores and waits (R248, R249) -/

/-- A release to take effect by R128 and R133. -/
def addRel (i : Iss) (k : RelKind) (s : State) : Except Trap State :=
  .ok (s.modCore i.c (fun x => { x with rels := x.rels ++ [⟨k, i.b, 0, s.cyc i.c⟩] }))

def trigSemp : SOp := fun i d s => do
  needSel i.code d.v 4
  addRel i (.semp d.v.toNat) s
def trigSemw : SOp := fun i d s => do
  needSel i.code d.v 4
  setB i s (fun y => { y with newWait := some (.sem d.v.toNat) })
def trigWaitl : SOp := fun i d s => do
  needSel i.code d.v 5
  let o := pLat s i.c i.b 15
  needClean s i.c o 4 0x114
  if 2 ^ 32 ≤ o.v.toNat then .error (badOp i.code 22)
  else setB i s (fun y => { y with newWait := some (.land d.v.toNat (o.v.setWidth 32)) })
/-- waita (R249): alignment and the scratchpad by their own value, then the segment. -/
def trigWaita : SOp := fun i d s => do
  needClean s i.c d 1 i.code
  let o := pLat s i.c i.b 15
  needClean s i.c o 4 0x114
  if d.v.toNat % 8 ≠ 0 ∨ Config.scratchBytes ≤ d.v.toNat then .error (segTrap d.v 8 i.code 10)
  else do
    let (_, p) ← checkAddr s i.c i.b .rm false d.v 8 i.code
    setB i s (fun y => { y with newWait := some (.mem p o.v) })

/-! ### Lock-step, ownership, phase end (R164, R167, R169) -/

def trigSyncm : SOp := fun i d s =>
  if 16 ≤ d.v.toNat then .error (badOp i.code 8)
  else .ok (s.modCore i.c (fun x => { x with syncmWr := some (d.v.setWidth 4) }))

/-- own: the issuing brush owns the unit; for a vault port of the XE, the XE's owner (R169). -/
def trigOwn : SOp := fun i d s =>
  let x := s.core i.c
  let u := d.v.toNat % 16
  let o := d.v.toNat / 16
  if 9 < u ∨ 7 < o ∨ 4 < o ∨ (o = 4 ∧ u ≠ 9) then .error (badOp i.code 9)
  else
    let own := ownerOf x.own u
    let mine := own = i.b ∨ (u = 9 ∧ own = 4 ∧ ownerOf x.own 6 = i.b)
    if ¬ mine ∨ x.moving.any (fun m => m.1 == u) then .error (ownershipTrap i.code)
    else .ok (s.setCore i.c { x with moving := x.moving ++ [(u, o, s.cyc i.c)] })

def trigPhend : SOp := fun i d s =>
  if 2 ≤ d.v.toNat then .error (badOp i.code 7)
  else setB i s (fun y => { y with newWait := some (.phend 0 (d.v == 1)) })

/-! ### The cadence (R148 to R150) -/

/-- cadst (R148): in a sample-locked region tick j is due at h_{m+j}, else at t + 1 + j n. -/
def trigCadst : SOp := fun i d s =>
  let r := s.region (regionOf i.c)
  let n := d.v.toNat
  if r.samples ≠ 0 then
    if n ≠ r.samples then .error (badOp i.code 5) else setB i s (fun y => { y with cad := some ⟨n, r.nextGrid, 0, false, some r.grid⟩ })
  else if n < 2 ∨ 65535 < n then .error (badOp i.code 5)
  else setB i s (fun y => { y with cad := some ⟨n, s.cyc i.c + 1, 0, false, none⟩ })

/-- cadtk (R149): an overrun after its tick; before it the bundle is held (`cadHold`). -/
def trigCadtk : SOp := fun i _ s =>
  match (s.brush i.c i.b).cad with
  | none => .error (badOp i.code 6)
  | some z =>
    let x := s.cyc i.c
    let z := z.at (s.region (regionOf i.c)) x
    if z.due < x then
      .error (mkTrap 0x0E (w64 (z.j % 2 ^ 32 + (x - z.due) % 2 ^ 32 * 2 ^ 32)) ((s.core i.c).cycle - w64 (x - z.due)) (w64 z.n))
    else setB i s (fun y => { y with cad := some ⟨z.n, z.due + z.n, z.j + 1, false, z.grid.map (fun k => k + 1)⟩ })

/-! ### Counters and system registers (R252 to R256) -/

/-- A ring's state as rdc returns it (R252). -/
def Ring.word (r : Ring) : Word :=
  w64 (r.p + r.c * 16 + (List.range r.slots).foldl (fun a j => a + (r.st.getD j 0) * 4 ^ j) 0 * 2 ^ 8 + ((r.slots + 15) % 16) * 2 ^ 40)

def trigRdc : SOp := fun i d s =>
  let x := s.core i.c
  let n := d.v.toNat % 256
  match d.v.toNat / 256 with
  | 0 => if n < 16 then putCU d ((mget 0 x.sems n).setWidth 64) i s else .error (badOp i.code 22)
  | 1 => if n < 32 then putCU d ((mget Land.reset x.lands n).count.setWidth 64) i s else .error (badOp i.code 22)
  | 2 => if n < 16 then putCU d (mget Ring.reset x.rings n).word i s else .error (badOp i.code 22)
  | _ => .error (badOp i.code 22)

/-- The value of a system register, and whether user privilege reads it (R253 to R255). -/
def sysReg (s : State) (c b n : Nat) : Option (Word × Bool) :=
  let x := s.core c
  let y := x.brush b
  let r := s.region (regionOf c)
  if inR 0x10 0x17 n then some (mget 0 x.mxc (n - 0x10), true)
  else match n with
    | 0x00 => some (x.cycle, true)
    | 0x01 => some (s.phaseN c, true)
    | 0x02 => some (s.house, true)
    | 0x03 => some (y.flags.setWidth 64, true)
    | 0x04 => some (y.chk.setWidth 64, true)
    | 0x05 => some (x.syncm.setWidth 64, true)
    | 0x06 => some (x.own.setWidth 64, true)
    | 0x07 => some (w64 (s.devOf c % 4096 * 2 ^ 16 + rowOf c * 2 ^ 8 + colOf c), true)
    | 0x08 => some (w64 (b + if y.sys then 256 else 0), true)
    | 0x09 => some (x.ctxid, true)
    | 0x20 => some (y.tvb.setWidth 64, false)
    | 0x21 => some (w64 (Config.frameBase + 512 * b), false)
    | 0x22 => some (x.segsp, false)
    | 0x23 => some (x.segvt, false)
    | 0x24 => some (x.segis, false)
    | 0x28 => some (r.a, false)
    | 0x29 => some (r.b, false)
    | _ => none

def trigRdsr : SOp := fun i d s =>
  match sysReg s i.c i.b d.v.toNat with
  | none => .error (badOp i.code 22)
  | some (v, user) => if !user && !(s.brush i.c i.b).sys then .error (privTrap i.code) else putCU d v i s

/-- The constraints of the segment registers (R31, R32). -/
def segspOk (v : Word) : Bool :=
  let sz := (v.extractLsb' 32 17).toNat
  let b := (v.extractLsb' 0 16).toNat
  decide (v.toNat < 2 ^ 49) && decide (sz + b ≤ 64512) && decide ((v.extractLsb' 16 16).toNat ≤ sz) && b % 64 == 0
def segvtOk (v : Word) : Bool :=
  let b := (v.extractLsb' 0 19).toNat
  decide (v.toNat < 2 ^ 52) && v.extractLsb' 19 13 == 0 && decide ((v.extractLsb' 32 20).toNat + b ≤ 376832) && b % 4 == 0
def segisOk (v : Word) : Bool :=
  (List.range 4).all (fun j => v.getLsbD (16 * j + 15) == false && decide ((v.extractLsb' (16 * j) 15).toNat ≤ 16384))

/-- wrsr (R256): what a write of register `n` with `v` meets: none, or its trap's reason, 0 for a privileged operation. -/
def wrsrFault (sys : Bool) (n : Nat) (v : Word) : Option Nat :=
  if inR 0x10 0x17 n then (if v.toNat < 2 ^ 48 then none else some 21)
  else match n with
    | 0x03 => if v.toNat < 32 then none else some 21
    | 0x04 => if v.toNat < 3 then none else some 21
    | 0x20 => if sys && decide (v.toNat < 2 ^ 14) then none else some 0
    | 0x22 => if sys && segspOk v then none else some 0
    | 0x23 => if sys && segvtOk v then none else some 0
    | 0x24 => if sys && segisOk v then none else some 0
    | _ => some 0

def trigWrsr : SOp := fun i d s =>
  let n := d.v.toNat
  let v := (pLat s i.c i.b 15).v
  if (sysReg s i.c i.b n).isNone then .error (badOp i.code 22)
  else match wrsrFault (s.brush i.c i.b).sys n v with
    | some 0 => .error (privTrap i.code)
    | some r => .error (badOp i.code r)
    | none => setB i s (fun y => { y with regWr := some (n, v) })

/-- The write of a system register that takes effect in the cycle after its wrsr (R256). -/
def applyReg (b : Nat) (x : Core) : Core :=
  let y := x.brush b
  match y.regWr with
  | none => x
  | some (n, v) =>
    let y := { y with regWr := none }
    if inR 0x10 0x17 n then { x.setBrush b y with mxc := mset 0 x.mxc (n - 0x10) v }
    else match n with
      | 0x03 => x.setBrush b { y with flags := v.setWidth 5 }
      | 0x04 => x.setBrush b { y with chk := v.setWidth 2 }
      | 0x20 => x.setBrush b { y with tvb := v.setWidth 14 }
      | 0x22 => { x.setBrush b y with segsp := v }
      | 0x23 => { x.setBrush b y with segvt := v }
      | 0x24 => { x.setBrush b y with segis := v }
      | _ => x.setBrush b y

/-! ### Rings (R250) -/

def ringTrap (r : Ring) (n code : Nat) : Trap := mkTrap 0x18 (w64 (n + code * 65536)) r.word 0

/-- A ring operation on its ring; a ring of no slots is misused. -/
def ringOp (f : Iss → Nat → Ring → State → Except Trap State) : SOp := fun i d s => do
  needSel i.code d.v 4
  let n := d.v.toNat
  let r := mget Ring.reset (s.core i.c).rings n
  if r.slots = 0 then .error (ringTrap r n i.code) else f i n r s

def setRing (c n : Nat) (r : Ring) (s : State) : State := s.modCore c (fun x => { x with rings := mput x.rings n r })
def Ring.addr (r : Ring) (j : Nat) : Word := w64 (r.base + j * r.size)

def trigRwf : SOp := ringOp (fun i n _ s => setB i s (fun y => { y with newWait := some (.ringFilled n) }))
def trigRwe : SOp := ringOp (fun i n _ s => setB i s (fun y => { y with newWait := some (.ringFree n) }))
def trigRclm : SOp := fun i d => ringOp (fun i n r s =>
  if r.st.getD r.p 0 ≠ 0 then .error (ringTrap r n i.code)
  else putCU d (r.addr r.p) i (setRing i.c n { r with st := lset r.st r.p 1, claimed := r.claimed ++ [r.p], p := (r.p + 1) % r.slots } s)) i d
def trigRtak : SOp := fun i d => ringOp (fun i n r s =>
  if r.st.getD r.c 0 ≠ 2 then .error (ringTrap r n i.code)
  else putCU d (r.addr r.c) i (setRing i.c n { r with st := lset r.st r.c 3, taken := r.taken ++ [r.c], c := (r.c + 1) % r.slots } s)) i d
def trigRfil : SOp := ringOp (fun i n r s =>
  match r.claimed with
  | [] => .error (ringTrap r n i.code)
  | j :: l => addRel i (.fill n j) (setRing i.c n { r with claimed := l } s))
def trigRrel : SOp := ringOp (fun i n r s =>
  match r.taken with
  | [] => .error (ringTrap r n i.code)
  | j :: l => addRel i (.free n j) (setRing i.c n { r with taken := l } s))

/-- xnop has no effect (R242). -/
def trigXnop : SOp := fun _ _ s => .ok s

/-! ### The rows -/

def execBra (m : Trig) (s : State) : Out := issueS 0x320 trigBra m s
def execBrai (m : Trig) (s : State) : Out := issueS 0x321 trigBrai m s
def execCall (m : Trig) (s : State) : Out := issueS 0x322 trigCall m s
def execCalli (m : Trig) (s : State) : Out := issueS 0x323 trigCalli m s
def execRet (m : Trig) (s : State) : Out := issueS 0x324 trigRet m s
def execLoop (m : Trig) (s : State) : Out := issueS 0x325 trigLoop m s
def execHalt (m : Trig) (s : State) : Out := issueS 0x326 trigHalt m s
def execTrap (m : Trig) (s : State) : Out := issueS 0x327 trigTrap m s
def execSys (m : Trig) (s : State) : Out := issueS 0x328 trigSys m s
def execTret (m : Trig) (s : State) : Out := issueS 0x329 trigTret m s
def execBrk (m : Trig) (s : State) : Out := issueS 0x32A trigBrk m s
def execSemp (m : Trig) (s : State) : Out := issueS 0x32B trigSemp m s
def execSemw (m : Trig) (s : State) : Out := issueS 0x32C trigSemw m s
def execWaitl (m : Trig) (s : State) : Out := issueS 0x32D trigWaitl m s
def execWaita (m : Trig) (s : State) : Out := issueS 0x32E trigWaita m s
def execSyncm (m : Trig) (s : State) : Out := issueS 0x32F trigSyncm m s
def execOwn (m : Trig) (s : State) : Out := issueS 0x330 trigOwn m s
def execPhend (m : Trig) (s : State) : Out := issueS 0x331 trigPhend m s
def execCadst (m : Trig) (s : State) : Out := issueS 0x332 trigCadst m s
def execCadtk (m : Trig) (s : State) : Out := issueS 0x333 trigCadtk m s
def execRdc (m : Trig) (s : State) : Out := issueS 0x334 trigRdc m s
def execRdsr (m : Trig) (s : State) : Out := issueS 0x335 trigRdsr m s
def execWrsr (m : Trig) (s : State) : Out := issueS 0x336 trigWrsr m s
def execRwf (m : Trig) (s : State) : Out := issueS 0x337 trigRwf m s
def execRwe (m : Trig) (s : State) : Out := issueS 0x338 trigRwe m s
def execRclm (m : Trig) (s : State) : Out := issueS 0x339 trigRclm m s
def execRfil (m : Trig) (s : State) : Out := issueS 0x33A trigRfil m s
def execRtak (m : Trig) (s : State) : Out := issueS 0x33B trigRtak m s
def execRrel (m : Trig) (s : State) : Out := issueS 0x33C trigRrel m s
def execXnop (m : Trig) (s : State) : Out := issueS 0x33D trigXnop m s
def execLoopPop (m : Trig) (s : State) : Out := issueS 0x325 trigLoopPop m s
def execTaskService (m : Trig) (s : State) : Out := issueS 0x328 trigTaskService m s

end Sys2Proof.Machine
end

