-- ==== Sys2Proof/Machine/Crossing.lean ====
section
/-! DEFINITION. Crossings (07 R156 to R158; 15 R299 to R301): publishing, getting, and the state they leave at the end of a cycle of
their regions. -/
namespace Sys2Proof.Machine

/-- The slot XC.o names, or reason 22 (R299). -/
def xcSlot (i : Iss) (s : State) : Except Trap Nat :=
  let o := (sLat s i.c 4).v
  if 8 ≤ o.toNat then .error (badOp i.code 22) else .ok o.toNat

/-- The crossing bound to the slot on the wanted side, or the segment trap of R299. -/
def xcSide (i : Iss) (s : State) (slot : Nat) (prod : Bool) : Except Trap Nat :=
  match s.crossing (regionOf i.c) slot with
  | some (x, p) => if p = prod then .ok x else .error (segTrap (sLat s i.c 4).v 0 i.code 16)
  | none => .error (segTrap (sLat s i.c 4).v 0 i.code 16)

/-- xcput (R300): a release; poisoned samples do not leave the sitting (R342). -/
def trigXcput : SOp := fun i d s => do
  let slot ← xcSlot i s
  let x ← xcSide i s slot true
  if (s.xing x).cfg.getLsbD 30 && d.p then .error (poisonTrap (s.core i.c) (w64 i.code) 6)
  else addRel i (.publish slot (d.v.setWidth 32)) s

/-- xcget (R300): in its issue cycle, one get with every other of the region's in that cycle. -/
def trigXcget : SOp := fun i _ s => do
  let slot ← xcSlot i s
  let x ← xcSide i s slot false
  pure (s.modXing x (fun z => { z with getNow := true }))

/-- xcst (R301): XC.y from t + 2; the state is taken at the end of cycle t. -/
def trigXcst : SOp := fun i _ s => do
  let slot ← xcSlot i s
  addFlight i.c i.b (Flight.done i.b i.code false (s.cyc i.c) (s.cyc i.c + 2) (some (.ss 1)) (w64 slot) (scVc ⟨w64 slot, false⟩) 0) s

def execXcput (m : Trig) (s : State) : Out := issueS 0x3E0 trigXcput m s
def execXcget (m : Trig) (s : State) : Out := issueS 0x3E1 trigXcget m s
def execXcst (m : Trig) (s : State) : Out := issueS 0x3E2 trigXcst m s

/-- What xcst returns for a slot of a region. -/
def xcStatus (s : State) (g slot : Nat) : Word :=
  match s.crossing g slot with
  | none => 0
  | some (i, prod) =>
    let x := s.xing i
    w64 (1 + (if x.cfg.getLsbD 30 then 2 else 0) + (if prod then 4 else 0) + (if x.fresh then 8 else 0) + x.pubs.toNat * 2 ^ 32)

/-- A publish that takes effect in the present cycle of core `c`: the lowest core, then brush, gives the value (R300). -/
def markPublish (c b slot : Nat) (v : BitVec 32) (s : State) : State :=
  match s.crossing (regionOf c) slot with
  | some (i, true) => s.modXing i (fun x => match x.putNow with
      | some (k, _) => if c * 4 + b < k then { x with putNow := some (c * 4 + b, v) } else x
      | none => { x with putNow := some (c * 4 + b, v) })
  | _ => s

/-- One publish in consumer cycle `t` (R157, R158). The first two publishes drop no frame (R300). `pubAt` is the oldest publish not
taken, in interpolating mode the latest. -/
def Crossing.publish (x : Crossing) (v : BitVec 32) (t : Nat) : Crossing :=
  let x := { x with pubs := x.pubs + 1, jnext := x.jnext + 1, putNow := none }
  if x.cfg.getLsbD 30 then
    { x with xs := mput x.xs ((x.jnext - 1) % 1024) v, pubAt := t, fresh := true }
  else
    { x with openI := x.latest, latest := x.openI, fresh := true, pubAt := if x.fresh then x.pubAt else t,
             dropped := if x.fresh && decide (2 < x.jnext) then x.dropped + 1 else x.dropped }

/-- The position, the counters and out after a get in interpolating mode, `jlast` the latest sample seen (R158). -/
def Crossing.interpolate (x : Crossing) (jlast : Nat) : Crossing :=
  let pos := x.k * 2 ^ 32 + x.phi.toNat + x.delta.toNat
  let (k, phi, rep) := if jlast < pos / 2 ^ 32 + 1 then (jlast, 0, 1) else (pos / 2 ^ 32, pos % 2 ^ 32, 0)
  let (k, drop) := if k + 1023 < jlast then (jlast - 1023, jlast - 1023 - k) else (k, 0)
  let w (j : Nat) : Num := fp32.decode (mget 0 x.xs (j % 1024)).toNat
  let rne (v : Num) : Nat := (roundF fp32 0 false v 0).1
  let out := if k = jlast then (mget 0 x.xs (k % 1024)).toNat
    else
      let d := fp32.decode (rne ((w (k + 1)).add 0 (w k).neg).1)
      let f := fp32.decode (rne (.fin false phi (-32)))
      rne ((w k).add 0 (f.mul d).1).1
  { x with k := k, phi := BitVec.ofNat 32 phi, out := BitVec.ofNat 32 out, repeated := x.repeated + BitVec.ofNat 32 rep,
           dropped := x.dropped + BitVec.ofNat 32 drop }

/-- One get in consumer cycle `t`; `see` answers for a publish not yet three cycles old (R300). Which publish a get leaves out of account
where two are so young is log 94. -/
def Crossing.get (x : Crossing) (t : Nat) (see : Bool) : Crossing :=
  let seen := !x.fresh || decide (x.pubAt + 3 ≤ t) || see
  let old := (x.old.filter (fun e => decide (t < e.1 + 4))) ++ [(t + 2, x.held, x.out, x.k, x.phi, x.delta)]
  let x := { x with old := old, getNow := false, gets := x.gets + 1 }
  let x : Crossing := if x.cfg.getLsbD 30 then
      let n := if seen then x.jnext else x.jnext - 1
      let x := { x with fresh := x.fresh && !seen }
      -- before any sample is published out is +0.0, and the get repeats
      if n = 0 then { x with repeated := x.repeated + 1 } else x.interpolate (n - 1)
    else if x.fresh && seen then { x with held := x.latest, latest := x.held, fresh := false }
    else { x with repeated := x.repeated + 1 }
  if x.gets % 65536 = 0 then
    { x with delta := BitVec.ofNat 64 ((x.pubs.toNat + 2 ^ 32 - x.windowAt) % 2 ^ 32 * 2 ^ 16), windowAt := x.pubs.toNat }
  else x

/-- The publishes and gets of a region's cycle. -/
def xingEnd (g : Nat) (s : State) : State :=
  (List.range 16).foldl (fun s i =>
    let x := s.xing i
    if !x.cfg.getLsbD 31 then s
    else
      let creg := (x.cfg.extractLsb' 16 5).toNat
      let s := if (x.cfg.extractLsb' 24 5).toNat = g then
          (match x.putNow with | some (_, v) => s.modXing i (fun x => x.publish v (s.region creg).cyc) | none => s)
        else s
      if creg = g ∧ (s.xing i).getNow then
        { s.modXing i (fun x => x.get (s.region g).cyc (Config.getSees s.fv)) with fv := s.fv + 1 }
      else s) s

end Sys2Proof.Machine
end

