-- ==== Sys2Proof/Machine/Flit.lean ====
section
/-! DEFINITION. Exier flits (05 R123; 19 R354 to R356): their form, sending one at the rate of the link, and replays. -/
namespace Sys2Proof.Machine

/-- Bytes of a register, lowest first. -/
def bytesOf (n v : Nat) : List Byte := (List.range n).map (fun i => BitVec.ofNat 8 (v / 256 ^ i))

/-- CRC-32 of IEEE 802.3, one byte. -/
def crcByte (c : BitVec 32) (b : Byte) : BitVec 32 :=
  (List.range 8).foldl (fun (c : BitVec 32) _ => if c.getLsbD 0 then (c >>> 1) ^^^ 0xEDB88320 else c >>> 1) (c ^^^ b.setWidth 32)
def crc32 (l : List Byte) : BitVec 32 := ~~~(l.foldl crcByte 0xFFFFFFFF)

/-- A flit: header, payload filled up with zeros, CRC and FEC. -/
def flitOf (dest orig cls tag seq : Nat) (payload : List Byte) : List Byte :=
  let body := bytesOf 2 dest ++ bytesOf 2 orig ++ bytesOf 1 cls ++ bytesOf 1 tag ++ bytesOf 2 0 ++ bytesOf 4 seq ++ bytesOf 4 0
    ++ (payload ++ List.replicate 224 0).take 224
  let body := body ++ bytesOf 4 (crc32 body).toNat
  body ++ (Config.fecParity body ++ List.replicate 12 0).take 12

/-- Whether a port is up: its link has trained, in stage 1 (R359). -/
def State.linkUp (s : State) (port : Nat) : Bool := (s.port port).up && s.stage != 0 && !s.off
/-- Whether a port may send: it is up, and does not retrain (R356). -/
def State.linkSends (s : State) (port : Nat) : Bool := s.linkUp port && decide ((s.port port).retrain ≤ s.now)

/-- Hand a flit to a port, if that is up: it goes out at the link's rate, behind those before it (R123, R356). -/
def State.sendFlit (s : State) (port dest orig cls tag : Nat) (payload : List Byte) : State :=
  if s.linkUp port then s.modPort port (fun q => { q with queue := q.queue ++ [(dest, orig, cls, tag, payload)] }) else s

/-- A flit on the link: it takes the next SEQ, and its time. -/
def Port.emit (q : Port) (dest orig cls tag : Nat) (payload : List Byte) : Port :=
  { q with out := q.out ++ [flitOf dest orig cls tag q.seqOut.toNat payload], seqOut := q.seqOut + 1, credit := q.credit - 80 }

/-- Good lanes of a port. -/
def Port.good (q : Port) : Nat := q.lanes.count true

/-- What a port sends next: what is replayed goes first (R355). -/
def Port.sendOne (q : Port) : Port :=
  match q.again, q.queue with
  | f :: l, _ => { q with again := l, out := q.out ++ [f], credit := q.credit - 80 }
  | [], (d, o, c, t, p) :: l => { q with queue := l }.emit d o c t p
  | [], [] => q

/-- A port in a fabric cycle: at 224 Gb/s a lane, a flit of 256 bytes takes 80 / (7 · lanes) of them (R123, R356). -/
def portStep (s : State) (port : Nat) : State :=
  let q := s.port port
  if q.queue.isEmpty && q.again.isEmpty && decide (80 ≤ q.credit) then s
  else if !s.linkSends port then s
  else
    let c := q.credit + 7 * (q.good : Int)
    if c < 80 then s.modPort port (fun q => { q with credit := c })
    else if q.queue.isEmpty && q.again.isEmpty then s.modPort port (fun q => { q with credit := 80 })
    else s.modPort port (fun q => { q with credit := c }.sendOne)

/-- The flits a port has sent from a SEQ on, each once (R355). -/
def Port.from_ (q : Port) (seq : BitVec 32) : List (List Byte) :=
  (q.out.filter (fun f => decide ((BitVec.ofNat 32 (leBytes f 8 4) - seq).toNat < 2 ^ 31))).eraseDups

end Sys2Proof.Machine
end

