-- ==== Sys2Proof/Machine/Clock.lean ====
section
/-! DEFINITION. Clock regions (07 R140 to R155, R159): their configuration, the sample grid, holdover, stop and restart, and the
rates at which their cycles fall. -/
namespace Sys2Proof.Machine

/-! ### Configuration (R141 to R143, R156) -/

def floorOf (a : Word) : Nat := (a.extractLsb' 21 11).toNat
def srcImpl (src : Nat) : Bool := decide (src ≤ 5) || inR 8 31 src

/-- Whether a sitting is placed on a region. -/
def State.regionUsed (s : State) (g : Nat) : Bool := s.sittings.any (fun t => t.cores.any (fun c => regionOf c == g))

/-- The rules on RCFGA's own fields. -/
def rcfgaOk (v : Word) : Bool :=
  let src := srcOf v
  let p := pOf v
  let q := qOf v
  v.extractLsb' 19 2 == 0 && v.extractLsb' 13 3 == 0 && v.extractLsb' 6 2 == 0 && v.getLsbD 18 == false && srcImpl src
    && p != 0 && q != 0 && inR 40 1250 (floorOf v)
    && (src != 1 || (decide (floorOf v * 100 * q ≤ 15625 * p) && decide (p ≤ 8 * q)))
    && (!isPin src || p % q == 0)

/-- The refresh period a floor demands (R70, R143). -/
def vrefFor (floor : Nat) : Nat := 4 * (floor * 39 / 400)
/-- The rules on RCFGB's own fields. -/
def rcfgbOk (v : Word) : Bool :=
  let r := (v.extractLsb' 32 16).toNat
  let h := (v.extractLsb' 48 16).toNat
  v.extractLsb' 0 16 == 0 && r != 0 && h % r == 0 && h / r % 2 == 1 && inR 3 255 (h / r)
/-- The rule that ties the two, judged only against a register that has been configured (log 36). -/
def rcfgPair (a b : Word) : Bool := a == 0 || b == 0 || decide ((b.extractLsb' 32 16).toNat = vrefFor (floorOf a))

/-! ### The pace of a region (R140, R151; log 8) -/

/-- Source cycles per fabric cycle. -/
def State.srcPace (s : State) (src : Nat) : Nat × Nat :=
  if src = 1 then (1, 8) else mget (if isPin src then (1, 50) else (1, 8)) s.srcRate src

/-- Region cycles per fabric cycle as P / Q gives them from the source. -/
def State.rawPace (s : State) (g : Nat) : Nat × Nat :=
  let a := (s.region g).a
  let (n, d) := s.srcPace (srcOf a)
  (n * pOf a, d * max 1 (qOf a))
/-- A pace between a floor in MHz and 1.25 GHz (R140, R151). -/
def limitPace (floor : Nat) (q : Nat × Nat) : Nat × Nat :=
  if q.2 < q.1 then (1, 1) else if q.1 * 1250 < floor * q.2 then (floor, 1250) else q
/-- STATE of a region whose source is present: capped or clamped where the source would drive it past a limit (R151). -/
def State.limitState (s : State) (g : Nat) : BitVec 3 :=
  let (n, d) := s.rawPace g
  if d < n then 1 else if n * 1250 < floorOf (s.region g).a * d then 2 else 0

/-- Region cycles per fabric cycle: the source's through P / Q within the limits; in holdover the last ones, then those that move the grid
back to the source (R152). -/
def State.pace (s : State) (g : Nat) : Nat × Nat :=
  let r := s.region g
  let fl := floorOf r.a
  if srcOf r.a = 0 then (0, 1)
  else match r.slew with
    | some z => z.pace
    | none => if r.state = 1 then (1, 1) else if r.state = 2 then (fl, 1250) else if r.state = 3 then r.holdPace else limitPace fl (s.rawPace g)

/-- Fabric cycles of the present house tick that have gone by (R99, R357). -/
def State.tickPhase (s : State) : Nat := (s.now + s.houseOff) % Config.fabricPerTick

/-- Fabric cycles between the beat markers of a source that is an Exier port: 1,024 flit times at the lanes in use (R356, R357; log 8). -/
def State.beatInterval (s : State) (src : Nat) : Nat :=
  1024 * 80 / (7 * max 1 (((s.port (src - 8)).lanes.filter (fun l => l)).length)) + 1

/-- What a region keeps of its source is new after a configuration; HOLD, OVP, LTRAP and OCORE wait for a compute phase (R143). -/
def Region.configured (r : Region) : Region :=
  { r with pendPQ := none, state := 0, stopped := false, latch := [], ovrn := 0, miss := 0, missing := 0, grid := 0,
           nextGrid := 0, arrivals := 0, spNext := [], sp0 := 0, sp1 := 0, snum := 0, phase := 0, den := 1, slew := none, realign := false }

/-- The state of a domain's phase stays with it when its lowest-numbered region changes; the counter is the one of its new number (R144). -/
def sequencerMoves (src : Nat) (s t : State) : State :=
  let bare (d : Nat) (t : State) : State := t.modDomain d (fun m => { Domain.reset with n := m.n })
  if src = 0 then t else match s.lowest src, t.lowest src with
  | some a, some b => if a = b then t else bare a (t.modDomain b (fun m => { s.domain a with n := m.n }))
  | some a, none => bare a t
  | none, _ => t

/-- The panel of a region. -/
def regionPanel (g : Nat) : Nat := 2 * (g / 8) + g % 2
/-- Configure a region on which no sitting is placed: its source, its state and the beats it expects are new, the sequencers of the domains
it leaves and joins move, and a region of a panel that is asleep stays gated (R143 to R145, R151, R362). -/
def configureRegion (g : Nat) (a b : Word) (s : State) : State :=
  let src := srcOf (s.region g).a
  let t := s.modRegion g (fun r => { r with a := a, b := b }.configured)
  let t := t.modRegion g (fun r => { r with state := t.limitState g, beatDue := t.now + t.beatInterval (srcOf a), stopped := s.asleep.contains (regionPanel g) })
  if srcOf a = src then t else sequencerMoves (srcOf a) s (sequencerMoves src s t)

/-- A write of RCFGA: 0 done, 1 invalid, 2 busy. -/
def writeRcfga (g : Nat) (v : Word) (s : State) : Nat × State :=
  let r := s.region g
  if !rcfgaOk v || !rcfgPair v r.b then (1, s)
  else if s.regionUsed g then
    if srcOf v ≠ srcOf r.a ∨ floorOf v ≠ floorOf r.a then (2, s)
    else if srcOf v = 1 then
      -- P and Q are held pending until step 5 of the next boundary; a second write replaces the first (R161)
      (0, s.modRegion g (fun r => { r with a := r.a.extractLsb' 32 32 ++ v.extractLsb' 0 32, pendPQ := some (v.extractLsb' 32 32) }))
    else if v.extractLsb' 32 32 = r.a.extractLsb' 32 32 then (0, s.modRegion g (fun r => { r with a := v }))
    else (2, s)
  else (0, configureRegion g v r.b s)

/-- A write of RCFGB. -/
def writeRcfgb (g : Nat) (v : Word) (s : State) : Nat × State :=
  let r := s.region g
  if !rcfgbOk v || !rcfgPair r.a v then (1, s)
  else if s.regionUsed g then
    if v.extractLsb' 32 32 ≠ r.b.extractLsb' 32 32 then (2, s) else (0, s.modRegion g (fun r => { r with b := v }))
  else (0, s.modRegion g (fun r => { r with b := v }))

/-- The slot a crossing is bound to on a side. -/
def xcfgSlots (cfg : BitVec 32) : List (Nat × Nat) :=
  let sl := (cfg.extractLsb' 8 3).toNat
  if cfg.getLsbD 31 then [((cfg.extractLsb' 24 5).toNat, sl), ((cfg.extractLsb' 16 5).toNat, sl)] else []

/-- A write of XCFG (R156). -/
def writeXcfg (x : Nat) (v : Word) (s : State) : Nat × State :=
  let cfg := v.setWidth 32
  let p := (cfg.extractLsb' 24 5).toNat
  let c := (cfg.extractLsb' 16 5).toNat
  let fsz := (cfg.extractLsb' 0 5).toNat
  let old := (s.xing x).cfg
  let others := (List.range 16).flatMap (fun i => if i = x then [] else xcfgSlots (s.xing i).cfg)
  let resOk := v.extractLsb' 32 32 == 0 && cfg.getLsbD 29 == false && cfg.extractLsb' 21 3 == 0 && cfg.extractLsb' 11 5 == 0 && cfg.extractLsb' 5 3 == 0
  if !resOk || p == c || srcOf (s.region p).a == 0 || srcOf (s.region c).a == 0
      || (if cfg.getLsbD 30 then fsz != 0 else !inR 1 21 fsz) || (xcfgSlots cfg).any others.contains then (1, s)
  else if cfg.getLsbD 31 ≠ old.getLsbD 31 ∧ (s.regionUsed p ∨ s.regionUsed c ∨ (xcfgSlots old).any (fun e => s.regionUsed e.1)) then (2, s)
  else if cfg.getLsbD 31 ≠ old.getLsbD 31 then (0, s.modXing x (fun _ => { Crossing.reset with cfg := cfg }))
  else (0, s.modXing x (fun z => { z with cfg := cfg }))

/-- A mailbox write: its status stands in the mailbox. -/
def mailbox (r : Nat × State) : Out := .next { r.2 with hostMsg := r.1 }

/-- RCFGA_WRITE, RCFGB_WRITE and XCFG_WRITE through the mailbox; a region or crossing that does not exist is invalid. -/
def execRcfgaWrite (g : Nat) (v : BitVec 64) (s : State) : Out := mailbox (if g < 32 then writeRcfga g v s else (1, s))
def execRcfgbWrite (g : Nat) (v : BitVec 64) (s : State) : Out := mailbox (if g < 32 then writeRcfgb g v s else (1, s))
def execXcfgWrite (x : Nat) (v : BitVec 64) (s : State) : Out := mailbox (if x < 16 then writeXcfg x v s else (1, s))

/-! ### The edges of a region (R140) -/

/-- A region on which `n` / `d` of a cycle passes, and whether a cycle begins in it. The phase is kept in parts of a region cycle, so it does
not jump where the pace changes: the region's edges stand in one relation to its source's (R140, R151). -/
def Region.advance (n d : Nat) (r : Region) : Bool × Region :=
  let (x, y) := if r.den % max 1 d = 0 then (r.phase, r.den) else (r.phase * d, r.den * d)
  let k := n * (y / max 1 d)
  if x < k then (true, { r with phase := x + y - k, den := y, cyc := r.cyc + 1 }) else (false, { r with phase := x - k, den := y })

/-- Whether a region cycle begins in fabric cycle `now`, before the next one, and the region after it. Where the grid's way back to its source
ends in it, the region stands after it where the source has it. -/
def regionEdge (now : Nat) (s : State) (g : Nat) : Bool × Region :=
  let r := s.region g
  let (n, d) := s.pace g
  if r.stopped ∨ n = 0 then (false, r)
  else match r.slew with
    | none => r.advance n d
    | some z =>
      let run := (now + 1 - z.t0) * z.a
      if run ≤ z.len then r.advance n d
      else
        let p := z.pos2 * z.b + 2 * (run - z.len)
        let go := decide ((r.cyc + 1) * (2 * z.b) < p)
        let c := if go then r.cyc + 1 else r.cyc
        (go, { r with cyc := c, phase := (c + 1) * (2 * z.b) - p, den := 2 * z.b, slew := none })

/-- A region that takes the state its source drives it into: the grid of one that was capped or clamped, or on its way back, goes back to its
source from the next arrival on (R151; log 66). -/
def Region.driven (st : BitVec 3) (r : Region) : Region :=
  { r with state := st, slew := none, realign := r.realign || r.slew.isSome || (r.state != 0 && st == 0) }
/-- A source changes its rate (R151): its regions that are not in holdover follow it up to their limits. -/
def sourceChange (src n d : Nat) (s : State) : State :=
  let t := { s with srcRate := mput s.srcRate src (n, d) }
  (List.range 32).foldl (fun t g => if s.rsrc g ≠ src ∨ (s.region g).state = 3 then t else t.modRegion g (Region.driven (t.limitState g))) t

/-- The ratio changes of step 5 of a boundary (R159, R161). -/
def applyPending (g : Nat) (s : State) : State :=
  match (s.region g).pendPQ with
  | none => s
  | some pq => s.modRegion g (fun r => { r with a := pq ++ r.a.extractLsb' 0 32, pendPQ := none })

/-! ### The sample grid (R146, R147, R358) -/

/-- A sample in the format of its pin. -/
def pinIn (cfg : BitVec 6) (v : BitVec 32) : BitVec 32 :=
  match (cfg.extractLsb' 0 3).toNat with
  | 0 => (v.setWidth 16).setWidth 32 | 1 => (v.setWidth 16).signExtend 32
  | 2 => (v.setWidth 24).setWidth 32 | 3 => (v.setWidth 24).signExtend 32
  | _ => v
def pinOutBits (cfg : BitVec 6) (v : Word) : Word :=
  match (cfg.extractLsb' 0 3).toNat with
  | 0 | 1 => (v.setWidth 16).setWidth 64
  | 2 | 3 => (v.setWidth 24).setWidth 64
  | _ => (v.setWidth 32).setWidth 64

/-- SP.y of a sample (R147). -/
def spWord (stale : Bool) (num : Nat) (v : BitVec 32) : Word :=
  w64 ((if stale then 2 ^ 63 else 0) + num % 2 ^ 16 * 2 ^ 32 + v.toNat)

/-- The cores of a region that hold a sitting. -/
def State.placedCores (s : State) (g : Nat) : List Nat :=
  (s.sittings.flatMap (fun t => t.cores)).filter (fun c => regionOf c == g)

/-- Mark a trap on every brush of a region that has not halted (R152, R154). -/
def trapRegion (now : Bool) (g : Nat) (t : Trap) (s : State) : State :=
  (s.placedCores g).foldl (fun s c => (s.core c).alive.foldl (fun s b => s.markTrapAt now c b t) s) s

/-- The core whose SP.o drives the pin (R141). -/
def ocore (g : Nat) (a : Word) : Nat :=
  let n := (a.extractLsb' 8 5).toNat
  (2 * (g / 2) + n / 16) * 32 + 16 * (g % 2) + n % 16

/-- The output sample that ends with the cycle before this grid cycle (R147, R302). -/
def outputSample (g : Nat) (s : State) : State :=
  let r := s.region g
  if r.grid = 0 then s
  else
    let x := s.core (ocore g r.effA)
    let a := (mget Sc.zero x.slat 5).v
    let b := (mget Sc.zero x.slat 6).v
    let pin := srcOf r.a - 2
    let cfg := mget 0 s.pins pin
    let s := s.modRegion g (fun r => { r with out0 := mput r.out0 (r.grid - 1) a, out1 := mput r.out1 (r.grid - 1) b })
    if cfg.getLsbD 5 then { s with pinOut := mput (mput s.pinOut (2 * pin) (pinOutBits cfg a)) (2 * pin + 1) (pinOutBits cfg b) } else s

/-- Step 1 or 2 of a grid cycle (R146): a sample ends holdover (R152). Without channel B its port reads zero (R358). -/
def gridPresent (g : Nat) (s : State) : State :=
  let chB (w : Word) : Word := if (mget 0 s.pins (s.rsrc g - 2)).getLsbD 4 then w else 0
  s.modRegion g (fun r =>
    let r := { r with grid := r.grid + 1, nextGrid := r.cyc + max 1 r.samples }
    match r.latch with
    | z :: l => { r with latch := l, missing := 0, state := if r.state = 3 then s.limitState g else r.state,
                         spNext := r.spNext ++ [(r.cyc + 2, spWord false z.num z.a, chB (spWord false z.num z.b), z.num)] }
    | [] =>
      let stale (w : Word) : Word := w ||| w64 (2 ^ 63)
      let (p, q, n) := match r.spNext.getLast? with | some (_, p, q, n) => (p, q, n) | none => (r.sp0, r.sp1, r.snum)
      { r with miss := r.miss + 1, missing := r.missing + 1, spNext := r.spNext ++ [(r.cyc + 2, stale p, chB (stale q), n)] })
/-- A grid cycle that is presented again: one that has been presented in the present cycle counts once (R154). -/
def Region.regrid (r : Region) : Region :=
  if r.grid ≠ 0 ∧ r.nextGrid = r.cyc + max 1 r.samples then { r with grid := r.grid - 1, spNext := r.spNext.filter (fun e => e.1 != r.cyc + 2) } else r

/-- The holdover limit has lapsed in a compute phase (R153). -/
def lapsed (s : State) (g : Nat) : Bool :=
  let r := s.region g
  r.state == 3 && decide (r.holdAt + (r.effB.extractLsb' 16 16).toNat * 256 ≤ r.cyc) && !(s.domain (s.domainOf g)).exch

/-- GRID_CYCLE in the present cycle of region `here`: a lapsed holdover stops the region in its stead. -/
def execGridCycle (s : State) : Out :=
  let g := s.here
  if lapsed s g then .next { s with agenda := .ev g .regionStop :: s.agenda }
  else
    let s := gridPresent g (outputSample g s)
    let r := s.region g
    .next (if r.missing = 4 ∧ r.state ≠ 3 then { s with agenda := .ev g .holdoverEntry :: s.agenda } else s)

/-- The samples that become readable in a cycle. -/
def spApply (r : Region) : Region :=
  let r' := (r.spNext.filter (fun e => decide (e.1 ≤ r.cyc))).foldl (fun r (e : Nat × Word × Word × Nat) =>
    { r with sp0 := e.2.1, sp1 := e.2.2.1, snum := e.2.2.2 }) r
  { r' with spNext := r.spNext.filter (fun e => decide (r.cyc < e.1)) }

/-- The synthesizer begins to move the grid so that arrivals fall N / 2 before their grid cycles again (R152): the present one lies `off` parts
of `u` to a region cycle after that. In the `m` sample periods it takes, the region makes m N − `off` cycles, or a period more or less where
that keeps it within its limits. The number m is free (log 66), and 64 where the limits allow no other. -/
def startSlew (g : Nat) (s : State) : State :=
  let r := s.region g
  let n := max 1 r.samples
  let (a, b) := s.rawPace g
  let u := 2 * r.den
  let whole : Int := (n * u : Nat)
  let pos : Int := ((r.cyc + 1) * u : Nat) - (2 * r.phase : Nat)
  let off : Int := (pos + (n * r.den : Nat) - (r.nextGrid * u : Nat)) % whole
  let off := if whole < 2 * off then off - whole else off
  let pace (m : Nat) (o : Int) : Nat × Nat := ((m * whole - o).toNat * a, m * n * u * b)
  let can (e : Nat × Int) : Bool := decide (e.2 < e.1 * whole) && limitPace (floorOf r.a) (pace e.1 e.2) == pace e.1 e.2
  let ways (m : Nat) : List (Nat × Int) := [(m, off), (m, off + whole), (m, off - whole)]
  match (ways (1 + Config.slewCycles s.fv % 64) ++ ways 64).find? can with
  | none => s
  | some (m, o) =>
    if s.limitState g ≠ 0 ∨ off = 0 then s.modRegion g (fun r => { r with realign := r.realign && off != 0 })
    else
      let z : Slew := { t0 := s.now, len := m * n * b, a := a, b := b, pace := pace m o, pos2 := ((pos - o) / r.den).toNat + 2 * m * n }
      { s.modRegion g (fun r => { r with realign := false, slew := some z }) with fv := s.fv + 1 }

/-- The grid is placed at the first arrival after a configuration (log 37): it falls N / 2 before grid cycle 0, the region cycle it falls in
beginning with it, or with an odd N half a cycle before it. -/
def Region.place (r : Region) : Region :=
  let n := max 1 r.samples
  { r with nextGrid := r.cyc + (n + 1) / 2, phase := 1, den := 1 + n % 2 }
/-- One arrival at a region (R146, R151): it takes a place of the latch, or is an overrun. The first after a configuration places the grid,
whose cycle 0 presents it; one in holdover ends it. -/
def arrive (g : Nat) (a b : BitVec 32) (s : State) : State :=
  let r := s.region g
  let pin := srcOf r.a - 2
  let cfg := mget 0 s.pins pin
  let z : Sample := ⟨r.arrivals, pinIn cfg a, if cfg.getLsbD 4 then pinIn cfg b else 0⟩
  let s := if r.arrivals ≠ 0 ∧ (r.state = 3 ∨ r.realign) ∧ r.slew = none then startSlew g s else s
  let r := s.region g
  let r : Region := { (if r.arrivals = 0 then r.place else r) with arrivals := r.arrivals + 1 }
  if r.latch.length < 2 then s.modRegion g (fun _ => { r with latch := r.latch ++ [z] })
  else
    let s := s.modRegion g (fun _ => { r with ovrn := r.ovrn + 1 })
    if r.effA.getLsbD 17 then s
    else (s.placedCores g).foldl (fun s c => s.markTrap c (ownerOf (s.core c).own 8)
      (mkTrap 0x0F (w64 (pin + z.num % 2 ^ 32 * 2 ^ 32)) 0 0)) s

/-- Whether a pin takes the edges of its source: those of a sample clock from 1 kHz to 25 MHz, 50 to 1,250,000 fabric cycles apart (R358). -/
def State.pinTakes (s : State) (pin : Nat) : Bool :=
  let (n, d) := s.srcPace (pin + 2)
  decide (50 * n ≤ d) && decide (d ≤ 1250000 * n)

/-- SAMPLE_ARRIVAL at a pin: every running region locked to it (R146). An edge that the pin does not take has no effect (R358). -/
def execSampleArrival (pin : Nat) (a b : BitVec 32) (s : State) : Out :=
  .next (if s.pinTakes pin then (List.range 32).foldl (fun s g =>
    let r := s.region g
    if srcOf r.a = pin + 2 ∧ isPin (srcOf r.a) ∧ !r.stopped then arrive g a b s else s) s else s)

/-- CAPPED_OR_CLAMPED: the state the source drives the region into; 0 is locked again (R151). -/
def execCappedOrClamped (g : Nat) (st : BitVec 3) (s : State) : Out :=
  .next (if st.toNat ≤ 2 then s.modRegion g (Region.driven st) else s)

/-- HOLDOVER_ENTRY (R152). A region without samples has missed four periods of its source. -/
def execHoldoverEntry (s : State) : Out :=
  let g := s.here
  let p := s.pace g
  let s := s.modRegion g (fun r => { r with
    state := 3, holdAt := r.cyc, missing := 4, holdPace := p, slew := none, miss := if isPin (srcOf r.a) then r.miss else r.miss + BitVec.ofNat 32 (4 - r.missing) })
  let s := if (s.region g).effA.getLsbD 16 then trapRegion false g (mkTrap 0x10 0 0 0) s else s
  .next (if lapsed s g then { s with agenda := .ev g .regionStop :: s.agenda } else s)

/-- A source without samples is back (R152). -/
def sourceBack (g : Nat) (s : State) : State :=
  s.modRegion g (fun r => { r with state := if r.state = 3 then s.limitState g else r.state, missing := 0 })

/-- The source of a region in holdover is back (R152): a sample enters the latch and the next grid cycle presents it. -/
def execSourceReturnsInHoldover (g : Nat) (a b : BitVec 32) (s : State) : Out :=
  .next (if isPin (srcOf (s.region g).a) then (if s.pinTakes (srcOf (s.region g).a - 2) then arrive g a b s else s)
    else sourceBack g s)

/-- Missing periods of regions without samples (R152, R155): a beat-marker interval without a marker, a house tick without an edge, and in
holdover every house tick. The fourth in a row is holdover entry. -/
def missingPeriod (s : State) (g : Nat) : State × List Job :=
  let r := s.region g
  let src := srcOf r.a
  let count (f : Region → Region) : State × List Job :=
    (s.modRegion g (fun r => f { r with miss := r.miss + 1, missing := r.missing + 1 }), if r.missing = 3 ∧ r.state ≠ 3 then [.ev g .holdoverEntry] else [])
  if r.stopped then (s, [])
  else if src = 1 ∧ s.tickPhase = 0 then
    (if r.state = 3 ∨ s.houseGaps.contains s.now then count (fun r => r) else (s.modRegion g (fun r => { r with missing := 0 }), []))
  else if 8 ≤ src ∧ r.beatDue < s.now then count (fun r => { r with beatDue := r.beatDue + s.beatInterval src })
  else (s, [])

/-! ### Stop and restart (R153, R154) -/

def coreOfJob : Job → Option Nat
  | .beginCycle c => some c | .preIssue c => some c | .turn c _ => some c | .parity c _ _ => some c | .lateStart c => some c
  | .banks c => some c | .endCycle c => some c | _ => none
/-- Whether a job belongs to the cycle of one of a domain's regions: its cores' and its own. -/
def jobIn (s : State) (d : Nat) (j : Job) : Bool :=
  match j with
  | .regionEnd g => s.domainOf g == d
  | .ev c i => match i with
    | .resultComplete | .nbArrival | .vaultCommit | .swsetWrite | .releaseTakesEffect | .xeFlagSemEffect | .matrixComplete | .matrixStart
    | .waitEnd | .syncIssue | .ownTransferComplete | .brushArrival | .retirementDrain | .refreshSlot | .hostSlot | .scratchpadWrite | .rmwSlot
    | .indexedLane | .xeEntryFetch | .mmagTableCheck | .earlyBufferDrain | .reduceApply | .flagSlotWrite | .budgetExpiry
    | .hostBufferCommit => s.coreDom c == d
    | .gridCycle | .regionStop => s.domainOf c == d
    | _ => false
  | j => match coreOfJob j with | some c => s.coreDom c == d | none => false

/-- The queues of the sittings of a domain get their vector (R332). -/
def sourceLostEvent (d : Nat) (s : State) : State :=
  s.sittings.foldl (fun s t => if t.cores.any (fun c => s.coreDom c == d) then s.raiseMsi (t.task.q % 64) else s) s

/-- REGION_STOP: every region of the domain gates its clock before any bundle of the cycle issues. A region whose
grid cycle this is has ended an output sample with the cycle before it (R147). -/
def execRegionStop (s : State) : Out :=
  let d := s.domainOf s.here
  let owed (g : Nat) : Bool := s.agenda.any (fun j => match j with | .regionEnd h => h == g | _ => false)
  let s := (List.range 32).foldl (fun s g =>
    if s.domainOf g = d ∧ srcOf (s.region g).a ≠ 0 then
      let s := if owed g ∧ isPin (srcOf (s.region g).a) ∧ (s.region g).cyc = (s.region g).nextGrid then outputSample g s else s
      s.modRegion g (fun r => { r with stopped := true, owed := owed g, stoppedAt := s.house.toNat })
    else s) s
  .next (sourceLostEvent d { s with agenda := s.agenda.filter (fun j => !jobIn s d j) })

/-- REGION_RESTART: the clock restarts on the stop cycle, which presents the first returned sample. The regions' owed cycles run first in
the next tick; a region stopped between two cycles presents it in its next one. -/
def execRegionRestart (g : Nat) (a b : BitVec 32) (s : State) : Out :=
  let d := s.domainOf g
  .next ((List.range 32).foldl (fun s g =>
    let r := s.region g
    if s.domainOf g ≠ d ∨ !r.stopped then s
    else
      let ticks := s.house.toNat - r.stoppedAt
      let num := r.arrivals
      let s := s.modRegion g (fun r => { r with stopped := false, state := s.limitState g, missing := 0, latch := [], slew := none, realign := false,
                                                 beatDue := s.now + s.beatInterval (srcOf r.a) })
      let s := if !isPin (srcOf r.a) then s else if r.owed then gridPresent g ((arrive g a b s).modRegion g Region.regrid)
        else (arrive g a b s).modRegion g (fun r => { r with nextGrid := r.cyc + 1 })
      let s := trapRegion true g (mkTrap 0x10 1 (w64 ticks) (w64 num)) s
      (s.placedCores g).foldl (fun s c => s.modCore c (fun x => { x with brushes := x.brushes.map (fun y =>
        { y with cad := y.cad.map (fun z => { z with resync := true }) }) })) s) s)

/-! ### Beats (R357) -/

/-- The house reference is steered to a marker's timestamp less half of the link's round trip, down to the fabric cycle (R357; log 67). -/
def steerHouse (port : Nat) (house : BitVec 80) (s : State) : State :=
  let h : BitVec 80 := house - BitVec.ofNat 80 (Config.roundTrip port / 2)
  { s with house := h.extractLsb' 16 64, houseOff := ((h.extractLsb' 13 3).toNat + 8 - s.now % Config.fabricPerTick) % Config.fabricPerTick }

/-- BEAT_MARKER received on a port: a part whose house reference is that port steers its own; regions on the beat have no missing
period, and leave holdover (R152). -/
def execBeatMarker (port : Nat) (house : BitVec 80) (s : State) : Out :=
  let s := if s.houseSrc = some port then steerHouse port house s else s
  .next ((List.range 32).foldl (fun s g =>
    if srcOf (s.region g).a = port + 8 then
      (sourceBack g s).modRegion g (fun r => { r with beatDue := s.now + s.beatInterval (port + 8) })
    else s) s)

/-- Parts of a job (R160). -/
def Sitting.parts (z : Sitting) : Nat := leBytes z.task.rec_ 0x16 2
/-- The job device that a port leads to and this part's own, of the first sitting of several parts; 0 and 0 without one (log 67). -/
def markerRoute (s : State) (port : Nat) : Nat × Nat :=
  match s.sittings.find? (fun z => decide (1 < z.parts)) with
  | some z =>
    let own := leBytes z.task.rec_ 0x70 2
    (((List.range z.parts).find? (fun k => k != own && Config.exierPort k % 24 == port)).getD 0, own)
  | none => (0, 0)

/-- BEAT_MARKER_SEND on port `here`, if it sends: the marker goes out at once, with HOUSE and the phase within the tick (R354, R357). -/
def execBeatMarkerSend (s : State) : Out :=
  let (d, o) := markerRoute s s.here
  .next (if s.linkSends s.here then
    s.modPort s.here (fun p => { p.emit d o 1 0 (bytesOf 8 s.house.toNat ++ bytesOf 2 (s.tickPhase * 2 ^ 13)) with marker := s.house.toNat })
    else s)

end Sys2Proof.Machine
end

