-- ==== Sys2Proof/Machine/Exchange.lean ====
section
/-! DEFINITION. The exchange engine's chains (05 R105 to R110; 10 R208 to R210; 15 R292 to R296): entries, their fetch, beats and
lines, flags and semaphores, and the XE triggers. Chain 0 is the local chain, chain 1 the exchange chain. -/
namespace Sys2Proof.Machine

def Core.chain (x : Core) (w : Nat) : Chain := if w = 0 then x.lc else x.xc
def Core.setChain (x : Core) (w : Nat) (h : Chain) : Core := if w = 0 then { x with lc := h } else { x with xc := h }
def State.modChain (s : State) (c w : Nat) (f : Chain → Chain) : State := s.modCore c (fun x => x.setChain w (f (x.chain w)))

/-! ### Entries (R208, R209) -/

/-- The four doublewords of an entry. -/
structure XEnt where
  d0 : Nat
  d1 : Nat
  d2 : Nat
  d3 : Nat
deriving DecidableEq, Repr

def XEnt.kind (e : XEnt) : Nat := e.d0 % 16
def XEnt.sg (e : XEnt) : Bool := e.d0.testBit 4
def XEnt.dg (e : XEnt) : Bool := e.d0.testBit 5
def XEnt.land (e : XEnt) : Nat := e.d0 / 2 ^ 8 % 32
def XEnt.ksp (e : XEnt) : Nat := e.d0 / 2 ^ 16 % 2 ^ 16
def XEnt.len (e : XEnt) : Nat := e.d0 / 2 ^ 32
/-- A signed field of D3. -/
def XEnt.sgn (e : XEnt) (o n : Nat) : Int := (BitVec.ofNat n (e.d3 / 2 ^ o)).toInt
def XEnt.sinc (e : XEnt) : Int := match e.kind with | 1 | 4 => e.sgn 0 32 | 2 | 3 => e.sgn 32 16 | _ => 0
def XEnt.dinc (e : XEnt) : Int := match e.kind with | 1 | 4 | 6 => e.sgn 32 32 | 2 | 3 => e.sgn 48 16 | _ => 0
def XEnt.rows (e : XEnt) : Nat := if e.kind = 2 then e.ksp else 1
def XEnt.sstr (e : XEnt) : Int := if e.kind = 2 then e.sgn 0 16 else 0
def XEnt.dstr (e : XEnt) : Int := if e.kind = 2 then e.sgn 16 16 else 0
/-- An entry from the 256 bits at its address. -/
def XEnt.ofNat (v : Nat) : XEnt := ⟨v % 2 ^ 64, v / 2 ^ 64 % 2 ^ 64, v / 2 ^ 128 % 2 ^ 64, v / 2 ^ 192 % 2 ^ 64⟩

/-- Whether an entry's addresses keep their alignment in iteration `it` of a loop (R106, R209; log 32). -/
def XEnt.aligned (e : XEnt) (it : Int) : Bool :=
  let m : Int := tyBytes (e.ksp / 2 ^ 8)
  match e.kind with
  | 4 => decide ((e.d1 + it * e.sinc) % m = 0 ∧ (e.d2 + it * e.dinc) % m = 0)
  | 6 => decide ((e.d2 + it * e.dinc) % 8 = 0)
  | _ => true

/-- An address moved by a signed count, modulo 2^64. -/
def addInt (a : Nat) (d : Int) : Nat := ((a + d) % (2 ^ 64 : Nat)).toNat

/-- Fields of a global address (R37). -/
def gSpace (a : Nat) : Nat := a / 2 ^ 60
def gDev (a : Nat) : Nat := a / 2 ^ 48 % 2 ^ 12
def gCore (a : Nat) : Nat := a / 2 ^ 38 % 2 ^ 10
def gLocal (a : Nat) : Nat := a % 2 ^ 36
/-- The form of a global address: reserved spaces and nonzero reserved bits are none. -/
def gOk (a : Nat) : Bool := (gSpace a == 0 && a / 2 ^ 36 % 4 == 0) || (gSpace a == 1 && a / 2 ^ 48 % 2 ^ 12 == 0)

/-- The operations and types a reduction permits (R117). -/
def redOk (op ty : Nat) : Bool :=
  match op with
  | 0 => ty == 0x05 || ty == 0x06 || ty == 0x25 || ty == 0x26 || tyFloat ty
  | 1 | 2 => tyInt ty || tyFloat ty
  | _ => tyInt ty

/-- The rules of R208 and R209, whatever the chain. -/
def XEnt.ok (e : XEnt) : Bool :=
  let k := e.kind
  let move := inR 1 4 k
  let loc (a : Nat) : Bool := decide (a < 2 ^ 36)
  decide (k ≤ 9) && e.d0 / 2 ^ 13 % 8 == 0 && e.d0 / 2 ^ 6 % 4 == 0
  && (inR 1 5 k || e.land == 0)
  && (!move || e.len != 0) && (move || k == 5 || k == 7 || e.len == 0)
  && (!e.sg || k == 1 || k == 2) && (if k = 4 then e.dg else !e.dg || k == 1 || k == 2 || k == 6)
  && match k with
    | 0 => e.ksp == 0 && e.d1 == 0 && e.d2 == 0 && e.d3 == 0
    | 1 => e.ksp == 0 && (if e.sg then gOk e.d1 else loc e.d1) && (if e.dg then gOk e.d2 else loc e.d2)
    | 2 => e.ksp != 0 && (if e.sg then gOk e.d1 else loc e.d1) && (if e.dg then gOk e.d2 else loc e.d2)
    | 3 => e.ksp == 0 && loc e.d1 && loc e.d2
    | 4 =>
      let ty := e.ksp / 2 ^ 8
      let es := tyBytes ty
      e.ksp / 4 % 64 == 0 && loc e.d1 && gOk e.d2 && redOk (e.ksp % 4) ty && e.len % es == 0 && e.d1 % es == 0 && e.d2 % es == 0
    | 5 => decide (e.ksp < 4096) && e.d1 == 0 && e.d2 == 0 && e.d3 == 0 && decide (e.len * e.ksp < 2 ^ 32)
    | 6 => e.ksp == 0 && e.d3 % 2 ^ 32 == 0 && e.d2 % 8 == 0
        && (if e.dg then gOk e.d2 && gSpace e.d2 == 0 && decide (gLocal e.d2 < Config.scratchBytes) else decide (e.d2 < Config.scratchBytes))
    | 7 => inR 1 15 e.ksp && e.d1 == 0 && e.d2 == 0 && e.d3 == 0 && decide (e.len < 2 ^ 16)
    | 8 => e.ksp / 16 % 16 == 0 && e.ksp % 16 != 0 && e.d1 == 0 && e.d2 == 0 && e.d3 == 0
    | _ => decide (e.ksp < 16) && e.d1 == 0 && e.d2 == 0 && e.d3 == 0

/-! ### Stopping -/

/-- Give up the entry being moved: it never completes. -/
def Chain.dropCur (h : Chain) : Chain :=
  { h with cur := none, live := match h.cur with | some u => h.live.filter (fun k => k != u.ent) | none => h.live }

/-- The trigger code an exchange engine access is named by. -/
def xCode (w : Nat) : Nat := if w = 0 then 0x3C0 else 0x3C1
/-- Whom a chain's traps go to: the issuer of a local chain, the owner of the XE (R53, R109, R311). -/
def xWho (x : Core) (w : Nat) : Nat := if w = 0 then x.lc.brush else ownerOf x.own 6

/-- Stop a chain at its entry: earlier entries complete (R45, R105, R109, R210). -/
def xStop (c w : Nat) (s : State) : State :=
  s.modChain c w (fun h => { h.dropCur with ended := true, stop := true, fetchAt := none })
def xFault (c w : Nat) (owner : Bool) (t : Trap) (s : State) : State :=
  let x := s.core c
  (xStop c w s).markTrap c (if owner then ownerOf x.own 6 else xWho x w) t

/-! ### The next entry (R106) -/

/-- Go past the entry and `n` more; at the end of a pass the loop goes back or ends (log 32). -/
def Chain.past (h : Chain) (n : Nat) : Chain :=
  match h.loop with
  | none => { h with ptr := h.addr + 32 * (n + 1) }
  | some l =>
    if n + 1 < l.rest then { h with ptr := h.addr + 32 * (n + 1), loop := some { l with rest := l.rest - (n + 1) } }
    else if 1 < l.left then { h with ptr := l.start, loop := some { l with left := l.left - 1, iter := l.iter + 1, rest := l.n } }
    else { h with ptr := l.start + 32 * l.n, loop := none }

/-! ### Lines of the vault port (R72, R109) -/

/-- A port cycle the XE may take on a line: not reserved, and clear of its own lines (R72, R109; log 90). -/
def xPortOk (s : State) (c p line : Nat) : Bool :=
  (slotKind s c p).isNone && !portBusy ((s.core c).vport.filter (fun e => e.2.2 == 4)) p (vaultBank line)
/-- The first such cycle of `n` from `p`, else the one after them. -/
def xPortFrom (s : State) (c line : Nat) : Nat → Nat → Nat
  | 0, p => p
  | n + 1, p => if xPortOk s c p line then p else xPortFrom s c line n (p + 1)
def xPort (s : State) (c p line : Nat) : Nat := xPortFrom s c line 65536 p
/-- Whether the XE owns the vault port (R109). -/
def xPortOwned (x : Core) : Bool := ownerOf x.own 9 == 4

/-! ### Physical destinations (R38, R39, R100) -/

/-- The physical place of a local range in the context of a core: vault or scratchpad, and the address (R38). -/
def placeIn (x : Core) (wr : Bool) (a n : Nat) : Option (Bool × Nat) :=
  match accessRange a n with
  | some (.scratch, _) => (relocScratch x (!x.user) wr a n).map (fun p => (false, p))
  | some (.vault, _) => (relocVault x (!x.user) a n).map (fun p => (true, p))
  | _ => none
/-- Core `d` with the segments that the sitting of core `c` was routed by at its placement (R39, R44). -/
def State.routed (s : State) (c d : Nat) : Core :=
  match s.sittingOf c with
  | none => s.core d
  | some z => match z.routes.find? (fun r => r.1 == d) with
    | some (_, _, sp, vt) => { Core.reset with user := z.task.user, segsp := sp, segvt := vt }
    | none => s.core d
/-- What a slot from core `c` carries of its destination, a local range on core `d` of job device `dev`: the route recorded for the
sitting (R39; log 61). -/
def slotTo (s : State) (c dev d a n : Nat) : Bool × Nat :=
  if dev = s.devOf c then (placeIn (s.routed c d) true a n).getD (decide (0x100000000 ≤ a), a)
  else (decide (0x100000000 ≤ a), Config.remotePlace (dev * 1024 + d) a)

/-! ### The entry being moved -/

/-- Where the next piece starts, and its bytes: beats of 256 bytes of a row, or the part of a row in one vault line (R109). -/
def XCur.srcAt (u : XCur) : Nat := (u.src + u.row * u.sstr + u.off).toNat
def XCur.dstAt (u : XCur) : Nat := addInt u.dst (u.row * u.dstr + u.off)
def XCur.piece (u : XCur) : Nat :=
  min (u.len - u.off) (if u.dk = 1 then 64 - u.dstAt % 64 else if u.sk = 1 then 64 - u.srcAt % 64 else 256)
/-- Whether the next piece is the last. -/
def XCur.last (u : XCur) : Bool := decide (u.rows ≤ u.row + 1) && decide (u.len ≤ u.off + u.piece)
/-- The entry after its next piece. -/
def XCur.next (u : XCur) (at_ : Nat) : XCur :=
  let o := u.off + u.piece
  if u.len ≤ o then { u with row := u.row + 1, off := 0, at_ := at_ } else { u with off := o, at_ := at_ }
/-- The line whose port cycle the next piece takes. -/
def XCur.line (u : XCur) : Nat := if u.dk = 1 then u.dstAt else u.srcAt

/-- The beat or line of the next piece, read in cycle `rd`, written in cycle `wr`. -/
def XCur.op (u : XCur) (rd wr : Nat) : XOp :=
  let n := u.piece
  { rd := rd, wr := wr, sk := u.sk, sa := u.srcAt, dk := u.dk,
    da := if u.dk = 4 then gLocal u.dstAt else u.dstAt, n := n, off := u.off, tail := decide (u.len ≤ u.off + n), land := u.land,
    sto := u.sto.map (fun t => if t.mcast then t else { t with dsts := [gCore u.dstAt], dev := gDev u.dstAt }),
    ent := u.ent, got := false, rdBad := false, wrBad := false, data := 0, pois := 0 }

/-- Slots a beat fills. -/
def XOp.slots (o : XOp) : Nat := (o.off + o.n) / 128 - o.off / 128 + (if o.tail && (o.off + o.n) % 128 != 0 then 1 else 0)
/-- Slots held or to come (R109: at most 64): ready ones, those of beats to be read, and flags to be sent. -/
def Chain.held (h : Chain) : Nat :=
  h.ready.length + (h.ops.filter (fun o => o.dk == 4 && !o.got)).foldl (fun n o => n + o.slots) 0
    + (h.effs.filter (fun e => match e.k with | .slot _ => true | _ => false)).length

/-- Add a beat or line; past the last piece the next fetch follows in cycle `nf` (R109). Of an aborted chain only a fetch entered before is
left (R295). -/
def Chain.push (h : Chain) (u : XCur) (o : XOp) (at_ nf : Nat) : Chain :=
  let h := { h with ops := h.ops ++ [o], lastW := if o.dk = 0 then max h.lastW o.wr else if o.dk = 1 then max h.lastW (o.wr + 24) else h.lastW }
  if u.last then { h with cur := none, fetchAt := if h.cut.isSome then h.fetchAt else some nf } else { h with cur := some (u.next at_) }

/-! ### Data -/

def XOp.laneMask (n : Nat) : Nat := 2 ^ ((n + 3) / 4) - 1

/-- What a beat or line reads from memory: its bytes and lane poison. -/
def xRead (s : State) (c : Nat) (o : XOp) : State × Nat × Nat :=
  match o.sk with
  | 0 =>
    let s := s.eccTouch c false o.sa o.n
    let (v, p) := (s.core c).rdScratch o.sa o.n
    (s, v, if o.rdBad then XOp.laneMask o.n else p)
  | 1 =>
    let s := s.eccTouch c true o.sa o.n
    let (v, p) := (s.core c).rdVaultCommitted o.sa o.n
    (s, v, p)
  | _ => (s, rdBytes s.hostMem o.sa o.n, 0)

/-- Put the bytes of a beat bound for other cores into slots (R109); a full slot, or a row's last, is ready after cycle `t`. `place`
resolves a destination. -/
def Chain.fill (place : Nat → Nat → Nat → Nat → Bool × Nat) (h : Chain) (o : XOp) (v p t : Nat) : Chain :=
  match o.sto with
  | none => h
  | some tpl =>
    let first := o.off / 128
    let n := (o.off + o.n - 1) / 128 - first + 1
    (List.range n).foldl (fun (h : Chain) i =>
      let so := 128 * (first + i)
      let lo := max so o.off
      let hi := min (so + 128) (o.off + o.n)
      let part := v / 256 ^ (lo - o.off) % 256 ^ (hi - lo)
      let pp := p / 2 ^ ((lo - o.off) / 4) % 2 ^ ((hi - lo + 3) / 4)
      let buf := h.sbuf ||| BitVec.ofNat 1024 (part * 256 ^ (lo - so))
      let bp := h.sbufP ||| BitVec.ofNat 32 (pp * 2 ^ ((lo - so) / 4))
      if hi = so + 128 ∨ (o.tail ∧ hi = o.off + o.n) then
        { h with sbuf := 0, sbufP := 0,
                 ready := h.ready ++ [{ tpl with places := tpl.dsts.map (fun d => place tpl.dev d (o.da + so - o.off) (hi - so)), loc := o.da + so - o.off,
                                                 n := hi - so, data := buf, pois := bp, ready := t }] }
      else { h with sbuf := buf, sbufP := bp }) h

/-- A beat has been read in the present cycle: it waits for its write, or goes to slots ready after cycle `rdy`, or to the host
(R108, R342, R343). -/
def xGot (c w : Nat) (o : XOp) (v p rdy : Nat) (s : State) : State :=
  let s := s.modCore c (fun x => { x with created := x.created || p != 0,
                                          vdone := if o.sk = 1 ∧ (o.dk = 3 ∨ o.dk = 4) then max x.vdone (s.cyc c + 48) else x.vdone })
  let put (s : State) (f : Chain → Chain) : State := s.modChain c w f
  let drop (h : Chain) : Chain := { h with ops := h.ops.filter (fun q => !(q.rd == o.rd && q.ent == o.ent && q.da == o.da && !q.got)) }
  match o.dk with
  | 4 => put s (fun h => (drop h).fill (slotTo s c) o v p rdy)
  | 3 =>
    let s := put s drop
    if p = 0 then { s with hostMem := wrBytes s.hostMem o.da v o.n }
    else s.poisonMet c (ownerOf (s.core c).own 6) (poisonTrap (s.core c) (w64 (2 ^ 60 + o.da)) 6)
  | _ => put s (fun h => { h with ops := h.ops.map (fun q =>
      if q.rd == o.rd && q.ent == o.ent && q.da == o.da && !q.got then
        { q with got := true, data := BitVec.ofNat 2048 v, pois := BitVec.ofNat 64 p } else q) })

/-! ### Making beats and lines -/

/-- The beats and lines that the present cycle settles: a scratchpad or host beat two cycles before its read, a vault source line in
its port cycle, a vault destination line four cycles before its port cycle; and the fetch that follows a last vault line or
window beat due in the next cycle (R109). -/
def xGen (c w : Nat) (s : State) : State :=
  let x := s.core c
  let h := x.chain w
  let t := s.cyc c
  match h.cur with
  | none => s
  | some u =>
    let past (rd : Nat) : Bool := match h.cut with | some m => decide (m < rd) | none => false
    let room : Bool := u.dk != 4 || decide (h.held + (u.op 0 0).slots ≤ 64)
    let put (s : State) (h : Chain) : State := s.modCore c (fun x => x.setChain w h)
    let ahead (s : State) : State := s.modChain c w (fun h => match h.cur with
      | some u => if (u.sk = 2 ∨ u.sk = 1) ∧ u.dk ≠ 1 ∧ u.last ∧ u.at_ = t + 1 ∧ h.cut.isNone then { h with fetchAt := some (t + 2) } else h
      | none => h)
    if u.sk = 2 then ahead s
    else if u.dk = 1 then
      let p := xPort s c (max u.at_ (t + 4)) u.line
      if t + 4 < p then put s { h with cur := some { u with at_ := p } }
      else if past (p - 2) then put s h.dropCur
      else
        let o := u.op (p - 2) p
        let h := h.push u o 0 (p + 1)
        let s := s.modCore c (fun x => { x with vport := x.vport ++ [(p, vaultBank u.line, 4)] })
        put s { h with cur := h.cur.map (fun v => { v with at_ := xPort s c (p + 1) v.line }) }
    else if u.sk = 1 then
      if past t then put s h.dropCur
      else if t < u.at_ then ahead s
      else if !xPortOwned x then xFault c w true (ownershipTrap (xCode w)) s
      else if !room || !xPortOk s c t u.line then
        -- the line and the fetch after it move on (R109)
        let h := { h with cur := some { u with at_ := t + 1 }, fetchAt := none }
        ahead (put (s.modCore c (fun x => { x with schA := x.schA.filter (fun e => e.seq != h.fetchSeq || h.fetchSeq == 0) })) { h with fetchSeq := 0 })
      else
        let o := u.op t (t + 48)
        let h := h.push u o 0 (t + 1)
        let s := s.modCore c (fun x => { x with vport := x.vport ++ [(t, vaultBank u.line, 4)] })
        let s := put s { h with cur := h.cur.map (fun v => { v with at_ := xPort s c (t + 1) v.line }) }
        let (s, v, p) := xRead s c o
        ahead (xGot c w o v p (t + 48) s)
    else if past (t + 2) then put s h.dropCur
    else if u.at_ ≤ t + 2 ∧ room then put s (h.push u (u.op (t + 2) (t + 4)) (t + 3) (t + 3))
    else s

/-- Whether a VL window read of the present cycle uses the vector path (R83). -/
def vlPath (x : Core) (t : Nat) : Bool :=
  x.brushes.any (fun y => y.flights.any (fun f =>
    !f.vsp && f.t == t && (f.code == 0x3B0 || f.code == 0x3B4 || f.code == 0x3B6) && inR 0x800000000 0xFFFFFFFFF f.d.toNat))

/-- The window beat of the present cycle, after its bundles: it takes the vector path unless a VL read does; then the beat and the
fetch after it move on (R83, R109). Bound for the vault it is a line's bytes, and the line takes its port cycle from 12 cycles later
(log 35). -/
def xWindow (c w : Nat) (s : State) : State :=
  let x := s.core c
  let h := x.chain w
  let t := s.cyc c
  match h.cur with
  | none => s
  | some u =>
    let room : Bool := u.dk != 4 || decide (h.held + (u.op 0 0).slots ≤ 64)
    if u.sk ≠ 2 ∨ t < u.at_ then s
    else if (match h.cut with | some m => decide (m < t) | none => false) then s.setCore c (x.setChain w h.dropCur)
    else if vlPath x t || !room then
      let x := { x with schA := x.schA.filter (fun e => e.seq != h.fetchSeq || h.fetchSeq == 0) }
      s.setCore c (x.setChain w { h with cur := some { u with at_ := t + 1 }, fetchAt := none, fetchSeq := 0 })
    else
      let last := h.ops.foldl (fun m o => if o.ent = u.ent ∧ o.dk = 1 then max m o.wr else m) 0
      let wr := if u.dk = 1 then xPort s c (max (t + 12) (last + 1)) u.line else t + 12
      let o := u.op t wr
      let s := s.modCore c (fun x => { x.setChain w (h.push u o (t + 1) (if u.dk = 1 then wr + 1 else t + 1)) with
        vport := x.vport ++ if u.dk = 1 then [(wr, vaultBank u.line, 4)] else [] })
      xGot c w o (windowBytes u.desc (fun i => u.rot.getD i 0) o.sa o.n) (if u.bad then XOp.laneMask o.n else 0) (t + 12) s

/-! ### Requests of the exchange engine for bank cycle `cyc` -/

/-- The local address of a physical one. -/
def xLocal (x : Core) (h : Chain) (a : Nat) : Nat := if h.sysp then a else a - SEGSP_BASE x * 64

/-- Physical address of an entry, or the trap of its fetch (R45). -/
def xEntryAddr (s : State) (c w : Nat) : Except Trap Nat :=
  let h := (s.core c).chain w
  match checkAddrAs s c h.sysp .xe false (w64 h.ptr) 32 (xCode w) with
  | .ok (.scratch, p) => .ok p
  | .ok _ => .error (segTrap (w64 h.ptr) 32 (xCode w) 5)
  | .error t => .error t

/-- Keys: chain · 4 + 0 a fetch, 1 the read and 2 the write of a beat, 3 a flag; and the beat's or effect's place. -/
def xReqs (s : State) (c w cyc seq : Nat) : List EReq :=
  let x := s.core c
  let h := x.chain w
  let b := xWho x w
  let one (k n a len : Nat) (wr : Bool) (q : Nat) : EReq :=
    ⟨engUses cyc [(a, len)] wr 0x07 (xCode w) (xLocal x h a) b q, (4 * w + k, n)⟩
  let fetch : List EReq := if h.fetchAt = some cyc ∧ h.fetchSeq = 0 then
      (match xEntryAddr s c w with | .ok a => [one 0 0 a 32 false (seq + 1)] | .error _ => []) else []
  let ops := (List.range h.ops.length).flatMap (fun n => match h.ops[n]? with
    | some o => (if o.sk = 0 ∧ o.rd = cyc ∧ !o.got then [one 1 n o.sa o.n false (seq + 2 + 2 * n)] else [])
        ++ (if o.dk = 0 ∧ o.wr = cyc then [one 2 n o.da o.n true (seq + 3 + 2 * n)] else [])
    | none => [])
  let m := seq + 2 + 2 * h.ops.length
  let effs := (List.range h.effs.length).flatMap (fun n => match h.effs[n]? with
    | some e => (match e.k with | .flag a _ => if e.at_ = cyc then [one 3 n a 8 true (m + n)] else [] | _ => [])
    | none => [])
  fetch ++ ops ++ effs

/-- Record what judging gave: the fetch's place in the schedule, a refusal and its trap (R53, R109, R112). -/
def xJudged (c w : Nat) (j : EReq × Option (BankE × BankE)) (s : State) : State :=
  let x := s.core c
  let n := j.1.key.2
  let k := j.1.key.1 % 4
  let bad := j.2.isSome
  let s := s.modChain c w (fun h => match k with
    | 0 => { h with fetchSeq := (j.1.uses.headD ⟨0, 0, 0, false, 0, 0, 0, 0, 0⟩).seq, fetchBad := bad }
    | 1 => { h with ops := h.ops.modify n (fun o => { o with rdBad := bad }) }
    | 2 => { h with ops := h.ops.modify n (fun o => { o with wrBad := bad }) }
    | _ => { h with effs := h.effs.modify n (fun e => { e with bad := bad }) })
  match j.2 with
  | none => s
  | some (e, f) => s.markTrap c (xWho x w) (conflictTrap false (e.cyc - x.k0) e f)

/-! ### Engine entries that follow a bundle of their cycle (R52) -/

/-- Refuse the access of entry `g`, made earlier in the present cycle, that a later engine entry `e` of the cycle meets (R52, R53). -/
def engRefuse (c : Nat) (g e : BankE) (s : State) : State :=
  let x := s.core c
  let names (a n : Nat) : Bool := (granules a n).contains g.gran
  let t := conflictTrap false (g.cyc - x.k0) g e
  if g.req = 0x0A then
    s.setCore c { x with landing := x.landing.map (fun l =>
      if l.w = g.cyc ∧ l.ent ∧ names (l.slot.places.headD (false, 0)).2 l.slot.n then { l with bad := l.bad.orElse (fun _ => some g.bank) } else l) }
  else if g.req = 6 then
    let mark (q : MtCmd) : MtCmd := q.refuseAt g.cyc g.gran g.wr
    (s.setCore c { x with mtRun := x.mtRun.map mark, mtq := x.mtq.map mark }).markTrap c (ownerOf x.own 5) t
  else
    let w := if g.code = xCode 0 then 0 else 1
    (s.modChain c w (fun h =>
      if h.fetchSeq = g.seq ∧ g.seq ≠ 0 then { h with fetchBad := true }
      else { h with
        ops := h.ops.map (fun o =>
          if ¬ g.wr ∧ o.sk = 0 ∧ o.rd = g.cyc ∧ ¬ o.got ∧ names o.sa o.n then { o with rdBad := true }
          else if g.wr ∧ o.dk = 0 ∧ o.wr = g.cyc ∧ names o.da o.n then { o with wrBad := true } else o),
        effs := h.effs.map (fun f => match f.k with
          | .flag a _ => if g.wr ∧ f.at_ = g.cyc ∧ names a 8 then { f with bad := true } else f
          | _ => f) })).markTrap c (xWho x w) t

/-- Judge engine entries that follow a bundle of the present cycle: they meet those made before the bundles too, refused ones among them,
and of two that meet both are refused (R52). -/
def judgeLate (c : Nat) (rs : List EReq) (s : State) : List (EReq × Option (BankE × BankE)) × State :=
  let x := s.core c
  let t := s.cyc c
  let js := judge (x.schA ++ x.shadow) rs
  let uses := rs.flatMap (fun r => r.uses)
  let met := x.schA.filter (fun g => g.enteredIn t && uses.any (fun e => e.meets g))
  let hit (g : BankE) : Bool := met.any g.sameAccess
  let again := x.shadow.filter (fun g => x.shadow.any (fun f => f.sameAccess g && uses.any (fun e => e.meets f)))
  let s := s.setCore c (enterJudged js { x with schA := x.schA.filter (fun g => !hit g), shadow := x.shadow ++ x.schA.filter hit ++ again })
  let firsts := met.foldl (fun (l : List BankE) g => if l.any g.sameAccess then l else l ++ [g]) []
  (js, firsts.foldl (fun s g => engRefuse c g ((uses.find? (fun e => e.meets g)).getD g) s) s)

/-- A fetch that a moved beat puts in the next cycle but one, entered after this cycle's bundles. -/
def xLateFetch (c w : Nat) (s : State) : State :=
  let x := s.core c
  let t := s.cyc c
  let h := x.chain w
  match h.cur with
  | some u =>
    if u.sk = 2 ∧ u.dk ≠ 1 ∧ u.last ∧ u.at_ = t + 1 ∧ h.cut.isNone ∧ h.fetchAt.isNone then
      let s := s.modChain c w (fun h => { h with fetchAt := some (t + 2), fetchSeq := 0 })
      let n := (s.core c).seq
      let (js, s) := judgeLate c ((xReqs s c w (t + 2) n).filter (fun r => r.key.1 % 4 == 0)) s
      js.foldl (fun s j => xJudged c w j s) (s.modCore c (fun x => { x with seq := n + 2 }))
    else s
  | none => s

/-! ### Handling an entry in the cycle of its fetch (R106, R109, R110, R210) -/

/-- Whether the present exchange phase closes a checkpoint interval (R344, R347). -/
def State.closing (s : State) (c : Nat) : Bool :=
  match s.sittingOf c with
  | none => true
  | some z => z.ckpt == 0 || z.ckForce || ((s.phaseN c).toNat + 1) % z.ckpt == 0

/-- The core and address a local address names in a chain's context; a window by its own address. -/
def xEnd (s : State) (c w : Nat) (wr : Bool) (a n : Nat) : Except Trap (Nat × Nat) :=
  let h := (s.core c).chain w
  match checkAddrAs s c h.sysp .xe wr (w64 a) n (xCode w) with
  | .error t => .error (if t.code = 0x0A then { t with d0 := w64 h.addr } else t)
  | .ok (.scratch, p) => .ok (0, p)
  | .ok (.vault, p) => .ok (1, p)
  | .ok (.window, p) => .ok (2, p)
  | .ok _ => .error (segTrap (w64 h.addr) n (xCode w) 5)

/-- The cores of an mcast's rectangle (R116). -/
def XEnt.rect (e : XEnt) : List Nat :=
  let c0 := e.d3 % 32
  let nc := e.d3 / 2 ^ 5 % 32 + 1
  let r0 := e.d3 / 2 ^ 10 % 32
  let nr := e.d3 / 2 ^ 15 % 32 + 1
  (List.range nr).flatMap (fun r => (List.range nc).map (fun k => 32 * (r0 + r) + c0 + k))

/-- The slot an entry's pieces are copies of. -/
def xSlot (s : State) (c : Nat) (e : XEnt) : Slot :=
  { kind := if e.kind = 4 then 1 else 0, src := s.devOf c * 1024 + c, dsts := if e.kind = 3 then e.rect else [], dev := if e.kind = 3 then e.d3 / 2 ^ 20 % 2 ^ 12 else 0,
    places := [], loc := 0, n := 0, land := e.land, tag := (s.phaseN c).toNat % 4,
    op := e.ksp % 4, ty := e.ksp / 2 ^ 8, data := 0, pois := 0, before := 0, mcast := e.kind == 3, marks := [], ready := 0, inj := 0, out := false, drained := false }

/-- Bytes sent to a core before a flag (R110), by device and core. -/
def Chain.addSent (h : Chain) (key n : Nat) : Chain :=
  { h with sent := mput h.sent key (mget 0 h.sent key + n) }

/-- The bytes an entry touches over `k` iterations: from the lowest to past the highest. -/
def bound (a k : Nat) (inc : Int) (rows : Nat) (str : Int) (len : Nat) : Option (Nat × Nat) :=
  let i : Int := ((k - 1 : Nat) : Int) * inc
  let r : Int := ((rows - 1 : Nat) : Int) * str
  let lo : Int := a + min 0 i + min 0 r
  let hi : Int := a + max 0 i + max 0 r + len
  if lo < 0 ∨ 2 ^ 64 < hi then none else some (lo.toNat, hi.toNat)

/-- What a local range of rows names, checked from its first to its last byte (R25, R39, R45), with the address of its first row. -/
def xRange (s : State) (c w : Nat) (wr : Bool) (a rows : Nat) (str : Int) (len : Nat) : Except Trap (Nat × Nat) :=
  match bound a 1 0 rows str len with
  | none => .error (segTrap (w64 ((s.core c).chain w).addr) len (xCode w) 2)
  | some (lo, hi) => match xEnd s c w wr lo (hi - lo) with
    | .error t => .error t
    | .ok (k, p) => .ok (k, p + (a - lo))

/-- Begin to move a copy, cp2d, mcast or red entry: both ranges are checked before any byte moves (R45). -/
def xMove (c w : Nat) (e : XEnt) (s : State) : Except (Trap × Bool) State :=
  let x := s.core c
  let h := x.chain w
  let f := s.cyc c
  let code := xCode w
  let it := match h.loop with | some l => l.iter | none => 0
  let src := addInt e.d1 (it * e.sinc)
  let dst := addInt e.d2 (it * e.dinc)
  let rows : List Nat := List.range e.rows
  let lift {α : Type} (r : Except Trap α) : Except (Trap × Bool) α := match r with | .ok a => .ok a | .error t => .error (t, false)
  do
    let hostS := e.sg && gSpace src == 1
    let (sk, sa) ← if hostS then pure (3, src % 2 ^ 48) else lift (xRange s c w false (if e.sg then gLocal src else src) e.rows e.sstr e.len)
    let (dk, da) ← if e.kind = 3 then pure (4, dst) else if e.dg then pure (if gSpace dst = 1 then (3, dst % 2 ^ 48) else (4, dst))
      else lift (xRange s c w true dst e.rows e.dstr e.len)
    if e.kind = 4 ∧ !e.aligned it then .error (⟨0x02, w64 h.addr, 4, 0, 2, false, 0⟩, false)
    let wn := windowOf sa
    let (desc, rot) := if sk = 2 then x.descAt wn f else (0, fun _ => 0)
    if sk = 2 then
      match rows.findSome? (fun (r : Nat) => windowTrap desc (sa + r * e.sstr).toNat e.len code) with
      | some t => .error (t, false)
      | none => pure ()
    if sk = 1 ∧ dk = 1 then .error (segTrap (w64 h.addr) e.len code 8, false)
    let h := { h with serial := h.serial + 1, live := h.live ++ [h.serial + 1] }
    let s := if sk = 2 then s.descTouch c wn else s
    if dk = 3 ∧ !s.closing c then
      -- a host write outside a closing exchange phase sends nothing (R347)
      .ok (s.modCore c (fun x => (x.xfault 10 e.land (w64 h.addr)).setChain w { h.past 0 with fetchAt := some (f + 3), fetchSeq := 0 }))
    else
      let u : XCur := { sk := sk, src := sa, dk := dk, dst := da, len := e.len, rows := e.rows, sstr := e.sstr, dstr := e.dstr, land := e.land,
                        sto := if dk = 4 then some (xSlot s c e) else none, ent := h.serial, row := 0, off := 0, at_ := f + 3, desc := desc,
                        rot := if sk = 2 ∧ dKind desc = 3 then (List.range 128).map rot else [], bad := sk == 2 && mget 0 x.ecc (descKey wn) == 2 }
      let u := if sk = 2 then u else if dk = 1 then { u with at_ := xPort s c (f + 5) u.line } else if sk = 1 then { u with at_ := xPort s c (f + 3) u.line } else u
      let keys := if e.kind = 3 then e.rect.map (fun k => (e.d3 / 2 ^ 20 % 2 ^ 12) * 1024 + k) else if dk = 4 then
          rows.map (fun (r : Nat) => let g := addInt dst (r * e.dstr); gDev g * 1024 + gCore g) else []
      let h := keys.foldl (fun h k => h.addSent k e.len) { h.past 0 with cur := some u, fetchAt := none, fetchSeq := 0 }
      .ok (s.modCore c (fun x => x.setChain w h))

/-- Handle the entry fetched in the present cycle, or its trap, and whether the XE's owner takes it. -/
def xHandle (c w : Nat) (e : XEnt) (s : State) : Except (Trap × Bool) State :=
  let x := s.core c
  let h0 := x.chain w
  let f := s.cyc c
  let a := w64 h0.ptr
  let s := s.modChain c w (fun h => { h with addr := h.ptr })
  let h := (s.core c).chain w
  let ill (r : Nat) : Trap × Bool := (⟨0x02, a, w64 r, 0, 2, false, 0⟩, false)
  if w = 0 ∧ (e.sg ∨ e.dg ∨ inR 3 5 e.kind) then .error (mkTrap 0x0D a (w64 e.kind) 0, false)
  else if !e.ok then .error (ill 4)
  else
    let k := h.serial + 1
    let h := { h with serial := k, live := h.live ++ [k] }
    let step (h : Chain) : Chain := { h with fetchAt := some (f + 3), fetchSeq := 0 }
    let at_ := max (h.lastW + 1) (f + 3)
    let eff (h : Chain) (z : XKind) : Chain := { h with
      effs := h.effs ++ [⟨at_, z, k, false⟩], lastW := match z with | .flag _ _ => at_ | _ => h.lastW }
    let put (h : Chain) : Except (Trap × Bool) State := .ok (s.modCore c (fun x => x.setChain w h))
    let it := match h.loop with | some l => l.iter | none => 0
    match e.kind with
    | 0 => put { h with ended := true, fetchAt := none }
    | 5 => .ok (s.modCore c (fun x =>
        let l := mget Land.reset x.lands e.land
        { x with lands := mput x.lands e.land { l with target := some (BitVec.ofNat 32 (e.len * e.ksp)) } }.setChain w (step (h.past 0))))
    | 6 =>
      let dst := addInt e.d2 (it * e.dinc)
      if !e.aligned it then .error (ill 4)
      else if e.dg then
        let key := gDev dst * 1024 + gCore dst
        let sl : Slot := { xSlot s c e with kind := 2, dsts := [gCore dst], dev := gDev dst, n := 8, land := 0,
                                            places := [slotTo s c (gDev dst) (gCore dst) (gLocal dst) 8], loc := gLocal dst,
                                            data := BitVec.ofNat 1024 e.d1, before := mget 0 h.sent key }
        put (step (eff (h.past 0) (.slot sl)))
      else
        match xEnd s c w true dst 8 with
        | .error t => .error (t, false)
        | .ok (0, p) => put (step (eff (h.past 0) (.flag p (w64 e.d1))))
        | .ok _ => .error (segTrap a 8 (xCode w) 5, false)
    | 7 =>
      if h.loop.isSome then .error (ill 3)
      else if e.len = 0 then put (step { h with ptr := h.addr + 32 * (e.ksp + 1) })
      else put (step { h with ptr := h.addr + 32, loop := some ⟨h.addr + 32, e.ksp, e.len, 0, e.ksp⟩ })
    | 8 =>
      let bit := h.snap.getLsbD (e.ksp / 2 ^ 8 % 128) != decide (2 ^ 15 ≤ e.ksp)
      put (step (h.past (if bit then 0 else e.ksp % 16)))
    | 9 => put (step (eff (h.past 0) (.sem e.ksp)))
    | _ => xMove c w e s

/-- XE_ENTRY_FETCH in the present cycle: a refused fetch stops the chain, a poisoned entry is consumed (R342, log 33). -/
def xFetch (c w : Nat) (s : State) : State :=
  let h := (s.core c).chain w
  if h.fetchAt ≠ some (s.cyc c) then s
  else if h.cut.isSome then
    -- an aborted chain reads the entry and does not handle it (R295)
    match xEntryAddr s c w with
    | .ok p => (s.eccTouch c false p 32).modChain c w (fun h => { h with fetchAt := none })
    | .error _ => s.modChain c w (fun h => { h with fetchAt := none })
  else
    match xEntryAddr s c w with
    | .error t => xFault c w false { t with d0 := w64 h.ptr } (s.modChain c w (fun h => { h with addr := h.ptr }))
    | .ok p =>
      if h.fetchBad then xStop c w (s.modChain c w (fun h => { h with addr := h.ptr }))
      else
        let s := s.eccTouch c false p 32
        let (v, bad) := (s.core c).rdScratch p 32
        let s := s.modChain c w (fun h => { h with fetchAt := none })
        if bad ≠ 0 then
          let b := xWho (s.core c) w
          let t := poisonTrap (s.core c) (w64 h.ptr) 1
          let s := xStop c w (s.modChain c w (fun h => { h with addr := h.ptr }))
          -- a trap that is marked records the consumption when it is taken
          (if (s.sittingOf c).any (fun z => z.ckpt != 0) then s.consumed c (w64 (s.brush c b).pc) b (xCode w) else s).poisonMet c b t
        else
          match xHandle c w (XEnt.ofNat v) s with
          | .ok s => s
          | .error (t, owner) => xFault c w owner t (s.modChain c w (fun h => { h with addr := h.ptr }))

def execXeEntryFetch (s : State) : Out := .next (xFetch s.here 1 (xFetch s.here 0 s))

/-- The reads of cycle `t`: beats from the scratchpad and the host. -/
def xReads (c w t : Nat) (s : State) : State :=
  ((s.core c).chain w).ops.foldl (fun s o =>
    if o.rd = t ∧ !o.got then
      let (s, v, p) := xRead s c o
      xGot c w o v p t s
    else s) s

/-- A line of an entry meets a vault port that the XE does not own: the chain stops, and the rest of the entry is not made (R109). -/
def xNotOwned (c w t ent : Nat) (s : State) : State :=
  (xFault c w true (ownershipTrap (xCode w)) s).modChain c w (fun h =>
    { h with ops := h.ops.filter (fun o => !(o.ent == ent && o.dk == 1 && decide (t ≤ o.wr))), live := h.live.filter (fun k => k != ent) })

/-- The writes of cycle `t` through port A, and the lines that take or leave the vault port (R109, R112). -/
def xWrites (c w t : Nat) (s : State) : State :=
  let s := match ((s.core c).chain w).ops.find? (fun o => o.wr == t && o.dk == 1) with
    | some o => if xPortOwned (s.core c) then s else xNotOwned c w t o.ent s
    | none => s
  let s := ((s.core c).chain w).ops.foldl (fun s o =>
    if o.wr ≠ t then s
    else if o.dk = 0 then
      s.modCore c (fun x => (if o.wrBad then x else x.wrScratch o.da o.n o.data.toNat o.pois.toNat).landBytes o.land o.n none)
    else if o.dk = 1 then
      s.modCore c (fun x => { x with vpend := x.vpend ++ [⟨t + 24, 4, o.da, o.n, o.data, o.pois, some ⟨o.land, none, 0, none, 0, 0⟩, 0⟩] })
    else s) s
  let s := ((s.core c).chain w).effs.foldl (fun s e =>
    match e.k with
    | .flag a v => if e.at_ = t ∧ !e.bad then s.modCore c (fun x => x.wrScratch a 8 v.toNat 0) else s
    | _ => s) s
  s.modChain c w (fun h => { h with
    ops := (h.ops.filter (fun o => !(o.wr == t && (o.dk == 0 || o.dk == 5)))).map (fun o => if o.wr = t ∧ o.dk = 1 then { o with dk := 5, wr := t + 24 } else o),
    effs := h.effs.filter (fun e => match e.k with | .flag _ _ => e.at_ != t | _ => true) })

/-- XE_FLAG_SEM_EFFECT: semaphores and flag slots of cycle `t` (R110); a flag slot with no room among the 64 waits for it (R109). -/
def xEffects (c w t : Nat) (s : State) : State :=
  let s := ((s.core c).chain w).effs.foldl (fun s e =>
    if e.at_ ≠ t then s
    else match e.k with
      | .sem n => s.modCore c (fun x => if mget 0 x.sems n = 0xFFFF then x.xfault 9 0 0 else x.semInc n)
      | .slot z => s.modChain c w (fun h => if 64 < h.held then { h with effs := h.effs.map (fun f => if f = e then { f with at_ := t + 1 } else f) }
          else { h with ready := h.ready ++ [{ z with ready := t }], effs := h.effs.erase e })
      | _ => s) s
  s.modChain c w (fun h => { h with effs := h.effs.filter (fun e => match e.k with | .sem _ => e.at_ != t | _ => true) })
def execXeFlagSemEffect (s : State) : Out :=
  let c := s.here
  let t := s.cyc c
  -- of a frozen sitting what an ended exchange chain still has to send goes on (R171)
  .next (xEffects c 1 t (if s.frozen c then s else xEffects c 0 t s))

/-- The end of a cycle: entries complete, and a chain past its end with nothing left runs no more (R295, R296; log 34). -/
def xSettle (h : Chain) : Chain :=
  let busy (k : Nat) : Bool := h.cur.any (fun u => u.ent == k) || h.ops.any (fun o => o.ent == k) || h.effs.any (fun e => e.ent == k)
  let n := (h.live.filter (fun k => !busy k)).length
  let h := { h with live := h.live.filter busy, done := h.done + BitVec.ofNat 8 n }
  let drained : Bool := h.cur.isNone && h.fetchAt.isNone && h.ops.isEmpty && h.effs.isEmpty && h.ready.isEmpty
  if h.run ∧ drained ∧ (h.ended ∨ h.cut.isSome) then { h with run := false, ended := true } else h

/-! ### The triggers (R292 to R296) -/

/-- The latest write cycle of the scratchpad writes a brush issued before a bundle, whose sequence numbers go up to `n`, and that are not
written by the end of cycle `t` (R109). -/
def pendingWrite (x : Core) (b n t : Nat) : Nat :=
  let fs := (x.brush b).flights.filter (fun f => decide (f.seq ≤ n))
  let m := fs.foldl (fun m f =>
    let m := if f.store then f.pieces.foldl (fun m q => if q.sp = .scratch then max m q.cyc else m) m else m
    f.slots.foldl (fun m e => max m (e.1 + 2)) m) 0
  let m := (x.rmwW.filter (fun w => w.brush = b)).foldl (fun m w => max m w.cyc) m
  if t < m then m else 0

/-- xgo (R293): the first fetch of a chain with no write pending enters the schedule with its bundle, ahead of brush accesses of the
cycle (R52). -/
def trigXgo : SOp := fun i d s => do
  needClean s i.c d 1 i.code
  let x := s.core i.c
  let t := s.cyc i.c
  if d.v.toNat % 32 ≠ 0 ∨ Config.scratchBytes ≤ d.v.toNat then .error (segTrap d.v 32 i.code 14) else
  if x.lc.run then .error (badOp i.code 27) else
  let y := x.brush i.b
  let f := max (t + 2) (pendingWrite x i.b i.seq t + 1)
  let h : Chain := { Chain.reset with run := true, ptr := d.v.toNat, addr := d.v.toNat, fetchAt := some f, snap := i.snap, brush := i.b, sysp := y.sys }
  let s := s.setCore i.c { x with lc := h }
  if f ≠ t + 2 then pure s else
  let x := s.core i.c
  let rs := xReqs s i.c 0 f x.seq
  let own := x.schA.filter (fun g => (x.brush i.b).flights.any (fun z => z.seq == g.seq && z.t == t))
  match (judge own rs).findSome? (fun j => j.2) with
  | some (e, g) => .error (conflictTrap false (e.cyc - x.k0) g e)
  | none =>
    let (js, s) := judgeLate i.c rs s
    pure (js.foldl (fun s j => xJudged i.c 0 j s) (s.modCore i.c (fun z => { z with seq := x.seq + 4 })))

/-- xarm (R294): the first entry of a walked chain. -/
def trigXarm : SOp := fun i d s => do
  needClean s i.c d 1 i.code
  let x := s.core i.c
  if !x.walked.contains d.v.toNat then .error (segTrap d.v 32 i.code 17) else
  pure (s.setCore i.c { x with armed := some (d.v.toNat, i.snap) })

/-- What xst returns (R296). -/
def xStatus (x : Core) (sel : Nat) : Word :=
  match sel with
  | 0 => w64 (x.lc.addr % 2 ^ 36 + (if x.lc.run then 2 ^ 40 else 0) + (if x.armed.isSome then 2 ^ 41 else 0)
      + (if x.lc.stop then 2 ^ 42 else 0) + x.lc.done.toNat * 2 ^ 48)
  | 1 => match x.armed with | some (a, _) => w64 a | none => 0
  | 2 => match x.armed with | some (_, p) => p.setWidth 64 | none => 0
  | _ => match x.armed with | some (_, p) => p.extractLsb' 64 64 | none => 0

/-- xst (R296): XE.y from t + 2; the state is taken at the end of cycle t, by `statusResults`. -/
def trigXst : SOp := fun i d s =>
  if 3 < d.v.toNat then .error (badOp i.code 22)
  else addFlight i.c i.b (Flight.done i.b i.code false (s.cyc i.c) (s.cyc i.c + 2) (some (.ss 0)) d.v (scVc ⟨d.v, false⟩) 0) s

/-- Abort of the running local chain (R295): scratchpad reads and vault lines up to t + 2 are performed with what carries their bytes; an
entry whose fetch is due by then is read and not handled. A chain being aborted already is left as it is (log 34). -/
def xAbort (c t : Nat) (s : State) : State :=
  let x := s.core c
  let h := x.lc
  if !h.run ∨ h.cut.isSome then s
  else
    let late := h.effs.filter (fun e => decide (t < e.at_))
    let flags := late.filterMap (fun e => match e.k with | .flag a _ => some (a / 64, e.at_) | _ => none)
    let fetch := match h.fetchAt with | some f => decide (f ≤ t + 2) | none => false
    let sch := x.schA.filter (fun e => !(e.req == 0x07 && decide (t < e.cyc) && ((e.seq == h.fetchSeq && h.fetchSeq != 0 && !fetch)
      || flags.contains (e.gran, e.cyc))))
    let h := if h.cur.any (fun u => u.dk != 1 && decide (u.at_ ≤ t + 2)) then h else h.dropCur
    let h := { h with stop := true, cut := some (t + 2), fetchAt := if fetch then h.fetchAt else none,
                      effs := h.effs.filter (fun e => decide (e.at_ ≤ t)), live := h.live.filter (fun k => !late.any (fun e => e.ent == k)) }
    s.setCore c { x with schA := sch, lc := h }

def xab : SOp := fun i d s =>
  if 2 ≤ d.v.toNat then .error (badOp i.code 22)
  else if d.v = 1 then .ok (s.modCore i.c (fun x => { x with armed := none }))
  else .ok (xAbort i.c (s.cyc i.c) s)
/-- xab with bit 0 clear aborts, with bit 0 set disarms (R295; log 5). -/
def trigXabAbort : SOp := xab
def trigXabDisarm : SOp := xab

def execXgo (m : Trig) (s : State) : Out := issueS 0x3C0 trigXgo m s
def execXarm (m : Trig) (s : State) : Out := issueS 0x3C1 trigXarm m s
def execXst (m : Trig) (s : State) : Out := issueS 0x3C2 trigXst m s
def execXabAbort (m : Trig) (s : State) : Out := issueS 0x3C3 trigXabAbort m s
def execXabDisarm (m : Trig) (s : State) : Out := issueS 0x3C3 trigXabDisarm m s

end Sys2Proof.Machine
end

