-- ==== Sys2Proof/Machine/System.lean ====
section
/-! DEFINITION. System operations (15 R303 to R307) and saved contexts (16 R322 to R324): the slot's layout stands once, as a list of
fields that saving reads and restoring writes. -/
namespace Sys2Proof.Machine

/-! ### A saved context (R323; log 11 for parts without a layout) -/

/-- A field of a slot: its offset, its bytes, its value in a core, the core with a value in it; the lanes it is saved poisoned in, and the
core where the slot's data is poisoned in the lanes of a mask (R77, R304). -/
structure CtxF where
  off : Nat
  n : Nat
  get : Core → Nat
  set : Nat → Core → Core
  bad : Core → Nat
  poison : Nat → Core → Core

/-- A field without data that a mark stands for. -/
def ctxF (off n : Nat) (get : Core → Nat) (set : Nat → Core → Core) : CtxF := ⟨off, n, get, set, fun _ => 0, fun _ x => x⟩
/-- A field of data with its marks. -/
def ctxP (off n : Nat) (get : Core → Nat) (set : Nat → Core → Core) (poison : Nat → Core → Core) : CtxF := ⟨off, n, get, set, fun _ => 0, poison⟩

def ctxLat (o b l : Nat) : CtxF :=
  ctxP o 8 (fun x => (mget Sc.zero (x.brush b).lat l).v.toNat)
   (fun v x => x.modBrush b (fun y => { y with lat := mput y.lat l { mget Sc.zero y.lat l with v := w64 v } }))
   (fun _ x => x.modBrush b (fun y => { y with lat := mput y.lat l { mget Sc.zero y.lat l with p := true } }))

/-- The bits of a list of marks, and the marks of bits. -/
def bitsFrom (n : Nat) (f : Nat → Bool) : Nat := (List.range n).foldl (fun a i => if f i then a + 2 ^ i else a) 0

def loopWord (l : List LoopE) (i : Nat) : Nat :=
  match l[i]? with | some e => e.start % 2 ^ 14 + e.last % 2 ^ 14 * 2 ^ 14 + e.rem * 2 ^ 28 + 2 ^ 63 | none => 0
def loopOf (v : Nat) : List LoopE := if v < 2 ^ 63 then [] else [⟨v % 2 ^ 14, v / 2 ^ 14 % 2 ^ 14, v / 2 ^ 28 % 2 ^ 32⟩]

/-- The first pending trap of a brush in four doublewords: code, fate, part and a mark that it stands; the details. -/
def pendWord (y : Brush) (i : Nat) : Nat :=
  match y.pend.head? with
  | none => 0
  | some t => match i with
    | 0 => t.code + t.fate * 2 ^ 16 + (if t.part then 2 ^ 20 else 0) + t.unit * 2 ^ 32 + 2 ^ 63
    | 1 => t.d0.toNat
    | 2 => t.d1.toNat
    | _ => t.d2.toNat
/-- Read one of them back; the four come in order. -/
def setPend (i v : Nat) (y : Brush) : Brush :=
  let mod (f : Trap → Trap) : Brush := { y with pend := y.pend.map f }
  match i with
  | 0 => if v < 2 ^ 63 then y else { y with pend := y.pend ++ [⟨v % 2 ^ 16, 0, 0, 0, v / 2 ^ 16 % 4, decide (v / 2 ^ 20 % 2 = 1), v / 2 ^ 32 % 4096⟩] }
  | 1 => mod (fun t => { t with d0 := w64 v })
  | 2 => mod (fun t => { t with d1 := w64 v })
  | _ => mod (fun t => { t with d2 := w64 v })

/-- PC, state, FLAGS, CHK, TVB, cadence, loop stack and the first pending trap of a brush: twelve doublewords from +0x6A0, which have no
room for further ones (log 11). -/
def ctxMisc (y : Brush) (i : Nat) : Nat :=
  match i with
  | 0 => y.pc % 2 ^ 16 + (match y.run with | .halted => 0 | .running => 1 | .waiting _ => 2 | .parked => 3 | .stopped => 4) * 2 ^ 16
      + y.flags.toNat * 2 ^ 24 + y.chk.toNat * 2 ^ 32 + y.tvb.toNat * 2 ^ 40 + (if y.sys then 2 ^ 63 else 0)
  | 5 => match y.cad with | some z => z.n + (if z.resync then 2 ^ 32 else 0) + (if z.grid.isSome then 2 ^ 33 else 0) + 2 ^ 63 | none => 0
  | 6 => match y.cad with | some z => z.due | none => 0
  | 7 => match y.cad with | some z => z.j | none => 0
  | 8 | 9 | 10 | 11 => pendWord y (i - 8)
  | i => loopWord y.loops (i - 1)

/-- A brush with one of those doublewords; its fields are read in order. A restored cadence is marked for resynchronisation (R148). -/
def setMisc (i v : Nat) (y : Brush) : Brush :=
  match i with
  | 0 => { y with pc := v % 2 ^ 14, flags := BitVec.ofNat 5 (v / 2 ^ 24), chk := BitVec.ofNat 2 (v / 2 ^ 32), tvb := BitVec.ofNat 14 (v / 2 ^ 40),
                  sys := decide (2 ^ 63 ≤ v), loops := [], cad := none, pend := [],
                  run := match v / 2 ^ 16 % 256 with | 0 => .halted | 4 => .stopped | 2 => y.run | _ => .parked }
  | 5 => if v < 2 ^ 63 then y else { y with cad := some ⟨v % 2 ^ 32, 0, 0, true, if v / 2 ^ 33 % 2 = 1 then some 0 else none⟩ }
  | 6 => { y with cad := y.cad.map (fun z => { z with due := v }) }
  | 7 => { y with cad := y.cad.map (fun z => { z with j := v }) }
  | 8 | 9 | 10 | 11 => setPend (i - 8) v y
  | _ => { y with loops := y.loops ++ loopOf v }

/-- The field of a brush. Its scalar registers, predicates, latches, RM vectors carry their marks in masks at +0x900. -/
def ctxBrush (b : Nat) : List CtxF :=
  let o := 0x800 + 0xA00 * b
  let mb (x : Core) (f : Brush → Brush) : Core := x.modBrush b f
  (List.range 64).map (fun i => ctxP (o + 8 * i) 8 (fun x => (readS (x.brush b) i).v.toNat)
      (fun v x => mb x (fun y => writeS y i ⟨w64 v, false⟩)) (fun _ x => mb x (fun y => writeS y i { readS y i with p := true })))
  ++ (List.range 128).map (fun i => ctxP (o + 0x200 + 8 * i) 8 (fun x => if i = 0 then 2 ^ 64 - 1 else (readP (x.brush b) i).v.toNat)
      (fun v x => mb x (fun y => writeP y i ⟨w64 v, false⟩)) (fun _ x => mb x (fun y => writeP y i { readP y i with p := true })))
  ++ (List.range 20).map (fun i => ctxLat (o + 0x600 + 8 * i) b i)
  ++ (List.range 12).map (fun i => ctxF (o + 0x6A0 + 8 * i) 8 (fun x => ctxMisc (x.brush b) i) (fun v x => mb x (setMisc i v)))
  ++ (List.range 2).map (fun i => ctxP (o + 0x700 + 256 * i) 256 (fun x => (mget Vc.zero (x.brush b).vlat i).v.toNat)
      (fun v x => mb x (fun y => { y with vlat := mput y.vlat i ⟨BitVec.ofNat 2048 v, 0⟩ }))
      (fun m x => mb x (fun y => let z := mget Vc.zero y.vlat i; { y with vlat := mput y.vlat i { z with p := z.p ||| BitVec.ofNat 64 m } })))
  ++ [ctxF (o + 0x900) 8 (fun x => bitsFrom 64 (fun i => (readS (x.brush b) i).p))
        (fun v x => mb x (fun y => (List.range 64).foldl (fun y i => if v.testBit i then writeS y i { readS y i with p := true } else y) y)),
      ctxF (o + 0x908) 16 (fun x => bitsFrom 128 (fun i => (readP (x.brush b) i).p))
        (fun v x => mb x (fun y => (List.range 128).foldl (fun y i => if v.testBit i then writeP y i { readP y i with p := true } else y) y)),
      ctxF (o + 0x918) 8 (fun x => bitsFrom 23 (fun i => (mget Sc.zero (x.brush b).lat i).p))
        (fun v x => mb x (fun y => (List.range 23).foldl (fun y i => { y with lat := mput y.lat i { mget Sc.zero y.lat i with p := v.testBit i } }) y))]
  ++ (List.range 2).map (fun i => ctxF (o + 0x920 + 8 * i) 8 (fun x => (mget Vc.zero (x.brush b).vlat i).p.toNat)
      (fun v x => mb x (fun y => { y with vlat := mput y.vlat i { mget Vc.zero y.vlat i with p := w64 v } })))
  ++ (List.range 3).map (fun i => ctxLat (o + 0x930 + 8 * i) b (20 + i))

/-- Shared vector latches of 256 bytes, and those of a word. -/
def bigLats : List Nat := [0, 1, 3, 4, 5, 6, 7, 9, 10, 11, 12, 13, 15, 17, 18, 21, 22, 23, 24, 25, 26]
def smallLats : List Nat := [2, 8, 14, 16, 19, 20]

def ctxUnits : List CtxF :=
  let vl (o n l : Nat) : CtxF := ctxP o n (fun x => (mget Vc.zero x.vlat l).v.toNat)
    (fun v x => { x with vlat := mput x.vlat l { mget Vc.zero x.vlat l with v := BitVec.ofNat 2048 v } })
    (fun m x => let z := mget Vc.zero x.vlat l; { x with vlat := mput x.vlat l { z with p := z.p ||| BitVec.ofNat 64 m } })
  (List.range 21).map (fun i => vl (0x3000 + 256 * i) 256 (bigLats.getD i 0))
  ++ (List.range 6).map (fun i => vl (0x4500 + 8 * i) 8 (smallLats.getD i 0))
  ++ (List.range 27).map (fun i => ctxF (0x4530 + 8 * i) 8 (fun x => (mget Vc.zero x.vlat i).p.toNat)
      (fun v x => { x with vlat := mput x.vlat i { mget Vc.zero x.vlat i with p := w64 v } }))
  ++ (List.range 7).map (fun i => ctxP (0x4608 + 8 * i) 8 (fun x => (mget Sc.zero x.slat i).v.toNat)
      (fun v x => { x with slat := mput x.slat i ⟨w64 v, false⟩ }) (fun _ x => { x with slat := mput x.slat i { mget Sc.zero x.slat i with p := true } }))
  ++ [ctxF 0x4640 8 (fun x => bitsFrom 7 (fun i => (mget Sc.zero x.slat i).p))
      (fun v x => { x with slat := (List.range 7).foldl (fun m i => mput m i { mget Sc.zero m i with p := v.testBit i }) x.slat })]

/-- A ring in 32 bytes: base, slots, size, P, C, and two bits for each slot; what is claimed or taken follows. -/
def ringBytes (r : Ring) : Nat :=
  r.base + r.slots * 2 ^ 64 + r.size * 2 ^ 80 + r.p * 2 ^ 112 + r.c * 2 ^ 120
    + (List.range r.slots).foldl (fun a j => a + r.st.getD j 0 * 4 ^ j) 0 * 2 ^ 128
def ringOf (v : Nat) : Ring :=
  let n := v / 2 ^ 64 % 2 ^ 16
  let p := v / 2 ^ 112 % 2 ^ 8
  let c := v / 2 ^ 120 % 2 ^ 8
  let st := (List.range n).map (fun j => v / 2 ^ 128 / 4 ^ j % 4)
  let back (i k : Nat) : List Nat := (List.range k).map (fun j => (i + n - k + j) % max n 1)
  { base := v % 2 ^ 64, slots := n, size := v / 2 ^ 80 % 2 ^ 32, p := p, c := c, st := st,
    claimed := back p (st.count 1), taken := back c (st.count 3) }

def landBytes32 (l : Land) : Nat :=
  l.count.toNat + (List.range 4).foldl (fun a i => a + (l.arr.getD i 0).toNat * 2 ^ (32 * (i + 1))) 0
    + (match l.target with | some t => t.toNat * 2 ^ 160 + 2 ^ 192 | none => 0)
def landOf (v : Nat) : Land :=
  let w (i : Nat) : BitVec 32 := BitVec.ofNat 32 (v / 2 ^ (32 * i))
  { count := w 0, arr := [w 1, w 2, w 3, w 4], target := if v / 2 ^ 192 % 2 = 1 then some (w 5) else none }

/-- XE status and the armed chain (R296). -/
def ctxXe : List CtxF :=
  [ctxF 0x68 8 (fun x => (xStatus x 0).toNat) (fun v x =>
      { x with lc := { x.lc with addr := v % 2 ^ 36, run := false, ended := true, stop := v.testBit 42, done := BitVec.ofNat 8 (v / 2 ^ 48) },
               armed := if v.testBit 41 then some (0, 0) else none }),
   ctxF 0x70 8 (fun x => match x.armed with | some a => a.1 | none => 0) (fun v x => { x with armed := x.armed.map (fun a => (v, a.2)) }),
   ctxF 0x80 16 (fun x => match x.armed with | some a => a.2.toNat | none => 0)
      (fun v x => { x with armed := x.armed.map (fun a => (a.1, BitVec.ofNat 128 v)) })]

/-- Descriptor `n`, whose words are poisoned where its store is in error, and entry `i` of its table (R94). -/
def ctxDesc (n : Nat) : CtxF :=
  { off := 0x4800 + 0x440 * n, n := 64, get := fun x => (mget 0 x.desc n).toNat, set := fun v x => { x with desc := mset 0 x.desc n (BitVec.ofNat 512 v) },
    bad := fun x => if mget 0 x.ecc (descKey n) = 2 then 2 ^ 16 - 1 else 0, poison := fun _ x => { x with ecc := mput x.ecc (descKey n) 2 } }
def ctxRot (n i : Nat) : CtxF :=
  ctxP (0x4840 + 0x440 * n + 8 * i) 8 (fun x => (mget 0 x.rot (n * 128 + i)).toNat) (fun v x => { x with rot := mset 0 x.rot (n * 128 + i) (w64 v) })
    (fun _ x => { x with ecc := mput x.ecc (descKey n) 2 })

/-- An accumulator's elements, poisoned where a lane of theirs is, and its marks. -/
def ctxAcc (a : Nat) : List CtxF :=
  [ctxP (0x38800 + 4480 * a) 4352 (fun x => (mget Acc.zero x.accs a).v.toNat)
      (fun v x => { x with accs := mset Acc.zero x.accs a ⟨BitVec.ofNat 34816 v, 0⟩ })
      (fun m x => let z := mget Acc.zero x.accs a
        { x with accs := mset Acc.zero x.accs a { z with p := z.p ||| BitVec.ofNat 1024 (bitsFrom 1024 (fun i =>
          m.testBit (34 * i / 32) || m.testBit ((34 * i + 33) / 32))) } }),
   ctxF (0x38800 + 4480 * a + 4352) 128 (fun x => (mget Acc.zero x.accs a).p.toNat)
      (fun v x => { x with accs := mset Acc.zero x.accs a { mget Acc.zero x.accs a with p := BitVec.ofNat 1024 v } })]

/-- The fields of a slot but its header and its live granules. -/
def ctxFields : List CtxF :=
  [ctxF 0x40 8 (fun x => x.own.toNat) (fun v x => { x with own := BitVec.ofNat 21 v }),
   ctxF 0x48 8 (fun x => x.syncm.toNat) (fun v x => { x with syncm := BitVec.ofNat 4 v }),
   ctxF 0x50 8 (fun x => x.segsp.toNat) (fun v x => { x with segsp := w64 v }),
   ctxF 0x58 8 (fun x => x.segvt.toNat) (fun v x => { x with segvt := w64 v }),
   ctxF 0x60 8 (fun x => x.segis.toNat) (fun v x => { x with segis := w64 v })]
  ++ ctxXe
  ++ (List.range 16).map (fun i => ctxF (0xA0 + 2 * i) 2 (fun x => (mget 0 x.sems i).toNat) (fun v x => { x with sems := mput x.sems i (BitVec.ofNat 16 v) }))
  ++ (List.range 8).map (fun i => ctxF (0xC0 + 8 * i) 8 (fun x => (mget 0 x.mxc i).toNat) (fun v x => { x with mxc := mset 0 x.mxc i (w64 v) }))
  ++ (List.range 16).map (fun i => ctxF (0x100 + 32 * i) 32 (fun x => ringBytes (mget Ring.reset x.rings i)) (fun v x => { x with rings := mput x.rings i (ringOf v) }))
  ++ (List.range 32).map (fun i => ctxF (0x300 + 32 * i) 32 (fun x => landBytes32 (mget Land.reset x.lands i)) (fun v x => { x with lands := mput x.lands i (landOf v) }))
  ++ (List.range 4).flatMap ctxBrush
  ++ ctxUnits
  ++ (List.range 8).flatMap (fun n => ctxDesc n :: (List.range 128).map (ctxRot n))
  ++ (List.range 768).map (fun i => ctxP (0x7000 + 256 * i) 256 (fun x => (mget Vc.zero x.v i).v.toNat)
      (fun v x => { x with v := mset Vc.zero x.v i ⟨BitVec.ofNat 2048 v, 0⟩ })
      (fun m x => let z := mget Vc.zero x.v i; { x with v := mset Vc.zero x.v i { z with p := z.p ||| BitVec.ofNat 64 m } }))
  ++ (List.range 768).map (fun i => ctxF (0x37000 + 8 * i) 8 (fun x => (mget Vc.zero x.v i).p.toNat)
      (fun v x => { x with v := mset Vc.zero x.v i { mget Vc.zero x.v i with p := w64 v } }))
  ++ (List.range 8).flatMap ctxAcc

/-- The vault offset of a slot (R35). -/
def ctxSlot (n : Nat) : Nat := Config.ctxBase + Config.ctxSize * n
/-- Offset of the live granules. -/
def ctxLive : Nat := 0x44000
/-- Bytes and lanes of a live range by local granules. -/
def liveAt (x : Core) (first : Nat) : Nat := (SEGSP_BASE x + first) * 64

/-- Domain of a region as a header holds it. -/
def domWord (a : Word) : Nat := srcOf a + qOf a * 2 ^ 32 + pOf a * 2 ^ 48

/-- The slot a number names on a core: the second core of a time-sliced pair has slots 2 and 3 (R344). -/
def State.slotOf (s : State) (c n : Nat) : Nat := if s.second c then n + 2 else n

/-- A trap marked in the cycle before is pending (R322). -/
def Core.pended (x : Core) : Core := { x with brushes := x.brushes.map (fun y => { y with pend := y.pend ++ y.pendNew, pendNew := [] }) }

/-- Write the context of core `c` into slot `n`, header last (R324): 4,352 fixed lines and one for each live granule; the slot's lines past
them stay (R304). -/
def ctxSave (c n : Nat) (snap : Bool) (live : Word) (s : State) : State :=
  let s := (s.hold c).modCore c Core.pended
  let o := ctxSlot n
  let first := live.toNat % 2 ^ 17
  let cnt := live.toNat / 2 ^ 32 % 2 ^ 17
  let s := s.eccTouch c false (liveAt (s.core c) first) (64 * cnt)
  let x := s.core c
  let size := ctxLive + 64 * cnt
  let inSlot (a : Nat) : Bool := decide (o ≤ a) && decide (a < o + size)
  let put (m : List Host.Cell) (a v k : Nat) : List Host.Cell := if v = 0 then m else wrBytes m (o + a) v k
  let m := x.vault.filter (fun e => !inSlot e.1)
  let mp := x.vaultP.filter (fun e => !inSlot (e.1 * 16))
  let (m, mp) := ctxFields.foldl (fun (r : List Host.Cell × Map Bool) f =>
    (put r.1 f.off (f.get x) f.n, if f.bad x = 0 then r.2 else wrPois r.2 16 (o + f.off) f.n (f.bad x))) (m, mp)
  let (m, mp) := (List.range cnt).foldl (fun (r : List Host.Cell × Map Bool) i =>
    let (v, p) := x.rdScratch (liveAt x first + 64 * i) 64
    (put r.1 (ctxLive + 64 * i) v 64, if p = 0 then r.2 else wrPois r.2 16 (o + ctxLive + 64 * i) 64 p)) (m, mp)
  let a := (s.region (regionOf c)).a
  let m := put (put (put (put m 0x08 x.ctxid.toNat 8) 0x10 (domWord a) 8) 0x18 live.toNat 8) 0x20 (s.phaseN c).toNat 8
  let m := put (put m 0x28 x.cycle.toNat 8) 0x30 (if x.user then 0 else 1) 8
  let m := put m 0 (1 + if snap then 2 else 0) 8
  { s.setCore c { x with vault := m, vaultP := mp, ecc := clearEcc x.ecc (2 ^ 40) 16 o size } with saves := mput s.saves (c * 4 + n) x }

def ctxHdr (x : Core) (n o : Nat) : Nat := rdBytes x.vault (ctxSlot n + o) 8
/-- Whether a slot may be restored on a core (R304). -/
def ctxOk (s : State) (c n : Nat) : Bool :=
  let x := s.core c
  ctxHdr x n 0 % 2 == 1 && ctxHdr x n 0x10 == domWord (s.region (regionOf c)).a

/-- Whether a poison mark stands in a core's registers, latches or accumulators. -/
def Core.poisoned (x : Core) : Bool :=
  let sc (m : Map Sc) : Bool := m.any (fun e => e.2.p)
  let vc (m : Map Vc) : Bool := m.any (fun e => e.2.p != 0)
  x.brushes.any (fun y => sc y.s || sc y.p || sc y.lat || vc y.vlat) || vc x.v || vc x.vlat || sc x.slat || x.accs.any (fun e => e.2.p != 0)

/-- Restore slot `n` into core `c` (R304, R324): latent errors of the lines it reads are met, and its poison poisons what it restores (R77). What the
slot does not hold of a brush's wait stands in `saves` (log 11). -/
def ctxRestore (c n : Nat) (s : State) : State :=
  let s := s.hold c
  let o := ctxSlot n
  let live := ctxHdr (s.core c) n 0x18
  let size := ctxLive + 64 * (live / 2 ^ 32 % 2 ^ 17)
  let s := s.eccTouch c true o size
  let x := s.core c
  let kept := mget x s.saves (c * 4 + n)
  let first := live % 2 ^ 17
  let cnt := live / 2 ^ 32 % 2 ^ 17
  let snap := ctxHdr x n 0 / 2 % 2 = 1
  let lostB (b : Nat) : Brush → Brush := fun y =>
    let k := kept.brush b
    { y with pend := y.pend ++ k.pend.drop 1, trapped := k.trapped, xfer := k.xfer, arrived := k.arrived, run := match k.run with | .waiting w => .waiting w | _ => y.run }
  let v0 := x
  let x := (List.range 4).foldl (fun x b => x.setBrush b { Brush.reset with run := (kept.brush b).run }) x
  let x := { x with ecc := (List.range 8).foldl (fun m i => mdel m (descKey i)) x.ecc }
  let x := ctxFields.foldl (fun z f => f.set (rdBytes v0.vault (o + f.off) f.n) z) x
  let bad := v0.vaultP.any (fun e => decide (o ≤ e.1 * 16) && decide (e.1 * 16 < o + size))
  let x := if bad then ctxFields.foldl (fun z f =>
    let p := lanePois v0.vaultP 16 (o + f.off) f.n
    if p = 0 then z else f.poison p z) x else x
  let x := (List.range 4).foldl (fun x b => x.modBrush b (lostB b)) x
  let base := SEGSP_BASE x * 64
  let size := SEGSP_SIZE x * 64
  let inSeg (a : Nat) : Bool := decide (base ≤ a) && decide (a < base + size)
  let mem := x.mem.filter (fun e => !inSeg e.1)
  let memP := x.memP.filter (fun e => !inSeg (e.1 * 8))
  let (mem, memP) := (List.range cnt).foldl (fun (r : List Host.Cell × Map Bool) i =>
    let v := rdBytes v0.vault (o + ctxLive + 64 * i) 64
    let p := lanePois v0.vaultP 16 (o + ctxLive + 64 * i) 64
    (if v = 0 then r.1 else wrBytes r.1 (base + 64 * (first + i)) v 64, if p = 0 then r.2 else wrPois r.2 8 (base + 64 * (first + i)) 64 p)) (mem, memP)
  let x := { x with mem := mem, memP := memP, ecc := clearEcc x.ecc 0 8 base size, ctxid := w64 (ctxHdr v0 n 8), cycle := w64 (ctxHdr v0 n 0x28),
                    user := ctxHdr v0 n 0x30 % 2 == 0,
                    tracker := [], mtq := [], mtRun := [], mtFree := 0, rels := [], moving := [], created := x.created || bad || x.poisoned }
  let x := if snap then x else { x with vault := wrBytes x.vault o (ctxHdr v0 n 0 - 1) 8 }
  s.setCore c x

/-- The cycle of the `n`th line from cycle `t` on, skipping reserved slots. -/
def nthLine (s : State) (c : Nat) : Nat → Nat → Nat
  | _, 0 => 0
  | t, n + 1 =>
    let t := if (slotKind s c t).isSome then (if (slotKind s c (t + 1)).isSome then t + 2 else t + 1) else t
    if n = 0 then t else nthLine s c (t + 1) n
/-- Lines of a save (R304). -/
def ctxLines (live : Nat) : Nat := 4352 + live / 2 ^ 32 % 2 ^ 17

/-! ### The triggers -/

def sysO (s : State) (i : Iss) : Sc := pLat s i.c i.b 20

/-- A d with bits outside its fields (R303). -/
def sysBits (i : Iss) (d : Sc) (allowed : Word) : Except Trap Unit :=
  if d.v &&& ~~~allowed ≠ 0 then .error (badOp i.code 22) else .ok ()
def inService (i : Iss) (s : State) : Except Trap Unit :=
  if (s.core i.c).service then .ok () else .error (phaseTrap s i.c false i.code i.pos)

/-- ctxsv (R304). -/
def trigCtxsv : SOp := fun i d s => do
  inService i s
  sysBits i d 7
  let x := s.core i.c
  let o := (sysO s i).v
  if SEGSP_SIZE x < o.toNat % 2 ^ 17 + o.toNat / 2 ^ 32 % 2 ^ 17 then .error (segTrap o 0 i.code 18)
  else
    let last := nthLine s i.c (s.cyc i.c) (ctxLines o.toNat)
    setB i (ctxSave i.c (d.v.toNat % 4) (d.v.getLsbD 2) o s) (fun y => { y with newWait := some (.until (last + 24)) })

/-- ctxld (R304). A slot whose segment registers break R32 is a privileged operation. The service's own brush, number 4, is none of those
restored (log 99). -/
def trigCtxld : SOp := fun i d s => do
  inService i s
  sysBits i d 3
  let n := d.v.toNat % 4
  let x := s.core i.c
  if !ctxOk s i.c n then .error (badOp i.code 28)
  else
    let w (o : Nat) : Word := w64 (ctxHdr x n o)
    if !(segspOk (w 0x50) && segvtOk (w 0x58) && segisOk (w 0x60)) then .error (privTrap i.code)
    else
      let last := nthLine s i.c (s.cyc i.c) (ctxLines (ctxHdr x n 0x18))
      setB i (ctxRestore i.c n s) (fun y => { y with newWait := some (.until (last + 48)) })

/-- A register of a machine-check bank (R305, R339). -/
def McBank.reg (b : McBank) : Nat → Word
  | 0 => b.status | 1 => b.addr | 2 => b.misc | _ => b.count

/-- mckr (R305): CLR clears what it read, and the errors of the present cycle have not entered the bank yet. -/
def trigMckr : SOp := fun i d s => do
  sysBits i d 0x131F
  let n := d.v.toNat % 32
  let key := if n < 16 then panelOf i.c * 16 + n else 8 * 16 + (n - 16)
  let b := mget McBank.reset s.banks key
  let s := if d.v.getLsbD 12 then { s with banks := mput s.banks key { b with status := 0, count := 0 } } else s
  addFlight i.c i.b (Flight.done i.b i.code false (s.cyc i.c) (s.cyc i.c + 4) (some (.ps 22)) d.v ⟨(b.reg (d.v.toNat / 256 % 4)).setWidth 2048, 0⟩ 0) s

/-- The units a test needs, and its cycles (R306). -/
def bistUnits (n : Nat) : List Nat := match n with | 0 => [5] | 1 => [9] | _ => [4, 6]
def bistCycles (n : Nat) : Nat := match n with | 0 => 400000 | 1 => 1200000 | _ => 900000

/-- The failure of a test that the environment has placed: its unit and item (R306; log 17). -/
def bistFail (x : Core) (n : Nat) : Option (Nat × Nat) :=
  let u := x.glitch / 2 ^ 32
  if (match n with | 0 => u == 1 | 1 => u == 2 | _ => u == 3 || u == 4) then some (u, x.glitch % 2 ^ 32) else none

/-- sbist (R306): its record is written at completion; test 0 leaves every accumulator at +0.0. -/
def trigSbist : SOp := fun i d s => do
  sysBits i d 3
  let n := d.v.toNat % 4
  if n = 3 then .error (badOp i.code 22)
  else
    let x := s.core i.c
    let t := s.cyc i.c
    if !(bistUnits n).all (fun u => mayUse x i.b t u) then .error (ownershipTrap i.code)
    else
      let o := (sysO s i).v
      if o.toNat % 64 ≠ 0 then .error (segTrap o 64 i.code 15)
      else do
        let (_, p) ← checkAddr s i.c i.b .sw true o 64 i.code
        let fin := t + bistCycles n
        let (bad, unit, item) := match bistFail x n with | some (u, k) => (1, u, k) | none => (0, 0, 0)
        let w : EngW := ⟨fin, p, 64, BitVec.ofNat 2048 (bad + unit * 2 ^ 64 + item * 2 ^ 128 + bistCycles n * 2 ^ 192), 0, i.b, x.seq + 1⟩
        let s := if bad = 1 then s.coreError i.c 12 0x0D 0 0 i.b i.code else s
        let s := s.modCore i.c (fun x => { x with seq := x.seq + 1, engW := x.engW ++ [w], accs := if n = 0 then [] else x.accs,
                                                  glitch := if bad = 1 then 0 else x.glitch })
        setB i s (fun y => { y with newWait := some (.until fin) })

/-- rcfg (R307). -/
def trigRcfg : SOp := fun i d s => do
  sysBits i d 0x31F
  let v := (sysO s i).v
  let ix := d.v.toNat % 32
  let (r, s') ← (match d.v.toNat / 256 with
    | 0 => .ok (writeRcfga ix v s)
    | 1 => .ok (writeRcfgb ix v s)
    | 2 => if ix < 16 then .ok (writeXcfg ix v s) else .error (badOp i.code 22)
    | _ => .error (badOp i.code 22) : Except Trap (Nat × State))
  if r = 1 then .error (badOp i.code 29) else if r = 2 then .error (badOp i.code 30) else pure s'

def execCtxsv (m : Trig) (s : State) : Out := issueS 0x3F0 trigCtxsv m s
def execCtxld (m : Trig) (s : State) : Out := issueS 0x3F1 trigCtxld m s
def execMckr (m : Trig) (s : State) : Out := issueS 0x3F2 trigMckr m s
def execSbist (m : Trig) (s : State) : Out := issueS 0x3F3 trigSbist m s
def execRcfg (m : Trig) (s : State) : Out := issueS 0x3F4 trigRcfg m s

end Sys2Proof.Machine
end

