-- ==== Sys2Proof/Machine/Vector.lean ====
section
/-! DEFINITION. VA0 and VA1 (13 R258 to R264): elements, exclusion, the mode latch (01 R20, 09 R178). -/
namespace Sys2Proof.Machine

/-! ### Elements (R258) -/

/-- Element `j` of `es` bytes. -/
def elBits (v : Vec) (es j : Nat) : Nat := v.toNat / 256 ^ (es * j) % 256 ^ es
/-- The home lane of element `j`. -/
def homeLane (es j : Nat) : Nat := es * j / 4
/-- The lanes an element occupies. -/
def elLanes (es j : Nat) : Nat := if es = 8 then 3 * 2 ^ (2 * j) else 2 ^ homeLane es j
/-- Whether an element is poisoned (R260). -/
def elPois (p : BitVec 64) (es j : Nat) : Bool := p.toNat &&& elLanes es j != 0

/-- A vector of `n` elements of `es` bytes, each with its flags and poison; the bytes above are zero. -/
def buildVec (es n : Nat) (f : Nat → Nat × Nat × Bool) : Vc × Nat :=
  let (v, p, fl) := (List.range n).foldl (fun (a : Nat × Nat × Nat) j =>
    let (x, g, q) := f j
    (a.1 + x % 256 ^ es * 256 ^ (es * j), if q then a.2.1 ||| elLanes es j else a.2.1, a.2.2 ||| g)) (0, 0, 0)
  (⟨BitVec.ofNat 2048 v, BitVec.ofNat 64 p⟩, fl)

/-! ### The mode latch (R20, R178) -/

structure Mode where
  ty : Nat
  rnd : Nat
  sat : Bool
  /-- Whether the latch is poisoned. -/
  p : Bool
deriving DecidableEq, Repr

/-- An unimplemented type (R178). -/
def typeTrap (ty reason : Nat) : Trap := mkTrap 0x12 (w64 ty) 0 (w64 reason)

/-- TYPE, RND and SAT of a mode latch, or the trap of reasons 2 and 1. -/
def modeOf (v : Vc) : Except Trap Mode :=
  let m := (vlane v.v 0).toNat
  let ty := m % 256
  let rnd := m / 256 % 8
  if m / 4096 ≠ 0 ∨ 4 < rnd then .error (typeTrap ty 2)
  else if !tyImpl ty then .error (typeTrap ty 1)
  else .ok ⟨ty, rnd, decide (m / 2048 % 2 = 1), v.p.getLsbD 0⟩

/-- A result under a mode: every element of it is computed from the mode too (R260, R261, R265). -/
def Mode.build (m : Mode) (es n : Nat) (f : Nat → Nat × Nat × Bool) : Vc × Nat :=
  buildVec es n (fun j => ((f j).1, (f j).2.1, (f j).2.2 || m.p))

/-- Classes of types an operation accepts (R261): reason 4, then SR where it rounds: reason 5. -/
def needType (m : Mode) (accept rounds : Bool) : Except Trap Unit :=
  if !accept then .error (typeTrap m.ty 4) else if rounds && m.rnd == 4 then .error (typeTrap m.ty 5) else .ok ()

/-- A vector result known at issue. -/
def putV (due : Nat) (dst : Dst) (r : Vc) (fl : Nat) (i : Iss) (s : State) : Except Trap State :=
  addFlight i.c i.b (Flight.done i.b i.code true (s.cyc i.c) due (some dst) 0 r (BitVec.ofNat 5 fl)) s

/-! ### One VA operation -/

/-- What an operation reads besides d (R261): o1 as the operand a, o2 as c. -/
structure VaForm where
  accept : Nat → Bool
  rounds : Bool
  cmp : Bool
  useA : Bool
  useC : Bool

/-- A VA operation from its element function, which takes the mode, lane 0 of o1 and the bits of a, b and c, and gives bits and
flags (R259 to R264). -/
def vaOp (q : VaForm) (f : Mode → Nat → Nat → Nat → Nat → Nat × Nat) : VOp := fun i d s => do
  let k := if i.code < 0x880 then 0 else 6
  let o1 := vLat s i.c k
  let o2 := vLat s i.c (k + 1)
  let mask := vLat s i.c (k + 3)
  let m ← modeOf (vLat s i.c (k + 2))
  needType m (q.accept m.ty) (q.rounds && tyFloat m.ty)
  let es := tyBytes m.ty
  let l0 := (vlane o1.v 0).toNat
  let (r, fl) := m.build es (256 / es) (fun j =>
    let h := homeLane es j
    if mask.v.getLsbD (32 * h) then
      (if q.cmp then 0 else elBits o1.v es j, 0, (!q.cmp && elPois o1.p es j) || mask.p.getLsbD h)
    else
      let (x, g) := f m l0 (elBits o1.v es j) (elBits d.v es j) (elBits o2.v es j)
      (x, g, mask.p.getLsbD h || elPois d.p es j || (q.useA && elPois o1.p es j) || (q.useC && elPois o2.p es j)))
  putV (s.cyc i.c + if tyInt m.ty then 2 else 4) (.vs (if q.cmp then k + 5 else k + 4)) r fl i s

def accArith (ty : Nat) : Bool := tyInt ty || tyFloat ty

/-- An arithmetic operation from its exact integer and real values (R262). -/
def vaArith (useA useC : Bool) (fi : Int → Int → Int → Int) (ff : Nat → Num → Num → Num → Num × Nat) : VOp :=
  vaOp ⟨accArith, true, false, useA, useC⟩ (fun m _ a b c =>
    if tyInt m.ty then
      let v := fi (intVal m.ty a) (intVal m.ty b) (intVal m.ty c)
      (intBits (tyBytes m.ty) (if m.sat then satInt m.ty v else v), 0)
    else
      let (x, g) := ff m.rnd (valOf m.ty a) (valOf m.ty b) (valOf m.ty c)
      let (y, h) := roundTo m.ty m.rnd m.sat x 0
      (y, g ||| h))

/-- An arithmetic operation whose floating result is exact: on bits, NaN apart (R262). -/
def vaExact (useA : Bool) (fi : Int → Int → Int) (ff : Nat → Nat → Nat → Nat) : VOp :=
  vaOp ⟨accArith, false, false, useA, false⟩ (fun m _ a b _ =>
    if tyInt m.ty then
      let v := fi (intVal m.ty a) (intVal m.ty b)
      (intBits (tyBytes m.ty) (if m.sat then satInt m.ty v else v), 0)
    else if (valOf m.ty b).isNaN || (useA && (valOf m.ty a).isNaN) then ((fmtOf m.ty).nanCode, 0)
    else (ff m.ty a b, 0))

/-- The lesser of two floating bit patterns, −0.0 below +0.0 (R262). -/
def minBits (ty a b : Nat) : Nat := if (valOf ty b).below (valOf ty a) then b else a
def maxBits (ty a b : Nat) : Nat := if (valOf ty a).below (valOf ty b) then b else a
def signBit (ty : Nat) : Nat := 2 ^ (8 * tyBytes ty - 1)

/-- An integer operation on bits that wraps (R262): shifts and vmulh. -/
def vaInt (f : Nat → Nat → Nat → Nat) : VOp :=
  vaOp ⟨tyInt, false, false, true, false⟩ (fun m _ a b _ => (f m.ty a b, 0))
/-- A bitwise operation (R263). -/
def vaBit (useA useC : Bool) (f : Nat → Nat → Nat → Nat → Nat) : VOp :=
  vaOp ⟨tyImpl, false, false, useA, useC⟩ (fun m _ a b c => (f (256 ^ tyBytes m.ty - 1) a b c, 0))

/-- A compare (R264): `nan` is its answer where an operand is a NaN. -/
def vaCmp (nan : Bool) (f : Ordering → Bool) : VOp :=
  vaOp ⟨accArith, false, true, true, false⟩ (fun m _ a b _ =>
    let ones := 256 ^ tyBytes m.ty - 1
    let r := if tyInt m.ty then f (compare (intVal m.ty a) (intVal m.ty b))
      else if (valOf m.ty a).isNaN || (valOf m.ty b).isNaN then nan else f ((valOf m.ty a).cmp (valOf m.ty b))
    (if r then ones else 0, 0))

/-- The class bit of a floating pattern (R264). -/
def classOf (ty b : Nat) : Nat :=
  let f := fmtOf ty
  match valOf ty b with
  | .nan => 0
  | .inf n => if n then 1 else 8
  | .fin n m _ =>
    if m = 0 then (if n then 4 else 5)
    else if b / 2 ^ f.t % 2 ^ (f.bits - 1 - f.t) = 0 then (if n then 3 else 6) else if n then 2 else 7

def vmulInt (es : Nat) (a b : Int) : Nat := intBits es (a * b / (256 ^ es : Nat))

/-- |x| of an exact value. -/
def absNum : Num → Num
  | .fin _ m e => .fin false m e
  | .inf _ => .inf false
  | .nan => .nan

/-- vadd (R262 to R264). -/
def trigVadd : VOp := vaArith true false (fun a b _ => a + b) (fun r a b _ => a.add r b)
/-- vsub (R262 to R264). -/
def trigVsub : VOp := vaArith true false (fun a b _ => a - b) (fun r a b _ => a.add r b.neg)
/-- vmul (R262 to R264). -/
def trigVmul : VOp := vaArith true false (fun a b _ => a * b) (fun _ a b _ => a.mul b)
/-- vfma (R262 to R264). -/
def trigVfma : VOp := vaArith true true (fun a b c => a * b + c) (fun r a b c => Num.fma r a b c)
/-- vfms (R262 to R264). -/
def trigVfms : VOp := vaArith true true (fun a b c => a * b - c) (fun r a b c => Num.fma r a b c.neg)
/-- vfnm (R262 to R264). -/
def trigVfnm : VOp := vaArith true true (fun a b c => c - a * b) (fun r a b c => Num.fma r a.neg b c)
/-- vmin (R262 to R264). -/
def trigVmin : VOp := vaExact true (fun a b => if b < a then b else a) (fun ty a b => minBits ty a b)
/-- vmax (R262 to R264). -/
def trigVmax : VOp := vaExact true (fun a b => if a < b then b else a) (fun ty a b => maxBits ty a b)
/-- vabs (R262 to R264). -/
def trigVabs : VOp := vaExact false (fun _ b => b.natAbs) (fun ty _ b => b % signBit ty)
/-- vneg (R262 to R264). -/
def trigVneg : VOp := vaExact false (fun _ b => -b) (fun ty _ b => b ^^^ signBit ty)
/-- vand (R262 to R264). -/
def trigVand : VOp := vaBit true false (fun _ a b _ => a &&& b)
/-- vor (R262 to R264). -/
def trigVor : VOp := vaBit true false (fun _ a b _ => a ||| b)
/-- vxor (R262 to R264). -/
def trigVxor : VOp := vaBit true false (fun _ a b _ => a ^^^ b)
/-- vandn (R262 to R264). -/
def trigVandn : VOp := vaBit true false (fun o a b _ => a &&& (o - b))
/-- vshl (R262 to R264). -/
def trigVshl : VOp := vaInt (fun ty a b => a * 2 ^ (b % (8 * tyBytes ty)) % 256 ^ tyBytes ty)
/-- vshr (R262 to R264). -/
def trigVshr : VOp := vaInt (fun ty a b => a / 2 ^ (b % (8 * tyBytes ty)))
/-- vsar (R262 to R264). -/
def trigVsar : VOp := vaInt (fun ty a b => intBits (tyBytes ty) ((BitVec.ofNat (8 * tyBytes ty) a).toInt / (2 ^ (b % (8 * tyBytes ty)) : Nat)))
/-- vsel (R262 to R264). -/
def trigVsel : VOp := vaBit true true (fun o a b c => (a &&& c) ||| (b &&& (o - c)))
/-- vceq (R262 to R264). -/
def trigVceq : VOp := vaCmp false (fun o => o == .eq)
/-- vcne (R262 to R264). -/
def trigVcne : VOp := vaCmp true (fun o => o != .eq)
/-- vclt (R262 to R264). -/
def trigVclt : VOp := vaCmp false (fun o => o == .lt)
/-- vcle (R262 to R264). -/
def trigVcle : VOp := vaCmp false (fun o => o != .gt)
/-- vclass (R262 to R264). -/
def trigVclass : VOp := fun i d s =>
  let k := if i.code < 0x880 then 0 else 6
  let p0 := (vLat s i.c k).p.getLsbD 0
  vaOp ⟨tyFloat, false, true, false, false⟩ (fun m l0 _ b _ => (if l0 / 2 ^ classOf m.ty b % 2 = 1 then 256 ^ tyBytes m.ty - 1 else 0, 0))
    i (if p0 then ⟨d.v, BitVec.allOnes 64⟩ else d) s
/-- vmov (R262 to R264). -/
def trigVmov : VOp := vaBit false false (fun _ _ b _ => b)
/-- vmulh (R262 to R264). -/
def trigVmulh : VOp := vaInt (fun ty a b => vmulInt (tyBytes ty) (intVal ty a) (intVal ty b))
/-- vabd (R262 to R264). -/
def trigVabd : VOp := vaArith true false (fun a b _ => (a - b).natAbs) (fun r a b _ => let (x, g) := a.add r b.neg; (absNum x, g))
def execVadd (m : Trig) (u : Bool) (s : State) : Out := issueV (if u then 0x880 else 0x800) trigVadd m s
def execVsub (m : Trig) (u : Bool) (s : State) : Out := issueV (if u then 0x881 else 0x801) trigVsub m s
def execVmul (m : Trig) (u : Bool) (s : State) : Out := issueV (if u then 0x882 else 0x802) trigVmul m s
def execVfma (m : Trig) (u : Bool) (s : State) : Out := issueV (if u then 0x883 else 0x803) trigVfma m s
def execVfms (m : Trig) (u : Bool) (s : State) : Out := issueV (if u then 0x884 else 0x804) trigVfms m s
def execVfnm (m : Trig) (u : Bool) (s : State) : Out := issueV (if u then 0x885 else 0x805) trigVfnm m s
def execVmin (m : Trig) (u : Bool) (s : State) : Out := issueV (if u then 0x886 else 0x806) trigVmin m s
def execVmax (m : Trig) (u : Bool) (s : State) : Out := issueV (if u then 0x887 else 0x807) trigVmax m s
def execVabs (m : Trig) (u : Bool) (s : State) : Out := issueV (if u then 0x888 else 0x808) trigVabs m s
def execVneg (m : Trig) (u : Bool) (s : State) : Out := issueV (if u then 0x889 else 0x809) trigVneg m s
def execVand (m : Trig) (u : Bool) (s : State) : Out := issueV (if u then 0x88A else 0x80A) trigVand m s
def execVor (m : Trig) (u : Bool) (s : State) : Out := issueV (if u then 0x88B else 0x80B) trigVor m s
def execVxor (m : Trig) (u : Bool) (s : State) : Out := issueV (if u then 0x88C else 0x80C) trigVxor m s
def execVandn (m : Trig) (u : Bool) (s : State) : Out := issueV (if u then 0x88D else 0x80D) trigVandn m s
def execVshl (m : Trig) (u : Bool) (s : State) : Out := issueV (if u then 0x88E else 0x80E) trigVshl m s
def execVshr (m : Trig) (u : Bool) (s : State) : Out := issueV (if u then 0x88F else 0x80F) trigVshr m s
def execVsar (m : Trig) (u : Bool) (s : State) : Out := issueV (if u then 0x890 else 0x810) trigVsar m s
def execVsel (m : Trig) (u : Bool) (s : State) : Out := issueV (if u then 0x891 else 0x811) trigVsel m s
def execVceq (m : Trig) (u : Bool) (s : State) : Out := issueV (if u then 0x892 else 0x812) trigVceq m s
def execVcne (m : Trig) (u : Bool) (s : State) : Out := issueV (if u then 0x893 else 0x813) trigVcne m s
def execVclt (m : Trig) (u : Bool) (s : State) : Out := issueV (if u then 0x894 else 0x814) trigVclt m s
def execVcle (m : Trig) (u : Bool) (s : State) : Out := issueV (if u then 0x895 else 0x815) trigVcle m s
def execVclass (m : Trig) (u : Bool) (s : State) : Out := issueV (if u then 0x896 else 0x816) trigVclass m s
def execVmov (m : Trig) (u : Bool) (s : State) : Out := issueV (if u then 0x897 else 0x817) trigVmov m s
def execVmulh (m : Trig) (u : Bool) (s : State) : Out := issueV (if u then 0x898 else 0x818) trigVmulh m s
def execVabd (m : Trig) (u : Bool) (s : State) : Out := issueV (if u then 0x899 else 0x819) trigVabd m s

end Sys2Proof.Machine
end

