-- ==== Sys2Proof/Machine/VectorMem.lean ====
section
/-! DEFINITION. Vector accesses (13 R272 to R275) and neighbour sends (R276, 05 R120 to R122). -/
namespace Sys2Proof.Machine

/-- The trap of two granules of one access in one bank (R273): both requesters are VL affine, each named by its granule. -/
def selfClash (k0 base : Nat) (uses : List BankE) : Option Trap :=
  let loc (e : BankE) : BankE := { e with addr := e.gran * 64 - base }
  uses.findSome? (fun e => (uses.find? (fun f => e.cyc == f.cyc && e.bank == f.bank && decide (e.gran < f.gran))).map
    (fun f => conflictTrap false (e.cyc - k0) (loc e) (loc f)))

/-- An affine access: address, then window, vault or banks (R272 to R274). `ty` is vldw's type, `q` whether its mode is poisoned. -/
def vlAffine (ty : Nat) (q : Bool) : SOp := fun i d s => do
  needClean s i.c d 1 i.code
  let t := s.cyc i.c
  let x := s.core i.c
  let st := vlIsStore i.code
  let es := tyBytes ty
  let stride := vlane (vLat s i.c 19).v 0
  -- the step between the pieces of vld and vst makes addresses (R260, R342)
  if i.code = 0x3B0 ∨ i.code = 0x3B1 then needClean s i.c ⟨d.v, (vLat s i.c 19).p.getLsbD 0⟩ 1 i.code
  let (sp, runs) ← vlCheck s i.c i.b i.code d.v stride es
  let o := vLat s i.c 17
  let idx : Vec := BitVec.ofNat 2048 (stride.toNat + ty * 2 ^ 32 + if q then 2 ^ 40 else 0)
  let base : Flight := { Flight.done i.b i.code false t 0 (if st then none else some (.vs 21)) d.v Vc.zero 0 with
    store := st, src := if st then o else Vc.zero, idx := ⟨idx, 0⟩, base := s.physBase i.c i.b }
  match sp with
  | .window => do
    let a := (runs.headD (0, 0, 0)).1
    let n := if i.code = 0x3B0 then 256 else if i.code = 0x3B6 then 64 * es else 64
    let (v, p) ← x.readWindow t a n i.code
    let s := s.descTouch i.c (windowOf a)
    let r : Vc := ⟨BitVec.ofNat 2048 v, if p then BitVec.ofNat 64 (2 ^ ((n + 3) / 4) - 1) else 0⟩
    addFlight i.c i.b { base with due := vlDue sp i.code t 0, res := if i.code = 0x3B6 then widen ty q r else r } s
  | .vault => do
    needPort s i
    let pieces := vlPieces sp i.code t runs
    let s ← enterVault i.c i.b t d.v (pieces.map (fun q => q.addr)) s
    addFlight i.c i.b { base with due := vlDue sp i.code t pieces.length, pieces := pieces } s
  | _ => do
    crossingClean s i.c sp d.v (st && (if i.code = 0x3B5 then o.p &&& 0xFFFF else o.p) != 0)
    let f := { base with due := vlDue sp i.code t 0, pieces := vlPieces sp i.code t runs }
    match selfClash x.k0 f.base (portAUses f 0x04 0) with
    | some tr => .error tr
    | none => do
      let s ← enterFlight i.c f s
      addFlight i.c i.b f s

def trigVld : SOp := vlAffine 0 false
def trigVst : SOp := vlAffine 0 false
def trigVldb : SOp := vlAffine 0 false
def trigVstb : SOp := vlAffine 0 false
/-- vldw reads VL.m: reasons 2 and 1, then 64-bit integers by reason 4 (R274). -/
def trigVldw : SOp := fun i d s => do
  let m ← modeOf (vLat s i.c 20)
  if m.ty = 0x06 ∨ m.ty = 0x26 then .error (typeTrap m.ty 4) else vlAffine m.ty m.p i d s

/-- The lanes of an indexed access in order: their pieces, and the window lanes already read (R63, R275). -/
def idxLanes (i : Iss) (st : Bool) (d : Word) (idx : Vc) (s : State) : Except Trap (List Piece × Vc) :=
  let t := s.cyc i.c
  (activeLanes idx.v).foldlM (fun (a : List Piece × Vc) l => do
    let addr := d + (vlane idx.v l).setWidth 64
    needClean s i.c ⟨addr, idx.p.getLsbD l⟩ 1 i.code
    let win := decide (0x800000000 ≤ addr.toNat) && decide (addr.toNat + 3 < 0x1000000000)
    if win then
      if st then .error (mkTrap 0x0B addr (w64 (4 + i.code * 65536)) 3)
      else if addr.toNat % 4 ≠ 0 then .error (segTrap addr 4 i.code 12)
      else do
        let (v, p) ← (s.core i.c).readWindow t addr.toNat 4 i.code
        pure (a.1, ⟨vsetLane a.2.v l (BitVec.ofNat 32 v), pput a.2.p l 1 (if p then 1 else 0)⟩)
    else if addr.toNat % 4 ≠ 0 ∨ Config.scratchBytes ≤ addr.toNat then .error (segTrap addr 4 i.code 12)
    else do
      let (_, ph) ← checkAddr s i.c i.b .vl st addr 4 i.code
      pure (a.1 ++ [⟨t + 4 + l, .scratch, ph, 4, 4 * l, l⟩], a.2)) ([], Vc.zero)

/-- vldx and vstx (R230, R275). -/
def vlIndexed (st : Bool) : SOp := fun i d s => do
  let x := s.core i.c
  let t := s.cyc i.c
  if x.lastIdx.any (fun l => decide (t < l + 64)) then .error (badOp i.code 15) else
  needClean s i.c d 1 i.code
  let idx := vLat s i.c 18
  let o := vLat s i.c 17
  let (pieces, res) ← idxLanes i st d.v idx s
  -- a lane that a poisoned index leaves out is computed from it (R260)
  let res : Vc := if st then res else { res with p := res.p ||| idx.p }
  let due := if st then (pieces.getLast?.map (fun q => q.cyc)).getD t else t + 72
  let f : Flight := { Flight.done i.b i.code false t due (if st then none else some (.vs 21)) d.v res 0 with
    store := st, pieces := pieces, src := if st then o else res, idx := idx,
    base := s.physBase i.c i.b }
  -- a window lane's descriptor errors are met at issue (R94, R124)
  let s := ((activeLanes idx.v).map (fun l => (d.v + (vlane idx.v l).setWidth 64).toNat)).foldl (fun s a =>
    if a < 0x800000000 then s else s.descTouch i.c (windowOf a)) s
  let s := s.modCore i.c (fun x => { x with lastIdx := some t })
  if st && pieces == [] then pure s
  else do
    let s ← enterFlight i.c f s
    addFlight i.c i.b f s

def trigVldx : SOp := vlIndexed false
def trigVstx : SOp := vlIndexed true

def execVld (m : Trig) (s : State) : Out := issueS 0x3B0 trigVld m s
def execVst (m : Trig) (s : State) : Out := issueS 0x3B1 trigVst m s
def execVldx (m : Trig) (s : State) : Out := issueS 0x3B2 trigVldx m s
def execVstx (m : Trig) (s : State) : Out := issueS 0x3B3 trigVstx m s
def execVldb (m : Trig) (s : State) : Out := issueS 0x3B4 trigVldb m s
def execVstb (m : Trig) (s : State) : Out := issueS 0x3B5 trigVstb m s
def execVldw (m : Trig) (s : State) : Out := issueS 0x3B6 trigVldw m s

/-! ### Neighbour sends -/

/-- The latch of the neighbour's port that a send toward `side` fills (R120): N fills its south port, and so on. -/
def nbPort (side : Nat) : Nat := match side with | 0 => 25 | 1 => 26 | 2 => 23 | _ => 24

/-- A send: an unlocked link traps; a send toward no member core is discarded (R121, R122). -/
def trigNbSend (side : Nat) : VOp := fun i _ s =>
  if !linked s i.c side then .error (mkTrap 0x11 (w64 side) 0 0)
  else match linkTo i.c side with
    | none => .ok s
    | some d =>
      let member := match s.sittingOf i.c with | some t => t.cores.contains d | none => false
      if member then
        .ok (s.modCore d (fun x => { x with nbArr := x.nbArr ++ [(s.cyc d + 2, nbPort side, vLat s i.c 22)] }))
      else .ok s

def execNbSend (m : Trig) (side : BitVec 2) (s : State) : Out := issueV (0x9D0 + side.toNat) (trigNbSend side.toNat) m s

/-- NB_ARRIVAL: sends land in the ports of the core (R120). -/
def nbArrive (c : Nat) (s : State) : State :=
  let t := s.cyc c
  s.modCore c (fun x =>
    let x' := (x.nbArr.filter (fun e => decide (e.1 ≤ t))).foldl (fun x e =>
      { x with vlat := mput x.vlat e.2.1 e.2.2, created := x.created || e.2.2.p != 0 }) x
    { x' with nbArr := x'.nbArr.filter (fun e => decide (t < e.1)) })
def execNbArrival (s : State) : Out := .next (nbArrive s.here s)

end Sys2Proof.Machine
end

