-- ==== Sys2Proof/Machine/VectorX.lean ====
section
/-! DEFINITION. VX: conversions, MX quantisation, reductions, permutes, transcendentals (13 R265 to R271; 09 R190, R191,
R196). -/
namespace Sys2Proof.Machine

/-- VX's operands: o1, o2 and the mode (R265). -/
def vxO1 (s : State) (i : Iss) : Vc := vLat s i.c 12
def vxO2 (s : State) (i : Iss) : Vc := vLat s i.c 13
def vxMode (s : State) (i : Iss) : Except Trap Mode := modeOf (vLat s i.c 14)
/-- A result of VX.y after `lat` cycles (R230). -/
def putVX (lat : Nat) (r : Vc × Nat) (i : Iss) (s : State) : Except Trap State := putV (s.cyc i.c + lat) (.vs 15) r.1 r.2 i s
/-- Lane 0 of the trigger data: a count, an index, an amount, a half or a parity (R265). -/
def lane0 (d : Vc) : Nat := (vlane d.v 0).toNat

/-! ### Conversions (R266, R267) -/

/-- Elements of `st` to the mode's type; `q`: the source type is poisoned; `r j` is the random word and its poison (R260). -/
def convert (m : Mode) (rnd st : Nat) (x : Vc) (q : Bool) (r : Nat → Nat × Bool) : Vc × Nat :=
  let es := tyBytes st
  let ed := tyBytes m.ty
  m.build ed (256 / max es ed) (fun j =>
    let (b, fl) := roundTo m.ty rnd m.sat (valOf st (elBits x.v es j)) (r j).1
    (b, fl, q || elPois x.p es j || (r j).2))

def trigVcvt : VOp := fun i d s => do
  let m ← vxMode s i
  let st := lane0 (vxO1 s i) % 256
  if !tyImpl st then .error (typeTrap st 1)
  else if m.rnd = 4 then .error (typeTrap m.ty 5)
  else putVX 6 (convert m m.rnd st d ((vxO1 s i).p.getLsbD 0) (fun _ => (0, false))) i s

def trigVcvtsr : VOp := fun i d s => do
  let m ← vxMode s i
  let st := lane0 (vxO1 s i) % 256
  if !tyImpl st then .error (typeTrap st 1)
  else putVX 6 (convert m 4 st (vxO2 s i) ((vxO1 s i).p.getLsbD 0) (fun j =>
    ((rotl32 (vlane d.v (j % 64)) (8 * (j / 64))).toNat, d.p.getLsbD (j % 64)))) i s

def trigVpack : VOp := fun i d s => do
  let m ← vxMode s i
  needType m (inR 0x03 0x05 m.ty || inR 0x23 0x25 m.ty || inR 0x40 0x41 m.ty) (tyFloat m.ty)
  let es := tyBytes m.ty
  let wide := if tyFloat m.ty then 0x42 else m.ty + 1
  putVX 6 (m.build es (128 / es) (fun j =>
    let b := elBits d.v (2 * es) j
    let q := elPois d.p (2 * es) j
    if tyFloat m.ty then (let (x, fl) := roundTo m.ty m.rnd m.sat (valOf wide b) 0; (x, fl, q))
    else (intBits es (if m.sat then satInt m.ty (intVal wide b) else intVal wide b), 0, q))) i s

def trigVunpk : VOp := fun i d s => do
  let m ← vxMode s i
  needType m (inR 0x04 0x06 m.ty || inR 0x24 0x26 m.ty) false
  if 1 < lane0 d then .error (badOp i.code 23)
  else
    let o1 := vxO1 s i
    let es := tyBytes m.ty
    let n := 256 / es
    putVX 6 (m.build es n (fun j =>
      let q := j + lane0 d * n
      (intBits es (intVal (m.ty - 1) (elBits o1.v (es / 2) q)), 0, elPois o1.p (es / 2) q || d.p.getLsbD 0))) i s

/-! ### MX (R196, R268) -/

/-- floor(log2 |x|) of a finite nonzero value. -/
def floorLog2 : Num → Int
  | .fin _ m e => e + Nat.log2 m
  | _ => 0

/-- The scale of a block and its exponent X: none where it is the NaN scale, with NV or not (R196). -/
def blockScale (ty : Nat) (xs : List Num) : Option Int × Nat :=
  let f := fmtOf ty
  if xs.any Num.isNaN then (none, 0)
  else if !f.infs && xs.any (fun x => match x with | .inf _ => true | _ => false) then (none, fNV)
  else
    let fin := xs.filter (fun x => match x with | .fin _ m _ => m != 0 | _ => false)
    match fin with
    | [] => (some 0, 0)
    | _ =>
      let e := fin.foldl (fun a x => max a (floorLog2 x)) (-100000)
      (some (max (-127) (min 127 (e - f.emax))), 0)

def trigVmxq : VOp := fun i d s => do
  let m ← vxMode s i
  needType m (tyB8 m.ty) false
  let v := lane0 d
  if 64 < v then .error (badOp i.code 23)
  else
    let o1 := vxO1 s i
    let o2 := vxO2 s i
    let x (k : Nat) : Num := fp32.decode (vlane o1.v k).toNat
    let valid (b : Nat) : List Nat := (List.range 32).filterMap (fun j => if 32 * b + j < v then some (32 * b + j) else none)
    let sc (b : Nat) : Option Int × Nat := blockScale m.ty ((valid b).map x)
    let pb (b : Nat) : Bool := (valid b).any (fun k => o1.p.getLsbD k) || d.p.getLsbD 0
    let s0 := sc 0
    let s1 := sc 1
    let (y, fl) := m.build 1 64 (fun k =>
      let (se, g) := if k < 32 then s0 else s1
      if v ≤ k then (0, 0, d.p.getLsbD 0)
      else
        let pois := pb (k / 32) || (m.rnd == 4 && o2.p.getLsbD k)
        match se with
        | none => ((fmtOf m.ty).nanCode, g, pois)
        | some e => let (b, h) := roundTo m.ty m.rnd m.sat ((x k).scale (-e)) (vlane o2.v k).toNat
          (b, h, pois))
    let byte (q : Option Int × Nat) : Nat := match q.1 with | none => 0xFF | some e => (e + 127).toNat
    let f := Flight.done i.b i.code true (s.cyc i.c) (s.cyc i.c + 6) (some (.vs 15)) 0 y (BitVec.ofNat 5 fl)
    addFlight i.c i.b { f with wys := true, ys := w64 (byte s0 + 256 * byte s1), ysP := pb 0 || pb 1 || m.p } s

def trigVmxd : VOp := fun i d s => do
  let m ← vxMode s i
  needType m (tyB8 m.ty) true
  let v := lane0 d
  if 64 < v then .error (badOp i.code 23)
  else
    let o1 := vxO1 s i
    let o2 := vxO2 s i
    let f := fmtOf m.ty
    putVX 6 (m.build 4 64 (fun k =>
      if v ≤ k then (0, 0, d.p.getLsbD 0)
      else
        let sb := vbytes o2.v (k / 32) 1
        let e := vbytes o1.v k 1
        let pois := d.p.getLsbD 0 || o2.p.getLsbD 0 || o1.p.getLsbD (k / 4)
        if sb = 0xFF ∨ (f.decode e).isNaN then (fp32.nanCode, 0, pois)
        else let (b, h) := roundTo 0x42 m.rnd m.sat ((f.decode e).scale ((sb : Int) - 127)) 0
          (b, h, pois))) i s

/-! ### Reductions and the scan (R191, R269) -/

/-- A node's value: bits, flags, poison. -/
abbrev RNode := Nat × Nat × Bool

/-- An add of two elements under the mode. -/
def addNode (m : Mode) (a b : Nat) : Nat × Nat :=
  if tyInt m.ty then
    let v := intVal m.ty a + intVal m.ty b
    (intBits (tyBytes m.ty) (if m.sat then satInt m.ty v else v), 0)
  else
    let (x, g) := (valOf m.ty a).add m.rnd (valOf m.ty b)
    let (y, h) := roundTo m.ty m.rnd m.sat x 0
    (y, g ||| h)
/-- The greater or the lesser of two elements; a NaN wins. -/
def selNode (least : Bool) (m : Mode) (a b : Nat) : Nat × Nat :=
  if tyInt m.ty then
    let p := decide (intVal m.ty b < intVal m.ty a)
    (if p = least then b else a, 0)
  else if (valOf m.ty a).isNaN || (valOf m.ty b).isNaN then ((fmtOf m.ty).nanCode, 0)
  else (if least then minBits m.ty a b else maxBits m.ty a b, 0)

/-- The identity of a reduction, 0 add, 1 max, 2 min (R191). -/
def identity (op : Nat) (ty : Nat) : Nat :=
  if op = 0 then 0
  else if tyInt ty then intBits (tyBytes ty) (if op = 1 then intMin ty else intMax ty)
  else (fmtOf ty).infCode (op == 1)

/-- The elements of d that the exclusion mask leaves (R265). -/
def present (m : Mode) (mask d : Vc) : List (Option RNode) :=
  let es := tyBytes m.ty
  (List.range (256 / es)).map (fun j =>
    if mask.v.getLsbD (32 * homeLane es j) then none else some (elBits d.v es j, 0, elPois d.p es j))

/-- Whether one of the mask's first `n` elements, the bits of their home lanes, is poisoned (R260, R265). -/
def maskPois (mask : Vc) (es n : Nat) : Bool := (List.range n).any (fun j => mask.p.getLsbD (homeLane es j))

def reduce (op : Nat) : VOp := fun i d s => do
  let m ← vxMode s i
  needType m (accArith m.ty) (op == 0 && tyFloat m.ty)
  let mask := vxO2 s i
  let es := tyBytes m.ty
  let f (a b : Nat) := if op = 0 then addNode m a b else selNode (op == 2) m a b
  let node (a b : RNode) : RNode := let (x, g) := f a.1 b.1; (x, a.2.1 ||| b.2.1 ||| g, a.2.2 || b.2.2)
  let (x, fl, p) := (treeFold node (Nat.log2 (256 / es)) (present m mask d)).getD (identity op m.ty, 0, false)
  let x := if op ≠ 0 ∧ tyFloat m.ty ∧ (valOf m.ty x).isNaN then (fmtOf m.ty).nanCode else x
  putVX 8 (m.build es 1 (fun _ => (x, fl, p || maskPois mask es (256 / es)))) i s

def trigVredadd : VOp := reduce 0
def trigVredmax : VOp := reduce 1
def trigVredmin : VOp := reduce 2

def trigVscan : VOp := fun i d s => do
  let m ← vxMode s i
  needType m (accArith m.ty) (tyFloat m.ty)
  let mask := vxO2 s i
  let es := tyBytes m.ty
  let (l, _) := (present m mask d).foldl (fun (a : List RNode × Option RNode) e =>
    let n : RNode := match e, a.2 with
      | some x, none => x
      | some x, some y => let (v, g) := addNode m y.1 x.1; (v, y.2.1 ||| g, x.2.2 || y.2.2)
      | none, none => (identity 0 m.ty, 0, false)
      | none, some y => y
    (n :: a.1, some n)) ([], none)
  let l := l.reverse
  let (r, _) := m.build es (256 / es) (fun j => let e := l.getD j (0, 0, false); (e.1, 0, e.2.2 || maskPois mask es (j + 1)))
  putVX 8 (r, (l.getLast?.map (fun e => e.2.1)).getD 0) i s

/-! ### Permutes (R270) -/

/-- A permute: each result element from another, with its poison. -/
def permute (f : Nat → Nat → Nat → Nat × Bool) : VOp := fun i _ s => do
  let m ← vxMode s i
  let es := tyBytes m.ty
  putVX 6 (m.build es (256 / es) (fun j => let (b, p) := f es (256 / es) j; (b, 0, p))) i s
/-- An element of a vector and its poison, marked by the poison of a selector. -/
def pick (v : Vc) (es j : Nat) (q : Bool) : Nat × Bool := (elBits v.v es j, elPois v.p es j || q)

def trigVperm : VOp := fun i d s =>
  let o2 := vxO2 s i
  permute (fun es n j => pick d es (elBits o2.v es j % n) (elPois o2.p es j)) i d s
def trigVrot : VOp := fun i d s =>
  permute (fun es n j => pick (vxO1 s i) es (((j : Int) + (vlane d.v 0).toInt) % n).toNat (d.p.getLsbD 0)) i d s
def trigVbcast : VOp := fun i d s => permute (fun es n _ => pick (vxO1 s i) es (lane0 d % n) (d.p.getLsbD 0)) i d s
def trigVzip : VOp := fun i d s => do
  let _ ← vxMode s i
  if 1 < lane0 d then .error (badOp i.code 23)
  else permute (fun es n j =>
    pick (if j % 2 = 0 then vxO1 s i else vxO2 s i) es (j / 2 + lane0 d * (n / 2)) (d.p.getLsbD 0)) i d s
def trigVunzip : VOp := fun i d s => do
  let _ ← vxMode s i
  if 1 < lane0 d then .error (badOp i.code 23)
  else permute (fun es n j =>
    let q := 2 * j + lane0 d
    if q < n then pick (vxO1 s i) es q (d.p.getLsbD 0) else pick (vxO2 s i) es (q - n) (d.p.getLsbD 0)) i d s

/-! ### Transcendentals and rounding to integral (R271) -/

/-- A transcendental by its place in R190's list. -/
def trans (op : Nat) : VOp := fun i d s => do
  let m ← vxMode s i
  needType m (m.ty == 0x42) false
  putVX 12 (m.build 4 64 (fun j =>
    let (x, g) := transc op (fp32.decode (elBits d.v 4 j))
    let (y, h) := roundTo 0x42 0 m.sat x 0
    (y, g ||| h, elPois d.p 4 j))) i s

/-- A value rounded to an integral one of its type, its sign kept. -/
def integral (ty rnd b : Nat) : Nat :=
  match valOf ty b with
  | .nan => (fmtOf ty).nanCode
  | .inf _ => b
  | .fin n m e => if m = 0 then b else (roundTo ty 0 false (.fin n (roundQ rnd n m e 0 0).1 0) 0).1

def roundOp (trunc : Bool) : VOp := fun i d s => do
  let m ← vxMode s i
  needType m (tyFloat m.ty) (!trunc)
  let es := tyBytes m.ty
  putVX 6 (m.build es (256 / es) (fun j =>
    (integral m.ty (if trunc then 1 else m.rnd) (elBits d.v es j), 0, elPois d.p es j))) i s

def trigVtrunc : VOp := roundOp true
def trigVround : VOp := roundOp false

def trigVexp2 : VOp := trans 0
def trigVlog2 : VOp := trans 1
def trigVrcp : VOp := trans 2
def trigVrsq : VOp := trans 3
def trigVsqrt : VOp := trans 4
def trigVsint : VOp := trans 5
def trigVcost : VOp := trans 6

def execVcvt (m : Trig) (s : State) : Out := issueV 0x900 trigVcvt m s
def execVcvtsr (m : Trig) (s : State) : Out := issueV 0x901 trigVcvtsr m s
def execVmxq (m : Trig) (s : State) : Out := issueV 0x902 trigVmxq m s
def execVmxd (m : Trig) (s : State) : Out := issueV 0x903 trigVmxd m s
def execVredadd (m : Trig) (s : State) : Out := issueV 0x904 trigVredadd m s
def execVredmax (m : Trig) (s : State) : Out := issueV 0x905 trigVredmax m s
def execVredmin (m : Trig) (s : State) : Out := issueV 0x906 trigVredmin m s
def execVscan (m : Trig) (s : State) : Out := issueV 0x907 trigVscan m s
def execVperm (m : Trig) (s : State) : Out := issueV 0x908 trigVperm m s
def execVrot (m : Trig) (s : State) : Out := issueV 0x909 trigVrot m s
def execVbcast (m : Trig) (s : State) : Out := issueV 0x90A trigVbcast m s
def execVzip (m : Trig) (s : State) : Out := issueV 0x90B trigVzip m s
def execVunzip (m : Trig) (s : State) : Out := issueV 0x90C trigVunzip m s
def execVpack (m : Trig) (s : State) : Out := issueV 0x90D trigVpack m s
def execVunpk (m : Trig) (s : State) : Out := issueV 0x90E trigVunpk m s
def execVexp2 (m : Trig) (s : State) : Out := issueV 0x90F trigVexp2 m s
def execVlog2 (m : Trig) (s : State) : Out := issueV 0x910 trigVlog2 m s
def execVrcp (m : Trig) (s : State) : Out := issueV 0x911 trigVrcp m s
def execVrsq (m : Trig) (s : State) : Out := issueV 0x912 trigVrsq m s
def execVsqrt (m : Trig) (s : State) : Out := issueV 0x913 trigVsqrt m s
def execVsint (m : Trig) (s : State) : Out := issueV 0x914 trigVsint m s
def execVcost (m : Trig) (s : State) : Out := issueV 0x915 trigVcost m s
def execVtrunc (m : Trig) (s : State) : Out := issueV 0x916 trigVtrunc m s
def execVround (m : Trig) (s : State) : Out := issueV 0x917 trigVround m s

end Sys2Proof.Machine
end

