-- ==== Sys2Proof/Machine/Bundle.lean ====
section
/-! DEFINITION. Bundles of several moves (10 R197 to R202): the trigger of every code (11 R225, R228), and the three rows that issue
a bundle as a whole. -/
namespace Sys2Proof.Machine

/-- The trigger of an S-space code. -/
def sOp (code : Nat) : SOp :=
  match code with
  | 0x200 => trigAdd
  | 0x201 => trigSub
  | 0x202 => trigRsb
  | 0x203 => trigAnd
  | 0x204 => trigOr
  | 0x205 => trigXor
  | 0x206 => trigAndn
  | 0x207 => trigOrn
  | 0x208 => trigXnor
  | 0x209 => trigShl
  | 0x20A => trigShr
  | 0x20B => trigSar
  | 0x20C => trigRol
  | 0x20D => trigRor
  | 0x20E => trigMin
  | 0x20F => trigMax
  | 0x210 => trigMinn
  | 0x211 => trigMaxn
  | 0x212 => trigSxb
  | 0x213 => trigSxh
  | 0x214 => trigSxw
  | 0x215 => trigZxb
  | 0x216 => trigZxh
  | 0x217 => trigZxw
  | 0x218 => trigClz
  | 0x219 => trigCtz
  | 0x21A => trigPopc
  | 0x21B => trigBswap
  | 0x21C => trigBrev
  | 0x21D => trigPass
  | 0x21E => trigAddsat
  | 0x21F => trigSubsat
  | 0x220 => trigSel
  | 0x221 => trigExt
  | 0x222 => trigIns
  | 0x240 => trigAdd
  | 0x241 => trigSub
  | 0x242 => trigRsb
  | 0x243 => trigAnd
  | 0x244 => trigOr
  | 0x245 => trigXor
  | 0x246 => trigAndn
  | 0x247 => trigOrn
  | 0x248 => trigXnor
  | 0x249 => trigShl
  | 0x24A => trigShr
  | 0x24B => trigSar
  | 0x24C => trigRol
  | 0x24D => trigRor
  | 0x24E => trigMin
  | 0x24F => trigMax
  | 0x250 => trigMinn
  | 0x251 => trigMaxn
  | 0x252 => trigSxb
  | 0x253 => trigSxh
  | 0x254 => trigSxw
  | 0x255 => trigZxb
  | 0x256 => trigZxh
  | 0x257 => trigZxw
  | 0x258 => trigClz
  | 0x259 => trigCtz
  | 0x25A => trigPopc
  | 0x25B => trigBswap
  | 0x25C => trigBrev
  | 0x25D => trigPass
  | 0x25E => trigAddsat
  | 0x25F => trigSubsat
  | 0x260 => trigSel
  | 0x261 => trigExt
  | 0x262 => trigIns
  | 0x280 => trigMul
  | 0x281 => trigMulhi
  | 0x282 => trigMulhn
  | 0x283 => trigMac
  | 0x284 => trigDiv
  | 0x285 => trigDivn
  | 0x286 => trigRem
  | 0x287 => trigRemn
  | 0x2A0 => trigEq
  | 0x2A1 => trigNe
  | 0x2A2 => trigLt
  | 0x2A3 => trigLe
  | 0x2A4 => trigLtn
  | 0x2A5 => trigLen
  | 0x2A6 => trigTst
  | 0x2A7 => trigPand
  | 0x2A8 => trigPor
  | 0x2A9 => trigPxor
  | 0x2AA => trigPandn
  | 0x2AB => trigPnot
  | 0x2AC => trigPcnt
  | 0x2AD => trigPfirst
  | 0x2AE => trigPany
  | 0x2AF => trigPall
  | 0x2B0 => trigPlane
  | 0x2B1 => trigPmov
  | 0x2E0 => trigLdb
  | 0x2E1 => trigLdbn
  | 0x2E2 => trigLdh
  | 0x2E3 => trigLdhn
  | 0x2E4 => trigLdw
  | 0x2E5 => trigLdwn
  | 0x2E6 => trigLdd
  | 0x2E7 => trigStb
  | 0x2E8 => trigSth
  | 0x2E9 => trigStw
  | 0x2EA => trigStd
  | 0x2EB => trigFence
  | 0x320 => trigBra
  | 0x321 => trigBrai
  | 0x322 => trigCall
  | 0x323 => trigCalli
  | 0x324 => trigRet
  | 0x325 => trigLoop
  | 0x326 => trigHalt
  | 0x327 => trigTrap
  | 0x328 => trigSys
  | 0x329 => trigTret
  | 0x32A => trigBrk
  | 0x32B => trigSemp
  | 0x32C => trigSemw
  | 0x32D => trigWaitl
  | 0x32E => trigWaita
  | 0x32F => trigSyncm
  | 0x330 => trigOwn
  | 0x331 => trigPhend
  | 0x332 => trigCadst
  | 0x333 => trigCadtk
  | 0x334 => trigRdc
  | 0x335 => trigRdsr
  | 0x336 => trigWrsr
  | 0x337 => trigRwf
  | 0x338 => trigRwe
  | 0x339 => trigRclm
  | 0x33A => trigRfil
  | 0x33B => trigRtak
  | 0x33C => trigRrel
  | 0x33D => trigXnop
  | 0x380 => trigAadd
  | 0x381 => trigAand
  | 0x382 => trigAor
  | 0x383 => trigAxor
  | 0x384 => trigAmin
  | 0x385 => trigAmax
  | 0x386 => trigAminn
  | 0x387 => trigAmaxn
  | 0x388 => trigAswp
  | 0x389 => trigAcas
  | 0x390 => trigAadd
  | 0x391 => trigAand
  | 0x392 => trigAor
  | 0x393 => trigAxor
  | 0x394 => trigAmin
  | 0x395 => trigAmax
  | 0x396 => trigAminn
  | 0x397 => trigAmaxn
  | 0x398 => trigAswp
  | 0x399 => trigAcas
  | 0x3B0 => trigVld
  | 0x3B1 => trigVst
  | 0x3B2 => trigVldx
  | 0x3B3 => trigVstx
  | 0x3B4 => trigVldb
  | 0x3B5 => trigVstb
  | 0x3B6 => trigVldw
  | 0x3C0 => trigXgo
  | 0x3C1 => trigXarm
  | 0x3C2 => trigXst
  | 0x3C3 => trigXabAbort
  | 0x3D0 => trigSwset
  | 0x3D1 => trigSwget
  | 0x3D2 => trigSwoff
  | 0x3E0 => trigXcput
  | 0x3E1 => trigXcget
  | 0x3E2 => trigXcst
  | 0x3F0 => trigCtxsv
  | 0x3F1 => trigCtxld
  | 0x3F2 => trigMckr
  | 0x3F3 => trigSbist
  | 0x3F4 => trigRcfg
  | _ => fun i _ _ => .error (badOp i.code 0)

/-- The trigger of a V-space code. -/
def vOp (code : Nat) : VOp :=
  match code with
  | 0x800 => trigVadd
  | 0x801 => trigVsub
  | 0x802 => trigVmul
  | 0x803 => trigVfma
  | 0x804 => trigVfms
  | 0x805 => trigVfnm
  | 0x806 => trigVmin
  | 0x807 => trigVmax
  | 0x808 => trigVabs
  | 0x809 => trigVneg
  | 0x80A => trigVand
  | 0x80B => trigVor
  | 0x80C => trigVxor
  | 0x80D => trigVandn
  | 0x80E => trigVshl
  | 0x80F => trigVshr
  | 0x810 => trigVsar
  | 0x811 => trigVsel
  | 0x812 => trigVceq
  | 0x813 => trigVcne
  | 0x814 => trigVclt
  | 0x815 => trigVcle
  | 0x816 => trigVclass
  | 0x817 => trigVmov
  | 0x818 => trigVmulh
  | 0x819 => trigVabd
  | 0x880 => trigVadd
  | 0x881 => trigVsub
  | 0x882 => trigVmul
  | 0x883 => trigVfma
  | 0x884 => trigVfms
  | 0x885 => trigVfnm
  | 0x886 => trigVmin
  | 0x887 => trigVmax
  | 0x888 => trigVabs
  | 0x889 => trigVneg
  | 0x88A => trigVand
  | 0x88B => trigVor
  | 0x88C => trigVxor
  | 0x88D => trigVandn
  | 0x88E => trigVshl
  | 0x88F => trigVshr
  | 0x890 => trigVsar
  | 0x891 => trigVsel
  | 0x892 => trigVceq
  | 0x893 => trigVcne
  | 0x894 => trigVclt
  | 0x895 => trigVcle
  | 0x896 => trigVclass
  | 0x897 => trigVmov
  | 0x898 => trigVmulh
  | 0x899 => trigVabd
  | 0x900 => trigVcvt
  | 0x901 => trigVcvtsr
  | 0x902 => trigVmxq
  | 0x903 => trigVmxd
  | 0x904 => trigVredadd
  | 0x905 => trigVredmax
  | 0x906 => trigVredmin
  | 0x907 => trigVscan
  | 0x908 => trigVperm
  | 0x909 => trigVrot
  | 0x90A => trigVbcast
  | 0x90B => trigVzip
  | 0x90C => trigVunzip
  | 0x90D => trigVpack
  | 0x90E => trigVunpk
  | 0x90F => trigVexp2
  | 0x910 => trigVlog2
  | 0x911 => trigVrcp
  | 0x912 => trigVrsq
  | 0x913 => trigVsqrt
  | 0x914 => trigVsint
  | 0x915 => trigVcost
  | 0x916 => trigVtrunc
  | 0x917 => trigVround
  | 0x9C0 => trigVaadd
  | 0x9C1 => trigVaor
  | 0x9C2 => trigVamax
  | 0x9C3 => trigVamin
  | 0x9D0 => trigNbSend 0
  | 0x9D1 => trigNbSend 1
  | 0x9D2 => trigNbSend 2
  | 0x9D3 => trigNbSend 3
  | _ => fun i _ _ => .error (badOp i.code 0)

def allOps : Ops := Ops.mk sOp vOp mxIssue

/-- BUNDLE_ISSUE (R202): a whole bundle takes effect in one issue cycle, or traps. -/
def execBundleIssue (b : Bundle) (s : State) : Out := issue allOps b s

/-- IDLE_BUNDLE (R198): only the header's Wait and Sync have an effect. -/
def execIdleBundle (sync : Bool) (wait : BitVec 4) (check : Bool) (s : State) : Out :=
  issue noOps { sync := sync, wait := wait, check := check, sm := [], vm := [], mx := none, lits := [] } s

/-- MOVE (R200): one guarded move to a destination that is no trigger. -/
def execMove (v : Bool) (m : Trig) (dst : BitVec 12) (s : State) : Out := issue noOps (soloBundle v m dst.toNat) s

end Sys2Proof.Machine
end

