-- ==== Sys2Proof/Machine/Ring.lean ====
section
/-! DEFINITION. The ring (05 R98 to R104, R110 to R119): lanes, stations and bridges in a fabric cycle, the landing of slots, the early
buffer, reductions and flag slots. -/
namespace Sys2Proof.Machine

/-! ### Places on the ring (R98, R99) -/

/-- The logical position of a core and of a bridge station. -/
def posOf (c : Nat) : Nat := 138 * panelOf c + 1 + 16 * (rowOf c % 8) + colOf c % 16
def bridgePos (b : Nat) : Nat := 138 * (b / 2) + if b % 2 = 0 then 0 else 129

/-- The key of the slot that passes a position in fabric cycle `f`: even lanes ascend, odd lanes descend. -/
def laneKey (lane pos f : Nat) : Nat :=
  lane * Config.lap + if lane % 2 = 0 then (pos + Config.lap - f % Config.lap) % Config.lap else (pos + f) % Config.lap

def State.passing (s : State) (lane pos : Nat) : Option Slot :=
  (s.lanes.find? (fun e => e.1 = laneKey lane pos s.now)).map (fun e => e.2)
def State.putLane (s : State) (lane pos : Nat) (z : Slot) : State := { s with lanes := mput s.lanes (laneKey lane pos s.now) z }
def State.clearLane (s : State) (lane pos : Nat) : State := { s with lanes := mdel s.lanes (laneKey lane pos s.now) }

/-- Whether a core's station acts: its core is in an exchange phase (R103). -/
def stationOn (s : State) (c : Nat) : Bool := s.exch c && (s.sittingOf c).isSome

/-- The TDM entry of a table in the present fabric cycle (R102). -/
def tdmAt (p : Nat) (tab : Nat → BitVec 32) (now openF : Nat) : BitVec 32 := if p = 0 then 0 else tab ((now - openF) % p)
def State.tdmEntry (s : State) (c : Nat) : BitVec 32 :=
  let x := s.core c
  if stationOn s c then tdmAt x.tdmP (mget 0 x.tdm) s.now (s.domain (s.coreDom c)).openF else 0
def State.bridgeEntry (s : State) (b : Nat) : BitVec 32 :=
  let d := s.domain ((s.lowest (mget 0 s.btdmDom b)).getD 64)
  if d.exch then tdmAt (mget 0 s.btdmP b) (fun i => mget 0 s.btdm (1024 * b + i)) s.now d.openF else 0

/-- The lanes an entry names: 0 for INJ, 8 for EJ. -/
def lanesOf (e : BitVec 32) (o : Nat) : List Nat := (List.range 8).filter (fun i => e.getLsbD (o + i))

def State.fault (s : State) (c kind land d1 : Nat) : State := s.modCore c (fun x => x.xfault kind land (w64 d1))

/-! ### Flits (R123, R354; log 42) -/

/-- The payload of an exchange flit: a slot's sideband in the model's arrangement, then its data (log 42). Destinations are a rectangle of
cores, and a bit says whether the slot is a multicast one; the address is the physical one on the first of them. -/
def slotPayload (z : Slot) : List Byte :=
  let cols := z.dsts.map colOf
  let rows := z.dsts.map rowOf
  let c0 := cols.foldl min 31
  let r0 := rows.foldl min 31
  let nc := cols.foldl max c0 - c0
  let nr := rows.foldl max r0 - r0
  let (v, a) := z.places.headD (false, 0)
  let d0 := c0 + r0 * 2 ^ 5 + nc * 2 ^ 10 + nr * 2 ^ 15 + z.kind % 4 * 2 ^ 20 + z.land % 32 * 2 ^ 22 + z.op % 4 * 2 ^ 27
    + (if v then 2 ^ 29 else 0) + (if z.mcast then 2 ^ 30 else 0) + z.ty % 256 * 2 ^ 32 + z.n % 256 * 2 ^ 40
  let d3 := z.src % 1024 + z.pois.toNat * 2 ^ 32
  bytesOf 8 d0 ++ bytesOf 8 a ++ bytesOf 8 z.before ++ bytesOf 8 d3 ++ bytesOf 128 z.data.toNat

/-- The ports whose beat marker is due in the present fabric cycle: on every port one in 1,024 flit times, a flit time being 256 bytes at
224 Gb/s on each of the port's good lanes (R123, R357; log 83). -/
def beatPorts (s : State) : List Nat :=
  if s.stage = 0 ∨ s.off then []
  else (List.range 24).filter (fun p =>
    let n := 7 * (s.port p).good
    s.now * n / 81920 != (s.now + 1) * n / 81920)

/-! ### Landing (R112, R113) -/

/-- The region cycle in which what is due two fabric cycles from now is taken, one later by chance where the region is not locked to the
house reference (R101, R112). -/
def landAt (s : State) (c : Nat) : Nat × State :=
  let g := regionOf c
  let w := (s.region g).cyc + (if (regionEdge (s.now + 1) s g).1 then 1 else 0) + 1
  if s.rsrc g = 1 then (w, s) else (w + (if Config.crossLate s.fv then 1 else 0), { s with fv := s.fv + 1 })

/-- Bytes that stand for a counter's tag beyond its arrival count: of reductions begun and of vault slots of which some lines have been
committed. -/
def Core.begun (x : Core) (l tag : Nat) : Nat :=
  (x.reduces.filter (fun z => z.kind = 3 ∧ z.land = l ∧ z.tag = tag)).foldl (fun m z => m + z.n) 0
    + (x.landIds.filter (fun z => z.ctr = l ∧ z.tag = tag)).foldl (fun m z => m + z.left) 0

/-- Whether a slot of `n` bytes lies within its counter's target: no contribution past it is applied (R113). -/
def Core.landFits (x : Core) (l n tag : Nat) : Bool :=
  let q := mget Land.reset x.lands l
  match q.target with
  | none => true
  | some t => decide ((q.arr.getD tag 0).toNat + x.begun l tag + n ≤ t.toNat)

/-- Count landed bytes of a slot, for its counter and for the flags of its sender (R110, R112). -/
def Core.landCount (x : Core) (l n tag src : Nat) : Core :=
  let x := x.landBytes l n (some tag)
  { x with landedFrom := mput x.landedFrom src (mget 0 x.landedFrom src + n) }

/-- The lane poison of bytes `off` to `off + n - 1` of a slot. -/
def Slot.poisAt (z : Slot) (off n : Nat) : Nat := z.pois.toNat / 2 ^ (off / 4) % 2 ^ ((off % 4 + n + 3) / 4)

/-- An element's reduction (R117): operation 0 add, 1 max, 2 min, 3 or. -/
def redEl (op ty a b : Nat) : Nat :=
  let es := tyBytes ty
  if op = 3 then Nat.lor a b
  else if tyInt ty then
    let x := intVal ty a
    let y := intVal ty b
    intBits es (match op with | 0 => x + y | 1 => max x y | _ => min x y)
  else if op = 0 then (roundTo ty 0 false ((valOf ty a).add 0 (valOf ty b)).1 0).1
  else if (valOf ty a).isNaN || (valOf ty b).isNaN then (fmtOf ty).nanCode
  else if op = 1 then maxBits ty a b else minBits ty a b

/-- The reduction of `n` bytes (R117): what stands there, `m`, and the slot's bytes. -/
def redBytes (op ty n m d : Nat) : Nat :=
  let es := max 1 (tyBytes ty)
  (List.range (n / es)).foldl (fun v i => v + redEl op ty (m / 256 ^ (es * i) % 256 ^ es) (d / 256 ^ (es * i) % 256 ^ es) * 256 ^ (es * i)) 0

/-- A slot's line at its commit (R112, R113): the slot is judged whole at its first line, each line is counted; a reduction combines with
what stands there. -/
def landLine (c tag : Nat) (l : LandTo) (e : VPend) (s : State) : State :=
  let x := s.core c
  let q := (x.landIds.find? (fun q => q.id = l.id)).getD ⟨l.id, x.landFits l.ctr l.size tag, l.size, l.ctr, tag⟩
  let rest := x.landIds.filter (fun q => q.id != l.id)
  let x := { x with landIds := if q.left ≤ e.n then rest else rest ++ [{ q with left := q.left - e.n }] }
  let s := s.setCore c (x.landCount l.ctr e.n tag l.src)
  if !q.ok then s
  else
    match l.red with
    | none => s.commitVault c e.addr e.n e.data.toNat e.pois.toNat
    | some (op, ty) =>
      let s := s.eccTouch c true e.addr e.n
      let (m, p) := (s.core c).rdVaultCommitted e.addr e.n
      s.commitVault c e.addr e.n (redBytes op ty e.n m e.data.toNat) (p ||| e.pois.toNat)

/-- A line's commit (R68, R112). -/
def commitLine (c : Nat) (e : VPend) (s : State) : State :=
  match e.land with
  | none => s.commitVault c e.addr e.n e.data.toNat e.pois.toNat
  | some l =>
    match l.tag with
    | none => (s.commitVault c e.addr e.n e.data.toNat e.pois.toNat).modCore c (fun x => x.landBytes l.ctr e.n none)
    | some tag => landLine c tag l e s

/-- The events of an undo log that has come past its threshold, or is full, since core `c` was `x` (R346). -/
def undoEvents (c : Nat) (x : Core) (s : State) : State :=
  let y := s.core c
  let ev (p : Bool) (i : Instr) (s : State) : State := if p then { s with agenda := .ev c i :: s.agenda } else s
  ev (y.undoFull && !x.undoFull) .undoLogOverflow (ev (decide (x.undo.length < 196608) && decide (196608 ≤ y.undo.length)) .undoLogThreshold s)

/-- Vault lines of a slot that lands from cycle `w` on (R112). -/
def landVault (c w a : Nat) (z : Slot) (s : State) : State :=
  s.modCore c (fun x =>
    let id := x.seq + 1
    { x with seq := id, landLines := x.landLines ++ (cutLines a z.n).map (fun l =>
      (w, ⟨0, 4, l.1, l.2.1, BitVec.ofNat 2048 (z.data.toNat / 256 ^ l.2.2 % 256 ^ l.2.1), BitVec.ofNat 64 (z.poisAt l.2.2 l.2.1),
        some ⟨z.land, some z.tag, z.src, if z.kind = 1 then some (z.op, z.ty) else none, id, z.n⟩, 0⟩)) })

/-- The lines that an entry being moved is to take in the port cycles before `lim`, at most `n`, as they follow from the chain (R72,
R109); a line that window bytes are bound for comes 12 cycles after its beat. -/
def xPlan (c lim : Nat) (s : State) (u : XCur) : Nat → List (Nat × Nat × Nat)
  | 0 => []
  | n + 1 =>
    if u.sk ≠ 1 ∧ u.dk ≠ 1 ∨ u.rows ≤ u.row then []
    else
      let p := xPort s c (if u.sk = 2 then u.at_ + 12 else u.at_) u.line
      if lim ≤ p then []
      else
        let e := (p, vaultBank u.line, 4)
        e :: xPlan c lim (s.modCore c (fun x => { x with vport := x.vport ++ [e] })) (u.next (if u.sk = 2 then u.at_ + 1 else p + 1)) n
/-- What the XE is to take within 16 cycles of cycle `t`. -/
def xNextLines (s : State) (c t : Nat) : List (Nat × Nat × Nat) :=
  [(s.core c).lc, (s.core c).xc].flatMap (fun h => match h.cur with | some u => xPlan c (t + 16) s u 16 | none => [])

/-- The landing line that takes the port in cycle `t`: the first one due whose bank allows it (R69, R71, R112; log 90). -/
def landPort (c t : Nat) (s : State) : State :=
  let x := s.core c
  let held := x.vport ++ if x.landLines = [] then [] else xNextLines s c t
  if (slotKind s c t).isSome then s
  else
    match x.landLines.find? (fun l => decide (l.1 ≤ t) && !portBusy held t (vaultBank l.2.addr)) with
    | none => s
    | some l => s.setCore c { x with landLines := x.landLines.erase l, vport := x.vport ++ [(t, vaultBank l.2.addr, 5)],
                                     vpend := x.vpend ++ [{ l.2 with cyc := t + 24 }] }

/-- The station's check of a slot against the segments of its destination's context (R45). -/
def slotFits (x : Core) (n : Nat) (p : Bool × Nat) : Bool :=
  if p.1 then (if x.user then decide (SEGVT_BASE x * 4096 ≤ p.2 ∧ p.2 + n ≤ (SEGVT_BASE x + SEGVT_SIZE x) * 4096) else decide (p.2 + n ≤ Config.vaultBytes))
  else if x.user then decide (SEGSP_BASE x * 64 ≤ p.2 ∧ p.2 + n ≤ (SEGSP_BASE x + SEGSP_SIZE x - SEGSP_CHAIN x) * 64)
  else decide (p.2 + n ≤ Config.scratchBytes)
/-- The physical place of a slot on core `c`, one of its destinations. -/
def slotPlace (x : Core) (c : Nat) (z : Slot) : Option (Bool × Nat) :=
  (z.places[z.dsts.idxOf c]?).filter (slotFits x z.n)

/-- The physical address of a slot that has landed on a core. -/
def Slot.addr (z : Slot) : Nat := (z.places.headD (false, 0)).2

/-- Land a slot from region cycle `w` on; one that fails the station's check is discarded (R45, R112), a contained error that ends in a
rollback or the end of the task (R343). -/
def landSlot (c w : Nat) (z : Slot) (s : State) : State :=
  let s := s.modCore c (fun x => x.mark (z.pois != 0))
  match slotPlace (s.core c) c z with
  | none => ((s.coreError c 8 0x09 1 0 0 0).fault c 7 z.land 0).escalate c 0
  | some (v, a) =>
    let z := { z with dsts := [c], places := [(v, a)], ready := w }
    if z.kind = 2 then s.modCore c (fun x => { x with flagSlots := x.flagSlots ++ [z] })
    else if v then landVault c w a z s
    else if z.kind = 1 then s.modCore c (fun x => { x with reduces := x.reduces ++ [z] })
    else s.modCore c (fun x => { x with landing := x.landing ++ [⟨w, z, false, none⟩] })

/-- The phase tag of a core's exchange phase (R115). -/
def tagOf (s : State) (c : Nat) : Nat := (s.phaseN c).toNat % 4

/-- A slot that its station has taken off the ring in an exchange phase (R115): landed, kept for the next phase, or discarded. -/
def acceptSlot (c : Nat) (z : Slot) (s : State) : State :=
  let t := tagOf s c
  let keep (s : State) : State := s.modCore c (fun x => { x with early := x.early ++ [z] })
  if z.tag = t then
    if z.kind = 1 ∧ (s.core c).early.any (fun e => e.tag == t) then keep s
    else let (w, s) := landAt s c; landSlot c w z s
  else if z.tag = (t + 1) % 4 then keep s
  else s.fault c 6 z.land 0

/-! ### A station in a fabric cycle (R103) -/

/-- SLOT_EJECT at core `here`: slots addressed to it land; others are discarded, but its own that come back, which SLOT_RETURN judges
(log 95: one that meets the rows of kinds 4 and 5 of R103 is of kind 5). -/
def execSlotEject (s : State) : Out :=
  let c := s.here
  let p := posOf c
  .next ((lanesOf (s.tdmEntry c) 8).foldl (fun s i =>
    match s.passing i p with
    | none => s
    | some z =>
      if !z.out ∧ z.dsts.contains c then
        acceptSlot c z (if z.mcast then s.putLane i p { z with marks := z.marks ++ [c] } else s.clearLane i p)
      else if z.inj = p then s
      else (s.clearLane i p).fault c 4 z.land 0) s)

/-- SLOT_RETURN at core `here`: the injector removes its slot and judges it. -/
def execSlotReturn (s : State) : Out :=
  let c := s.here
  let p := posOf c
  .next ((List.range 8).foldl (fun s i =>
    match s.passing i p with
    | none => s
    | some z =>
      if z.inj ≠ p then s
      else if z.mcast && !z.out && z.dsts.all (fun d => z.marks.contains d) then s.clearLane i p
      else (s.clearLane i p).fault c 5 z.land 0) s)

/-- SLOT_INJECT at core `here`: the first ready slot goes to the lowest lane that is named and passes empty; where every named lane is full
it is not injected, and fault kind 8 is recorded (log 38). -/
def execSlotInject (s : State) : Out :=
  let c := s.here
  let p := posOf c
  .next (match (s.core c).xc.ready.find? (fun z => decide (z.ready < s.cyc c)) with
    | none => s
    | some z =>
      let named := lanesOf (s.tdmEntry c) 0
      match named.find? (fun i => (s.passing i p).isNone) with
      | some i => (s.putLane i p { z with inj := p, out := z.dev != s.devOf c }).modCore c (fun x =>
          { x with xc := { x.xc with ready := x.xc.ready.erase z } })
      | none => if named = [] then s else s.fault c 8 z.land 0)

/-! ### Bridges and links (R115, R116, R123) -/

/-- The part a slot comes from. -/
def Slot.from_ (z : Slot) : Nat := z.src / 1024

/-- Deliver the flits that stations take into their early buffers, and discard those of a tag out of turn; the others wait for a bridge.
A flit that a full buffer does not take holds those behind it: of its link, and for its stations (R115). -/
def flitRoute (s : State) : State :=
  (s.flits.foldl (fun (r : State × List Slot) z =>
    let (s, held) := r
    let c := z.dsts.headD 0
    let n := tagOf s c
    let drop (s : State) : State := { s with flits := s.flits.erase z }
    let early := if s.exch c then (n + 1) % 4 else n
    let room := z.dsts.all (fun d => decide (((s.core d).early.foldl (fun m e => m + e.n) 0) + z.n ≤ 65536))
    if held.any (fun y => y.from_ == z.from_ || y.dsts.any z.dsts.contains) then (s, held ++ [z])
    else if z.tag = early then
      if room then (z.dsts.foldl (fun s d => s.modCore d (fun x => { x with early := x.early ++ [z] })) (drop s), held) else (s, held ++ [z])
    else if s.exch c ∧ z.tag = n then (s, held)
    else (z.dsts.foldl (fun s d => s.fault d 6 z.land 0) (drop s), held)) (s, [])).1

/-- The first flit of the present phase that a bridge may inject: none of its link waits before it for a buffer's room (R115). -/
def nextFlit (s : State) : Option Slot :=
  (s.flits.foldl (fun (r : List Nat × Option Slot) z =>
    if r.2.isSome ∨ r.1.contains z.from_ then r
    else if s.exch (z.dsts.headD 0) ∧ z.tag = tagOf s (z.dsts.headD 0) then (r.1, some z)
    else (r.1 ++ [z.from_], none)) ([], none)).2

/-- A bridge station records an exchange fault of its own (R103, R119; log 102). -/
def State.bridgeFault (s : State) (b kind land : Nat) : State := { s with bridgeFaults := s.bridgeFaults ++ [(b, ⟨kind, land, 0⟩)] }

/-- A bridge station in a fabric cycle: it takes slots bound for other parts to their port, if that is up, discards those addressed to
none of its ports, judges its own that return, and injects arrived flits (R103; logs 39, 102). -/
def bridgeStep (b : Nat) (s : State) : State :=
  let e := s.bridgeEntry b
  let p := bridgePos b
  let s := (lanesOf e 8).foldl (fun s i =>
    match s.passing i p with
    | none => s
    | some z =>
      if z.out then (s.clearLane i p).sendFlit (Config.exierPort z.dev % 24) z.dev z.from_ 0 z.tag (slotPayload z)
      else if z.inj = p then s
      else (s.clearLane i p).bridgeFault b 4 z.land) s
  let s := (List.range 8).foldl (fun s i =>
    match s.passing i p with
    | none => s
    | some z =>
      if z.inj ≠ p then s
      else if z.mcast && z.dsts.all (fun d => z.marks.contains d) then s.clearLane i p
      else (s.clearLane i p).bridgeFault b 5 z.land) s
  let lane := (lanesOf e 0).find? (fun i => (s.passing i p).isNone)
  match lane, nextFlit s with
  | some i, some z => { s.putLane i p { z with inj := p } with flits := s.flits.erase z }
  | _, _ => s

/-- The ring in a fabric cycle: flits and bridges, then the stations' jobs. -/
def ringStep (s : State) : State :=
  let s := (List.range 24).foldl portStep (flitRoute s)
  let s := (s.btdmP.map (fun e => e.1)).foldl (fun s b => bridgeStep b s) s
  let on := (s.cores.map (fun e => e.1)).filter (fun c => stationOn s c)
  { s with agenda := (beatPorts s).map (fun p => .ev p .beatMarkerSend)
                    ++ on.flatMap (fun c => [.ev c .slotEject, .ev c .slotReturn, .ev c .slotInject]) ++ s.agenda }

/-! ### Landing writes in the scratchpad (R52, R53, R112) -/

/-- The requests of landings written in cycle `cyc` that do not stand in the schedule yet. -/
def landReqs (x : Core) (cyc seq : Nat) : List EReq :=
  (List.range x.landing.length).flatMap (fun i => match x.landing[i]? with
    | some l => if l.w = cyc ∧ !l.ent then [⟨engUses cyc [(l.slot.addr, l.slot.n)] true 0x0A 0 (if x.user then l.slot.addr - SEGSP_BASE x * 64 else l.slot.addr) 4 (seq + i), (8, i)⟩]
      else []
    | none => [])

def landJudged (c : Nat) (j : EReq × Option (BankE × BankE)) (s : State) : State :=
  s.modCore c (fun x => { x with landing := x.landing.modify j.1.key.2 (fun l =>
    { l with ent := true, bad := j.2.map (fun e => e.1.bank) }) })

/-- Enter the landings of the present cycle that came too late to be entered ahead, and give the port to a landing line. -/
def landEnter (c t : Nat) (s : State) : State :=
  let s := landPort c t s
  let x := s.core c
  let js := judge x.schA (landReqs x t x.seq)
  let s := s.setCore c { enterJudged js x with seq := x.seq + x.landing.length }
  js.foldl (fun s j => landJudged c j s) s

/-- A landed write of a whole slot in the scratchpad: counted, and applied unless it lies past its target (R112, R113). -/
def Core.landWrite (z : Slot) (x : Core) : Core :=
  let ok := x.landFits z.land z.n z.tag
  let x := x.landCount z.land z.n z.tag z.src
  if ok then x.wrScratch z.addr z.n z.data.toNat z.pois.toNat else x

/-- The landing writes of cycle `t`: a refused one is counted all the same (R112). -/
def landWrites (c t : Nat) (s : State) : State :=
  s.modCore c (fun x =>
    let x' := (x.landing.filter (fun l => l.w = t ∧ l.slot.kind ≠ 2)).foldl (fun x l =>
      let z := l.slot
      match l.bad with
      | some b => (x.landCount z.land z.n z.tag z.src).xfault 8 z.land (w64 b)
      | none => x.landWrite z) x
    { x' with landing := x'.landing.filter (fun l => !(l.w == t && l.slot.kind != 2)) })

/-! ### Port B in an exchange phase (R115, R117) -/

/-- A write through port B lies over the pending writes of the RMW unit that were read before it (R59, R115). DESIGN CHOICE: R59 refuses any
other entry of port B for the bank of an RMW in its three cycles, R115 drains the buffer in arrival order before any reduction: a drained
write that meets a drained reduction in flight is performed (log 103). -/
def patchRmw (a n v p : Nat) (x : Core) : Core :=
  { x with rmwW := x.rmwW.map (fun w => (List.range w.n).foldl (fun w j =>
      let q := w.addr + j
      if a ≤ q ∧ q < a + n then
        let d := w.data.toNat
        { w with data := w64 (d - d / 256 ^ j % 256 * 256 ^ j + v / 256 ^ (q - a) % 256 * 256 ^ j), pois := w.pois || p.testBit ((q - a) / 4) }
      else w) w) }

/-- The uses of port B that a slot makes from cycle `t` on: of a reduction for its three cycles, of a drained write for one (R57, R59). -/
def slotUses (x : Core) (t : Nat) (z : Slot) : List BankE :=
  (List.range (if z.kind = 0 then 1 else 3)).flatMap (fun d =>
    engUses (t + d) [(z.addr, z.n)] (z.kind == 0 || d == 2) (if z.kind = 0 then 0x0A else 0x08) 0 (if x.user then z.addr - SEGSP_BASE x * 64 else z.addr) 4 (x.seq + 1))

/-- Enter a slot's uses of port B; those that an indexed lane's entry meets are refused: the slot is counted and not applied, and the
station records kind 8 (R57, R59, R112; log 86). -/
def enterSlot (c t : Nat) (z : Slot) (s : State) : Bool × State :=
  let x := s.core c
  let uses := slotUses x t z
  match uses.find? (fun e => x.schB.any (fun g => g.req == 0x05 && e.meets g)) with
  | some e => (false, s.setCore c ((x.landCount z.land z.n z.tag z.src).xfault 8 z.land (w64 e.bank)))
  | none => (true, s.setCore c { x with schB := x.schB ++ uses, seq := x.seq + 1 })

/-- Begin one reduction (R117): it reads now and writes two cycles later, with the bypass of R59. -/
def reduceBegin (c t : Nat) (z : Slot) (s : State) : State :=
  let es := max 1 (tyBytes z.ty)
  let fits := (s.core c).landFits z.land z.n z.tag
  let s := s.modCore c (fun x => { x with reduces := x.reduces.erase z })
  let (ok, s) := if fits then enterSlot c t z s else (true, s)
  let s := if ok then s.modCore c (fun x => { x with reduces := x.reduces ++ [{ z with kind := 3, ready := t + 2 }] }) else s
  if !fits || !ok then s
  else
    let s := s.eccTouch c false z.addr z.n
    s.modCore c (fun x =>
      { x with rmwW := x.rmwW ++ (List.range (z.n / es)).map (fun i =>
        let a := z.addr + es * i
        let (m, p) := rmwRead x 4 (Flight.done 4 0 false t t none 0 Vc.zero 0) t a es
        ⟨t + 2, a, es, w64 (redEl z.op z.ty m (z.data.toNat / 256 ^ (es * i) % 256 ^ es)), p || z.poisAt (es * i) es != 0, 4, 0⟩) })

/-- EARLY_BUFFER_DRAIN: one slot of the present phase a cycle, in arrival order, through port B (R115): a write is made with the writes of
the cycle (R49), a reduction begins, a flag waits for its bytes. -/
def execEarlyBufferDrain (s : State) : Out :=
  let c := s.here
  let t := s.cyc c
  .next (if !s.exch c then s
    else match (s.core c).early.find? (fun e => e.tag = tagOf s c) with
      | none => s
      | some z =>
        let s := s.modCore c (fun x => { x with early := x.early.erase z })
        match slotPlace (s.core c) c z with
        | some (false, a) =>
          let z := { z with drained := true, dsts := [c], places := [(false, a)], ready := t }
          let s := s.modCore c (fun x => x.mark (z.pois != 0))
          if z.kind = 0 then
            let (ok, s) := enterSlot c t z s
            if ok then s.modCore c (fun x => { x with drains := x.drains ++ [z] }) else s
          else if z.kind = 1 then reduceBegin c t z s
          else s.modCore c (fun x => { x with flagSlots := x.flagSlots ++ [z] })
        | _ => landSlot c t z s)

/-- The drained write of the cycle, the last through port B: counted, and made unless it lies past its target (R49, R113, R115). -/
def drainWrites (x : Core) : Core :=
  x.drains.foldl (fun (x : Core) z =>
    if x.landFits z.land z.n z.tag then patchRmw z.addr z.n z.data.toNat z.pois.toNat (x.landWrite z) else x.landWrite z) { x with drains := [] }

/-- REDUCE_APPLY: reductions whose write this cycle makes are counted; the next begins when the early buffer has been drained (R115,
R117). -/
def execReduceApply (s : State) : Out :=
  let c := s.here
  let t := s.cyc c
  let s := s.modCore c (fun x =>
    let done (z : Slot) : Bool := z.kind == 3 && decide (z.ready ≤ t)
    let x' := { x with reduces := x.reduces.filter (fun z => !done z) }
    (x.reduces.filter done).foldl (fun x z => x.landCount z.land z.n z.tag z.src) x')
  let x := s.core c
  .next (if x.early.any (fun e => e.tag == tagOf s c) ∨ x.drains ≠ [] ∨ x.reduces.any (fun z => z.kind = 3 ∧ z.ready = t + 2) then s
    else match x.reduces.find? (fun z => z.kind = 1 ∧ z.ready ≤ t) with
      | none => s
      | some z => reduceBegin c t z s)

/-- Write a flag. -/
def Core.putFlag (x : Core) (z : Slot) : Core := x.wrScratch z.addr 8 z.data.toNat z.pois.toNat
/-- The flags due in cycle `t`, through port A (R110, R112). -/
def flagsDue (t : Nat) (x : Core) : Core :=
  let x' := (x.landing.filter (fun l => l.w = t ∧ l.slot.kind = 2)).foldl (fun (x : Core) l => match l.bad with
    | some b => x.xfault 8 0 (w64 b)
    | none => x.putFlag l.slot) x
  { x' with landing := x'.landing.filter (fun l => !(l.w == t && l.slot.kind == 2)) }
/-- The flags whose sender's earlier bytes have landed: due in the next cycle; a drained one is written now through port B (R110, R115). -/
def flagsGo (t : Nat) (x : Core) : Core :=
  let (go, stay) := x.flagSlots.partition (fun z => decide (z.before ≤ mget 0 x.landedFrom z.src))
  let x := (go.filter (fun z => z.drained)).foldl (fun (x : Core) z => patchRmw z.addr 8 z.data.toNat 0 (x.putFlag z)) { x with flagSlots := stay }
  { x with landing := x.landing ++ (go.filter (fun z => !z.drained)).map (fun z => ⟨max z.ready (t + 1), z, false, none⟩) }

/-- FLAG_SLOT_WRITE: before the writes of port B the flags due in this cycle, after them those whose bytes have landed (R49, R110, R115). -/
def execFlagSlotWrite (s : State) : Out :=
  let c := s.here
  let t := s.cyc c
  .next (s.modCore c (fun x => if x.wrote = some t then flagsGo t x else flagsDue t x))

end Sys2Proof.Machine
end

