-- ==== Sys2Proof/WellFormed.lean ====
section
/-! DEFINITION. Which instruction terms stand for words of code: a row with an encoding is well formed when its bundle
passes the decoding checks of R204; an event has no encoding and is well formed. -/
namespace Sys2Proof
open Machine

/-- A header with SYNC, WAIT, CHECK and the literals absent. -/
def bareHeader (b : Bundle) : Bool := !b.sync && b.wait == 0 && !b.check && b.lits == []

/-- The counts a header can state (R197). -/
def countsOk (b : Bundle) : Bool :=
  decide (b.sm.length ≤ 6) && (b.vm == [] || b.vm.length == 3) && decide (b.lits.length ≤ 2)

/-- A bundle that is a row of its own: one bare S-move, V-move or matrix command, or no move at all (R198, log 4). -/
def isSolo (b : Bundle) : Bool :=
  match b.sm, b.vm, b.mx with
  | [], [], none => b.lits == []
  | [_], [], none => bareHeader b
  | [], [_, n, n'], none => bareHeader b && isNull n && isNull n'
  | [], [], some _ => bareHeader b
  | _, _, _ => false

/-- A bundle that `bundleIssue` may hold. -/
def bundleWF (b : Bundle) : Bool := countsOk b && (bundleFault b).isNone && !isSolo b

/-- A lone trigger or move (R200, R221). -/
def trigWF (v : Bool) (m : Trig) (code : Nat) : Bool :=
  (codeFault v 0 ⟨m.neg, m.guard, m.src, BitVec.ofNat 12 code⟩).isNone

/-- A lone matrix command (R281, R282). -/
def mxWF (op : Nat) (f : MxF) : Bool := (mxFault ⟨BitVec.ofNat 8 op, f, 0, 0⟩).isNone

/-- The checks of a row. LOOP, SYS and XAB each share their code with a second row: a trigger of code 0x328 or 0x3C3 with
the immediate 1 is the second row, and the words of LOOP_POP are those of LOOP (log 5). -/
def wellFormed (i : Instr) : Bool :=
  match i with
  | .bundleIssue b => bundleWF b
  | .idleBundle _ _ _ => true
  | .move v m d => trigWF v m d.toNat && (trigUnit v d.toNat).isNone
  | .loopPop _ => false
  | .taskService m => m.src == 0x801
  | .xabDisarm m => m.src == 0x801
  | .sys m => trigWF false m 0x328 && m.src != 0x801
  | .xabAbort m => trigWF false m 0x3C3 && m.src != 0x801
  | i => match trigOf i with
    | some (v, m, c) => trigWF v m c
    | none => match mxOf i with
      | some (op, f) => mxWF op f
      | none => true

end Sys2Proof
end

