-- ==== Sys2Proof/Decode.lean ====
section
/-! DEFINITION. The decoder, total on any words and rejecting by name (10 R197 to R207), and the encoder. -/
namespace Sys2Proof
open Machine

/-- Why words are no instruction: the header (R205 with its reason), the moves or matrix words (R206), or too few words. -/
inductive DecodeError where
  | illegalBundle (reason : Nat) (header : BitVec 32)
  | illegalTransport (t : Trap)
  | truncated
deriving DecidableEq, Repr

/-! ### Fields -/

def bitsAt (lo n : Nat) (w : BitVec 32) : BitVec n := w.extractLsb' lo n

def moveOfWord (w : BitVec 32) : MoveWord := ⟨w.getLsbD 31, bitsAt 24 7 w, bitsAt 12 12 w, bitsAt 0 12 w⟩

def wordOfMove (m : MoveWord) : BitVec 32 :=
  BitVec.ofBool m.neg ++ m.guard ++ m.src ++ m.dst

def mxOfWords (w0 w1 w2 w3 w4 w5 : BitVec 32) : MxCmd :=
  { op := bitsAt 24 8 w0, res0 := bitsAt 0 3 w0, res5 := bitsAt 0 4 w5,
    f := { ta := bitsAt 16 8 w0, tb := bitsAt 8 8 w0, acc := bitsAt 5 3 w0, mode := bitsAt 3 2 w0,
           aaddr := bitsAt 16 16 w1, baddr := bitsAt 0 16 w1, astr := bitsAt 16 16 w2, bstr := bitsAt 0 16 w2,
           ks := bitsAt 24 8 w3, gcnt := bitsAt 16 8 w3, gtab := bitsAt 0 16 w3,
           sa := bitsAt 16 16 w4, sb := bitsAt 0 16 w4, wmask := bitsAt 16 16 w5, sig := bitsAt 12 4 w5,
           sel := bitsAt 8 4 w5, bw := w5.getLsbD 7, an := w5.getLsbD 6, scaled := w5.getLsbD 5, osat := w5.getLsbD 4 } }

def wordsOfMx (c : MxCmd) : List (BitVec 32) :=
  let f := c.f
  [ c.op ++ f.ta ++ f.tb ++ f.acc ++ f.mode ++ c.res0, f.aaddr ++ f.baddr, f.astr ++ f.bstr, f.ks ++ f.gcnt ++ f.gtab,
    f.sa ++ f.sb,
    f.wmask ++ f.sig ++ f.sel ++ BitVec.ofBool f.bw ++ BitVec.ofBool f.an ++ BitVec.ofBool f.scaled
      ++ BitVec.ofBool f.osat ++ c.res5 ]

/-- The header word of a bundle (R197). -/
def headerOf (b : Bundle) : BitVec 32 :=
  BitVec.ofNat 3 b.sm.length ++ BitVec.ofBool (b.vm.length == 3) ++ BitVec.ofBool b.mx.isSome
    ++ BitVec.ofNat 2 b.lits.length ++ BitVec.ofBool b.sync ++ b.wait ++ BitVec.ofBool b.check ++ (0 : BitVec 19)

/-- Check 2 of R204: the reason of an illegal bundle (R205). -/
def headerFault (h : BitVec 32) : Option Nat :=
  if bitsAt 0 19 h != 0 then some 1 else if bitsAt 29 3 h == 7 then some 2
  else if bitsAt 25 2 h == 3 then some 3 else none

/-- The row of an S-space trigger code (R225). -/
def ofSTrig (m : Trig) : Nat → Option Instr
  | 0x200 => some (.add m false)
  | 0x201 => some (.sub m false)
  | 0x202 => some (.rsb m false)
  | 0x203 => some (.and m false)
  | 0x204 => some (.or m false)
  | 0x205 => some (.xor m false)
  | 0x206 => some (.andn m false)
  | 0x207 => some (.orn m false)
  | 0x208 => some (.xnor m false)
  | 0x209 => some (.shl m false)
  | 0x20A => some (.shr m false)
  | 0x20B => some (.sar m false)
  | 0x20C => some (.rol m false)
  | 0x20D => some (.ror m false)
  | 0x20E => some (.min m false)
  | 0x20F => some (.max m false)
  | 0x210 => some (.minn m false)
  | 0x211 => some (.maxn m false)
  | 0x212 => some (.sxb m false)
  | 0x213 => some (.sxh m false)
  | 0x214 => some (.sxw m false)
  | 0x215 => some (.zxb m false)
  | 0x216 => some (.zxh m false)
  | 0x217 => some (.zxw m false)
  | 0x218 => some (.clz m false)
  | 0x219 => some (.ctz m false)
  | 0x21A => some (.popc m false)
  | 0x21B => some (.bswap m false)
  | 0x21C => some (.brev m false)
  | 0x21D => some (.pass m false)
  | 0x21E => some (.addsat m false)
  | 0x21F => some (.subsat m false)
  | 0x220 => some (.sel m false)
  | 0x221 => some (.ext m false)
  | 0x222 => some (.ins m false)
  | 0x240 => some (.add m true)
  | 0x241 => some (.sub m true)
  | 0x242 => some (.rsb m true)
  | 0x243 => some (.and m true)
  | 0x244 => some (.or m true)
  | 0x245 => some (.xor m true)
  | 0x246 => some (.andn m true)
  | 0x247 => some (.orn m true)
  | 0x248 => some (.xnor m true)
  | 0x249 => some (.shl m true)
  | 0x24A => some (.shr m true)
  | 0x24B => some (.sar m true)
  | 0x24C => some (.rol m true)
  | 0x24D => some (.ror m true)
  | 0x24E => some (.min m true)
  | 0x24F => some (.max m true)
  | 0x250 => some (.minn m true)
  | 0x251 => some (.maxn m true)
  | 0x252 => some (.sxb m true)
  | 0x253 => some (.sxh m true)
  | 0x254 => some (.sxw m true)
  | 0x255 => some (.zxb m true)
  | 0x256 => some (.zxh m true)
  | 0x257 => some (.zxw m true)
  | 0x258 => some (.clz m true)
  | 0x259 => some (.ctz m true)
  | 0x25A => some (.popc m true)
  | 0x25B => some (.bswap m true)
  | 0x25C => some (.brev m true)
  | 0x25D => some (.pass m true)
  | 0x25E => some (.addsat m true)
  | 0x25F => some (.subsat m true)
  | 0x260 => some (.sel m true)
  | 0x261 => some (.ext m true)
  | 0x262 => some (.ins m true)
  | 0x280 => some (.mul m)
  | 0x281 => some (.mulhi m)
  | 0x282 => some (.mulhn m)
  | 0x283 => some (.mac m)
  | 0x284 => some (.div m)
  | 0x285 => some (.divn m)
  | 0x286 => some (.rem m)
  | 0x287 => some (.remn m)
  | 0x2A0 => some (.eq m)
  | 0x2A1 => some (.ne m)
  | 0x2A2 => some (.lt m)
  | 0x2A3 => some (.le m)
  | 0x2A4 => some (.ltn m)
  | 0x2A5 => some (.len m)
  | 0x2A6 => some (.tst m)
  | 0x2A7 => some (.pand m)
  | 0x2A8 => some (.por m)
  | 0x2A9 => some (.pxor m)
  | 0x2AA => some (.pandn m)
  | 0x2AB => some (.pnot m)
  | 0x2AC => some (.pcnt m)
  | 0x2AD => some (.pfirst m)
  | 0x2AE => some (.pany m)
  | 0x2AF => some (.pall m)
  | 0x2B0 => some (.plane m)
  | 0x2B1 => some (.pmov m)
  | 0x2E0 => some (.ldb m)
  | 0x2E1 => some (.ldbn m)
  | 0x2E2 => some (.ldh m)
  | 0x2E3 => some (.ldhn m)
  | 0x2E4 => some (.ldw m)
  | 0x2E5 => some (.ldwn m)
  | 0x2E6 => some (.ldd m)
  | 0x2E7 => some (.stb m)
  | 0x2E8 => some (.sth m)
  | 0x2E9 => some (.stw m)
  | 0x2EA => some (.std m)
  | 0x2EB => some (.fence m)
  | 0x320 => some (.bra m)
  | 0x321 => some (.brai m)
  | 0x322 => some (.call m)
  | 0x323 => some (.calli m)
  | 0x324 => some (.ret m)
  | 0x325 => some (.loop m)
  | 0x326 => some (.halt m)
  | 0x327 => some (.trap m)
  | 0x328 => some (if m.src = 0x801 then .taskService m else .sys m)
  | 0x329 => some (.tret m)
  | 0x32A => some (.brk m)
  | 0x32B => some (.semp m)
  | 0x32C => some (.semw m)
  | 0x32D => some (.waitl m)
  | 0x32E => some (.waita m)
  | 0x32F => some (.syncm m)
  | 0x330 => some (.own m)
  | 0x331 => some (.phend m)
  | 0x332 => some (.cadst m)
  | 0x333 => some (.cadtk m)
  | 0x334 => some (.rdc m)
  | 0x335 => some (.rdsr m)
  | 0x336 => some (.wrsr m)
  | 0x337 => some (.rwf m)
  | 0x338 => some (.rwe m)
  | 0x339 => some (.rclm m)
  | 0x33A => some (.rfil m)
  | 0x33B => some (.rtak m)
  | 0x33C => some (.rrel m)
  | 0x33D => some (.xnop m)
  | 0x380 => some (.aadd m false)
  | 0x381 => some (.aand m false)
  | 0x382 => some (.aor m false)
  | 0x383 => some (.axor m false)
  | 0x384 => some (.amin m false)
  | 0x385 => some (.amax m false)
  | 0x386 => some (.aminn m false)
  | 0x387 => some (.amaxn m false)
  | 0x388 => some (.aswp m false)
  | 0x389 => some (.acas m false)
  | 0x390 => some (.aadd m true)
  | 0x391 => some (.aand m true)
  | 0x392 => some (.aor m true)
  | 0x393 => some (.axor m true)
  | 0x394 => some (.amin m true)
  | 0x395 => some (.amax m true)
  | 0x396 => some (.aminn m true)
  | 0x397 => some (.amaxn m true)
  | 0x398 => some (.aswp m true)
  | 0x399 => some (.acas m true)
  | 0x3B0 => some (.vld m)
  | 0x3B1 => some (.vst m)
  | 0x3B2 => some (.vldx m)
  | 0x3B3 => some (.vstx m)
  | 0x3B4 => some (.vldb m)
  | 0x3B5 => some (.vstb m)
  | 0x3B6 => some (.vldw m)
  | 0x3C0 => some (.xgo m)
  | 0x3C1 => some (.xarm m)
  | 0x3C2 => some (.xst m)
  | 0x3C3 => some (if m.src = 0x801 then .xabDisarm m else .xabAbort m)
  | 0x3D0 => some (.swset m)
  | 0x3D1 => some (.swget m)
  | 0x3D2 => some (.swoff m)
  | 0x3E0 => some (.xcput m)
  | 0x3E1 => some (.xcget m)
  | 0x3E2 => some (.xcst m)
  | 0x3F0 => some (.ctxsv m)
  | 0x3F1 => some (.ctxld m)
  | 0x3F2 => some (.mckr m)
  | 0x3F3 => some (.sbist m)
  | 0x3F4 => some (.rcfg m)
  | _ => none

/-- The row of a V-space trigger code (R228). -/
def ofVTrig (m : Trig) : Nat → Option Instr
  | 0x800 => some (.vadd m false)
  | 0x801 => some (.vsub m false)
  | 0x802 => some (.vmul m false)
  | 0x803 => some (.vfma m false)
  | 0x804 => some (.vfms m false)
  | 0x805 => some (.vfnm m false)
  | 0x806 => some (.vmin m false)
  | 0x807 => some (.vmax m false)
  | 0x808 => some (.vabs m false)
  | 0x809 => some (.vneg m false)
  | 0x80A => some (.vand m false)
  | 0x80B => some (.vor m false)
  | 0x80C => some (.vxor m false)
  | 0x80D => some (.vandn m false)
  | 0x80E => some (.vshl m false)
  | 0x80F => some (.vshr m false)
  | 0x810 => some (.vsar m false)
  | 0x811 => some (.vsel m false)
  | 0x812 => some (.vceq m false)
  | 0x813 => some (.vcne m false)
  | 0x814 => some (.vclt m false)
  | 0x815 => some (.vcle m false)
  | 0x816 => some (.vclass m false)
  | 0x817 => some (.vmov m false)
  | 0x818 => some (.vmulh m false)
  | 0x819 => some (.vabd m false)
  | 0x880 => some (.vadd m true)
  | 0x881 => some (.vsub m true)
  | 0x882 => some (.vmul m true)
  | 0x883 => some (.vfma m true)
  | 0x884 => some (.vfms m true)
  | 0x885 => some (.vfnm m true)
  | 0x886 => some (.vmin m true)
  | 0x887 => some (.vmax m true)
  | 0x888 => some (.vabs m true)
  | 0x889 => some (.vneg m true)
  | 0x88A => some (.vand m true)
  | 0x88B => some (.vor m true)
  | 0x88C => some (.vxor m true)
  | 0x88D => some (.vandn m true)
  | 0x88E => some (.vshl m true)
  | 0x88F => some (.vshr m true)
  | 0x890 => some (.vsar m true)
  | 0x891 => some (.vsel m true)
  | 0x892 => some (.vceq m true)
  | 0x893 => some (.vcne m true)
  | 0x894 => some (.vclt m true)
  | 0x895 => some (.vcle m true)
  | 0x896 => some (.vclass m true)
  | 0x897 => some (.vmov m true)
  | 0x898 => some (.vmulh m true)
  | 0x899 => some (.vabd m true)
  | 0x900 => some (.vcvt m)
  | 0x901 => some (.vcvtsr m)
  | 0x902 => some (.vmxq m)
  | 0x903 => some (.vmxd m)
  | 0x904 => some (.vredadd m)
  | 0x905 => some (.vredmax m)
  | 0x906 => some (.vredmin m)
  | 0x907 => some (.vscan m)
  | 0x908 => some (.vperm m)
  | 0x909 => some (.vrot m)
  | 0x90A => some (.vbcast m)
  | 0x90B => some (.vzip m)
  | 0x90C => some (.vunzip m)
  | 0x90D => some (.vpack m)
  | 0x90E => some (.vunpk m)
  | 0x90F => some (.vexp2 m)
  | 0x910 => some (.vlog2 m)
  | 0x911 => some (.vrcp m)
  | 0x912 => some (.vrsq m)
  | 0x913 => some (.vsqrt m)
  | 0x914 => some (.vsint m)
  | 0x915 => some (.vcost m)
  | 0x916 => some (.vtrunc m)
  | 0x917 => some (.vround m)
  | 0x9C0 => some (.vaadd m)
  | 0x9C1 => some (.vaor m)
  | 0x9C2 => some (.vamax m)
  | 0x9C3 => some (.vamin m)
  | 0x9D0 => some (.nbSend m 0)
  | 0x9D1 => some (.nbSend m 1)
  | 0x9D2 => some (.nbSend m 2)
  | 0x9D3 => some (.nbSend m 3)
  | _ => none
/-- The row of a lone move (R200, R221). -/
def ofMove (v : Bool) (m : MoveWord) : Instr :=
  let t : Trig := ⟨m.neg, m.guard, m.src⟩
  ((if v then ofVTrig t m.dst.toNat else ofSTrig t m.dst.toNat)).getD (.move v t m.dst)

/-- The row of a matrix command (R207). -/
def ofMx (c : MxCmd) : Option Instr :=
  match c.op.toNat with
  | 0 => some (.mnop c.f) | 1 => some (.mma c.f) | 2 => some (.mmag c.f) | 3 => some (.mzero c.f)
  | 4 => some (.mld c.f) | 5 => some (.msave c.f) | 6 => some (.mcmb c.f) | 7 => some (.mret c.f)
  | _ => none

/-- The row of a bundle: its own where it is one lone move, command or idle form, `bundleIssue` otherwise (log 4). -/
def ofBundle (b : Bundle) : Instr :=
  match b.sm, b.vm, b.mx with
  | [], [], none => if b.lits == [] then .idleBundle b.sync b.wait b.check else .bundleIssue b
  | [m], [], none => if bareHeader b then ofMove false m else .bundleIssue b
  | [], [m, n, n'], none => if bareHeader b && isNull n && isNull n' then ofMove true m else .bundleIssue b
  | [], [], some c => if bareHeader b then (ofMx c).getD (.bundleIssue b) else .bundleIssue b
  | _, _, _ => .bundleIssue b

/-- The bundle a header and its following words spell (R197). -/
def bundleOfWords (h : BitVec 32) (ws : List (BitVec 32)) : Bundle :=
  let s := (bitsAt 29 3 h).toNat
  let v := if h.getLsbD 28 then 3 else 0
  let m := if h.getLsbD 27 then 6 else 0
  { sync := h.getLsbD 24, wait := bitsAt 20 4 h, check := h.getLsbD 19,
    sm := (ws.take s).map moveOfWord, vm := ((ws.drop s).take v).map moveOfWord,
    mx := match (ws.drop (s + v)).take m with
      | [a, b, c, d, e, f] => some (mxOfWords a b c d e f)
      | _ => none,
    lits := (ws.drop (s + v + m)).take (bitsAt 25 2 h).toNat }

/-- Decode the bundle that starts a list of words: the instruction and its length in words. -/
def decode : List (BitVec 32) → Except DecodeError (Instr × Nat)
  | [] => .error .truncated
  | h :: ws => match headerFault h with
    | some r => .error (.illegalBundle r h)
    | none =>
      if ws.length + 1 < headerWords h then .error .truncated
      else
        let b := bundleOfWords h ws
        match bundleFault b with
        | some t => .error (.illegalTransport t)
        | none => .ok (ofBundle b, headerWords h)

/-! ### Encoding -/

def wordsOfBundle (b : Bundle) : List (BitVec 32) :=
  headerOf b :: (b.sm.map wordOfMove ++ b.vm.map wordOfMove ++ (b.mx.map wordsOfMx).getD [] ++ b.lits)

/-- The words of an instruction; none for an event. -/
def encode (i : Instr) : List (BitVec 32) := ((bundleOf i).map wordsOfBundle).getD []

/-! ### The host's table words -/

/-- The words that hold a table row's one word: the idle header itself, or a lone move under its header. -/
def tableLayout (w : BitVec 32) : List (BitVec 32) :=
  if w &&& 0xFE07FFFF == 0 then [w]
  else
    let d := (bitsAt 0 12 w).toNat
    if decide (0x800 ≤ d) || inR 0x400 0x410 d then [0x10000000, w, 0x80000000, 0x80000000] else [0x20000000, w]

/-- The instruction the decoder reads from a table row's bits. -/
def decodeTableWord (_nbits w : Nat) : Option Instr :=
  match decode (tableLayout (BitVec.ofNat 32 w)) with
  | .ok (i, _) => some i
  | .error _ => none

end Sys2Proof
end

