-- ==== Sys2Proof/Machine/Cycle.lean ====
section
/-! DEFINITION. One cycle of a core: what begins it, the engines' entries in the bank schedules, lock-step and collisions, the brushes'
turns, the banks, the ends of waits, ownership transfers, retirement (01 R18; 03 R49 to R59; 08 R162 to R169, R175; log 6). -/
namespace Sys2Proof.Machine

/-! ### The beginning of a cycle -/

/-- The errors of registers, latches, accumulators and ring state that the environment has placed (R338, R341; log 17): their keys from 2^43.
Number 2^23 and up are rings; below it a brush's registers and latches, the vector registers, the shared latches, the accumulators. -/
def regKey : Nat := 2 ^ 43

/-- The mark of an uncorrectable error in a register, latch or accumulator: of its lane or element (R341). -/
def poisonReg (k : Nat) (x : Core) : Core :=
  let n := k % 4096
  let lane (i : Nat) : BitVec 64 := BitVec.ofNat 64 (2 ^ (i % 64))
  let x := if k < 2 ^ 14 then
      x.modBrush (k / 4096) (fun y =>
        if n < 64 then writeS y n (scMark (readS y n))
        else if n < 192 then writeP y (n - 64) (scMark (readP y (n - 64)))
        else if n < 256 then { y with lat := mput y.lat (n - 192) (scMark (mget Sc.zero y.lat (n - 192))) }
        else if n < 384 then { y with vlat := mput y.vlat ((n - 256) / 64) (vcMark (lane n) (mget Vc.zero y.vlat ((n - 256) / 64))) }
        else y)
    else if k < 2 ^ 20 then x
    else if k < 2 ^ 20 + 49152 then
      let r := (k - 2 ^ 20) / 64
      { x with v := mset Vc.zero x.v r (vcMark (lane k) (mget Vc.zero x.v r)) }
    else if k < 2 ^ 21 then
      let r := (k - 2 ^ 20) / 64 - 768
      { x with vlat := mput x.vlat r (vcMark (lane k) (mget Vc.zero x.vlat r)) }
    else if k < 2 ^ 21 + 8192 then
      let a := (k - 2 ^ 21) / 1024
      let z := mget Acc.zero x.accs a
      { x with accs := mset Acc.zero x.accs a { z with p := z.p ||| BitVec.ofNat 1024 (2 ^ (k % 1024)) } }
    else if k < 2 ^ 22 then { x with slat := mput x.slat (k - 2 ^ 21 - 8192) (scMark (mget Sc.zero x.slat (k - 2 ^ 21 - 8192))) }
    else x
  { x with created := true }

/-- The register or port code of such a key (R339): of an accumulator its number (log 17). -/
def regCode (k : Nat) : Nat :=
  let n := k % 4096
  let port (v : Bool) (d : Dst) : Nat :=
    (((List.range 4096).find? (fun code => decide ((if v then vOperand code else sOperand code) = some d) || decide ((if v then vResult code else sResult code) = some d)))).getD 0
  if k < 2 ^ 14 then
    if n < 192 then n else if n < 256 then port false (.ps (n - 192)) else port true (.pv ((n - 256) / 64))
  else if k < 2 ^ 20 + 49152 then (k - 2 ^ 20) / 64
  else if k < 2 ^ 21 then port true (.vs ((k - 2 ^ 20) / 64 - 768))
  else if k < 2 ^ 21 + 8192 then (k - 2 ^ 21) / 1024
  else port false (.ss (k - 2 ^ 21 - 8192))

/-- The errors of a core's registers, latches, accumulators and rings are found at the beginning of a cycle (R338). -/
def regTouch (c : Nat) (s : State) : State :=
  ((s.core c).ecc.filter (fun e => decide (regKey ≤ e.1))).foldl (fun s e =>
    let k := e.1 - regKey
    let ring := decide (2 ^ 23 ≤ k)
    let s := s.coreError c (if ring then 4 else 2) (if ring then 0x05 else 0x03) (if e.2 = 1 then 0 else 1)
      (w64 (if ring then 0 else regCode k)) (if k < 2 ^ 14 then k / 4096 else 0) (if ring then 0 else regCode k)
    s.modCore c (fun x =>
      let x := { x with ecc := mdel x.ecc e.1 }
      if e.2 = 1 ∨ ring then x else poisonReg k x)) s

/-- Marked traps become pending, system registers and the sync mask take their new values (R167, R256), and counters are as the cycle
before left them (R112). CYCLE counts for a sitting that has been launched (R254). -/
def beginCycle (c : Nat) (s : State) : State :=
  (regTouch c (s.hold c)).modCore c (fun x =>
    let x := (List.range 4).foldl (fun x b => applyReg b x) x
    { x with
      brushes := x.brushes.map (fun y => { y with pend := y.pend ++ y.pendNew, pendNew := [] }),
      syncm := x.syncmWr.getD x.syncm, syncmWr := none,
      landSeen := x.lands.map (fun e => (e.1, e.2.count)), clash := [], shadow := [], follow := [], commitNow := [], syncGo := false })

/-- Deliver one result (R231): its latch, its flags, VX.ys. A residue error of the environment marks it (R341, log 17). -/
def deliver (c b : Nat) (f : Flight) (s : State) : State :=
  let hit := (s.core c).glitch == 1 && f.dst.isSome
  let s := if hit then s.coreError c 5 0x06 1 (w64 f.pc) b f.code else s
  s.modCore c (fun x =>
    -- the whole result is marked: lane 0 alone of a latch that holds a doubleword
    let lanes : BitVec 64 := match f.dst with | some (.vs _) => BitVec.allOnes 64 | some (.pv _) => BitVec.allOnes 64 | _ => 1
    let res : Vc := if hit then vcMark lanes f.res else f.res
    let x := match f.dst with | some d => setLat x b d res | none => x
    let x := if f.wys then setLat x b (.vs 16) ⟨f.ys.setWidth 2048, if f.ysP then 1 else 0⟩ else x
    let x := { x with glitch := if hit then 0 else x.glitch, created := x.created || (f.dst.isSome && res.p != 0) || (f.wys && f.ysP) }
    x.modBrush b (fun y => { y with flags := y.flags ||| f.flags, flights := y.flights.filter (fun g => g.seq != f.seq) }))

/-- RESULT_COMPLETE: the results of the present cycle, in issue order. -/
def execResultComplete (s : State) : Out :=
  let c := s.here
  let t := s.cyc c
  .next ((List.range 4).foldl (fun s b =>
    ((s.brush c b).flights.filter (fun f => decide (f.due ≤ t) && f.pieces == [] && f.slots == [])).foldl (fun s f => deliver c b f s) s) s)

/-- VAULT_COMMIT: lines whose commit falls in the present cycle; landed bytes are counted (R68, R112). -/
def execVaultCommit (s : State) : Out :=
  let c := s.here
  let t := s.cyc c
  let x := s.core c
  let now := (s.core c).vpend.filter (fun e => decide (e.cyc ≤ t))
  let s := s.modCore c (fun x => { x with commitNow := now.map (fun e => e.brush), vpend := x.vpend.filter (fun e => decide (t < e.cyc)) })
  .next (undoEvents c x (now.foldl (fun s e => commitLine c e s) s))

/-- Fills, releases, posts and publishes of core `c` whose earlier accesses are performed by this cycle (R128, R133); a publish waits for
those to crossing slots (R300). -/
def releasesTake (c : Nat) (s : State) : State :=
  let t := s.cyc c
  (s.core c).rels.foldl (fun s r =>
    let x := s.core c
    let ready := match r.kind with
      | .publish _ _ => x.slotsPerformed r.brush r.seq t
      | _ => x.performed r.brush r.seq t false
    if r.seq = 0 ∨ !ready then s
    else
      let s := s.modCore c (fun x => { x with rels := x.rels.filter (fun q => q != r) })
      let setSlot (n j v : Nat) : State := s.modCore c (fun x =>
        let g := mget Ring.reset x.rings n
        { x with rings := mput x.rings n { g with st := lset g.st j v } })
      match r.kind with
      | .fill n j => setSlot n j 2
      | .free n j => setSlot n j 0
      | .semp n => if mget 0 x.sems n = 0xFFFF then s.markTrap c r.brush (badOp 0x32B 20) else s.modCore c (fun x => x.semInc n)
      | .publish slot v => markPublish c r.brush slot v s) s

/-- RELEASE_TAKES_EFFECT on core `here`. -/
def execReleaseTakesEffect (s : State) : Out := .next (releasesTake s.here s)

/-! ### Fetching a bundle (R33, R65, R204, R342) -/

def codeKey (b w : Nat) : Nat := 2 ^ 42 + b * 16384 + w

/-- The instruction a brush would issue next, or the trap of fetching or decoding it. -/
def fetchBundle (s : State) (c b : Nat) : Except Trap Instr :=
  let x := s.core c
  let w := (x.brush b).pc
  let n := lenAt x b w
  match fetchTrap x b w n with
  | some t => .error t
  | none =>
    if (List.range n).any (fun j => mget 0 x.ecc (codeKey b (w + j)) == 2) then .error (poisonTrap x (w64 w) 5)
    else match decode ((List.range n).map (fun j => (x.iword b (w + j)).w)) with
      | .ok (i, _) => .ok i
      | .error (.illegalBundle r h) => .error ⟨0x01, w64 w, h.setWidth 64, w64 r, 0, false, 0⟩
      | .error (.illegalTransport t) => .error t
      | .error .truncated => .error (mkTrap 0x03 (w64 w) 16384 0)

/-- The errors in the words of a bundle that is fetched are recorded (R338). -/
def codeTouch (c b : Nat) (s : State) : State :=
  let x := s.core c
  let w := (x.brush b).pc
  let k := codeKey b w
  (x.ecc.filter (fun e => decide (k ≤ e.1) && decide (e.1 < k + lenAt x b w))).foldl (fun s e =>
    s.coreError c 3 0x04 (if e.2 = 1 then 0 else 1) (w64 w) b 0) s

/-- Pending traps that may be taken: those marked at a boundary wait for the compute phase (R161, R343). -/
def State.takeable (s : State) (c : Nat) (y : Brush) : List Trap :=
  y.pend.filter (fun p => !(s.exch c && (p.code == 0x1B || (p.code == 0x1A && p.d1 == 7))))

/-- Whether a debugger holds a brush (R362; log 108). -/
def State.halted (s : State) (c b : Nat) : Bool := mget 0 s.dbgHeld (4 * c + b) == 1
/-- A brush takes its turn: one that a debugger steps is held again. -/
def State.stepped (s : State) (c b : Nat) : State :=
  if mget 0 s.dbgHeld (4 * c + b) = 2 then { s with dbgHeld := mput s.dbgHeld (4 * c + b) 1 } else s

/-- Whether a brush would issue in the present cycle but for lock-step. -/
def canIssue (s : State) (c b : Nat) : Bool :=
  let y := s.brush c b
  !s.halted c b && y.run == .running && decide (y.nextAt ≤ s.cyc c) && (s.takeable c y == [] || y.trapped.isSome) && !s.frozen c && !(s.core c).later

/-- Whether its bundle carries the Sync bit to a brush of the mask; a trapped brush ignores it (R166, R318). -/
def isSync (s : State) (c b : Nat) : Bool :=
  let x := s.core c
  let y := x.brush b
  x.syncm.getLsbD b && y.trapped.isNone && (x.iword b y.pc).w.getLsbD 24

/-- Whether a cadence holds its bundle in this cycle (R149): it would not issue. -/
def cadHolds (s : State) (c b : Nat) : Bool :=
  match fetchBundle s c b with
  | .ok i => match bundleOf i with
    | some bd => (cadHold (issOf bd { s with cur := (c, b) }) (bundleMoves bd) s).isSome
    | none => false
  | .error _ => false

/-- SYNC_ISSUE: whether every brush of the mask presents a sync bundle in this cycle, one that will trap too (R166, R204). -/
def execSyncIssue (s : State) : Out :=
  let c := s.here
  let m := (s.core c).syncm
  let go := m != 0 && (List.range 4).all (fun b => !m.getLsbD b || (canIssue s c b && isSync s c b && !cadHolds s c b))
  .next (s.modCore c (fun x => { x with syncGo := go }))

/-! ### What the engines enter -/

/-- The entries of MT and the XE for two cycles ahead, made before the brushes' (R52). -/
def engineEntries (c : Nat) (s : State) : State :=
  let s := xGen c 1 (xGen c 0 s)
  let x := s.core c
  let cyc := s.cyc c + 2
  let mr := mtReqs x cyc
  let m := mtEReqs x cyc x.seq mr
  let n := mr.length + 1
  let l := xReqs s c 0 cyc (x.seq + n)
  let n := n + 2 * x.lc.ops.length + x.lc.effs.length + 4
  let e := xReqs s c 1 cyc (x.seq + n)
  let n := n + 2 * x.xc.ops.length + x.xc.effs.length + 4
  let w := landReqs x cyc (x.seq + n)
  let n := n + x.landing.length
  let js := judge x.schA (m ++ l ++ e ++ w)
  let s := s.setCore c { enterJudged js x with seq := x.seq + n }
  let s := (js.take m.length).foldl (fun s j => mtRefuse c cyc j s) s
  let s := ((js.drop m.length).take l.length).foldl (fun s j => xJudged c 0 j s) s
  let s := ((js.drop (m.length + l.length)).take e.length).foldl (fun s j => xJudged c 1 j s) s
  (js.drop (m.length + l.length + e.length)).foldl (fun s j => landJudged c j s) s

/-- A start that a semaphore of this cycle's bundles allows (log 30): its accesses are entered after them, the bundles that meet them
having been refused (R52). -/
def mtLate (c : Nat) (s : State) : State :=
  let n := (s.core c).mtRun.length
  let s := mtStart c s
  let x := s.core c
  let cyc := s.cyc c + 2
  let rs := (mtReqs x cyc).filter (fun r => decide (n ≤ r.1) && decide (r.1 < 100))
  let (js, s) := judgeLate c (mtEReqs x cyc x.seq rs) s
  js.foldl (fun s j => mtRefuse c cyc j s) (s.modCore c (fun z => { z with seq := x.seq + rs.length }))

/-- A start of the matrix engine and a window beat that follow the bundles of the cycle. -/
def lateStart (c : Nat) (s : State) : State :=
  if s.frozen c then s
  else
    let s := mtLate c s
    let s := xWindow c 1 (xWindow c 0 s)
    xLateFetch c 1 (xLateFetch c 0 s)

/-! ### What the brushes of a cycle would enter -/

/-- A bundle tried before its cycle: its trap, or its new uses of the two ports, its vector registers, its trap after, the engines'
entries of the cycle that its own engine entry would refuse, and whether a parity error strikes it. -/
structure Dry where
  b : Nat
  sync : Bool
  err : Option Trap
  after : Option Trap
  a : List BankE
  pb : List BankE
  vs : List Nat
  gone : List BankE
  struck : Bool
deriving DecidableEq, Repr

/-- A state with the bank schedules of another. -/
def State.withSched (s : State) (c : Nat) (x0 : Core) : State := s.modCore c (fun x => { x with schA := x0.schA, schB := x0.schB, shadow := x0.shadow })
/-- The engine entries that have been refused since the schedules stood as in `x0`: new copies among those set aside. -/
def goneSince (x0 x : Core) : List BankE := x.shadow.drop x0.shadow.length

/-- Try a brush's bundle after those of lower brushes, against the schedules as they stood before the brushes' entries (R52): what it would
enter, and the state it leaves. A bundle that fails by itself enters nothing (log 98). -/
def dryRun (x0 : Core) (c b : Nat) (s : State) : Dry × State :=
  let s := s.withSched c x0
  let none_ (t : Trap) : Dry × State := (⟨b, isSync s c b, some t, none, [], [], [], [], false⟩, s)
  match fetchBundle s c b with
  | .error t => none_ t
  | .ok i => match bundleOf i with
    | none => none_ (badOp 0 0)
    | some bd =>
      let s := { s with cur := (c, b) }.started
      let k := issOf bd s
      let hit := (strikeOf s c b (bundleMoves bd)).isSome
      match effects allOps k bd s with
      | .error t => let (d, s) := none_ t; ({ d with struck := hit }, s)
      | .ok s' =>
        let x' := s'.core c
        (⟨b, isSync s c b, none, (s'.brush c b).after, x'.schA.filter (fun e => !x0.schA.contains e), x'.schB.drop x0.schB.length,
          (bd.vm.filter (fun m => !isNull m && decide (m.dst.toNat < 0x300))).map (fun m => m.dst.toNat), goneSince x0 x', hit⟩,
         releasesTake c (finishIssue k (s.core c).seq s'))

/-- Try the brushes in ascending order (R250); those of `out` trap, and leave no effect. -/
def dryAll (c : Nat) (bs out : List Nat) (s : State) : List Dry × State :=
  bs.foldl (fun a b =>
    let (d, z) := dryRun (s.core c) c b a.2
    let z := if out.contains b || d.err.isSome then a.2 else z
    (a.1 ++ [d], if d.struck then z.modCore c (fun x => { x with glitch := 0 }) else z)) ([], s)

/-- Whether an entry is an engine's. -/
def BankE.engine (e : BankE) : Bool := e.req == 6 || e.req == 7

/-- The trap a brush meets from the others of its cycle: two brush entries that meet refuse both, an engine's stands (R52, R53); one
vector register written twice (R203), of several such the first in the order of the trapping brush's own moves (DESIGN CHOICE; log 106). -/
def meetTrap (k0 : Nat) (ds : List Dry) (d : Dry) : Option Trap :=
  let others := ds.filter (fun e => e.b != d.b)
  let find (port : Bool) (mine theirs : List BankE) : Option Trap :=
    mine.findSome? (fun e =>
      if e.engine then none
      else (theirs.find? (fun f => e.shares f && !(port && e.req == 8 && f.req == 8))).map (fun f => conflictTrap port (e.cyc - k0) e f))
  match others.findSome? (fun e => find false d.a e.a) with
  | some t => some t
  | none =>
  match others.findSome? (fun e => find true d.pb e.pb) with
  | some t => some t
  | none =>
    (d.vs.find? (fun r => others.any (fun e => e.vs.contains r))).map (fun r =>
      mkTrap 0x07 (w64 r) (w64 (bitsFrom 4 (fun b => ds.any (fun e => e.b == b && e.vs.contains r)))) 0)

/-- The engine entries that follow the bundles which left state `z`, which stand against the brushes' of the cycle, and those they refuse
(R52). -/
def lateUses (x0 : Core) (c : Nat) (z : State) : List BankE × List BankE :=
  let x := (lateStart c (z.withSched c x0)).core c
  (x.schA.filter (fun e => e.engine && !x0.schA.contains e), goneSince x0 x)
/-- A core whose engine entries `dead`, made before the bundles of the cycle, are refused by one that follows them. -/
def Core.without (x : Core) (dead : List BankE) : Core :=
  { x with schA := x.schA.filter (fun e => !dead.contains e), shadow := x.shadow ++ dead }
def meetLate (k0 : Nat) (l : List BankE) (d : Dry) : Option Trap :=
  d.a.findSome? (fun e => if e.engine then none else (l.find? (fun f => e.meets f)).map (fun f => conflictTrap false (e.cyc - k0) e f))

/-- The brushes of a cycle that trap by their own or each other's bundles, or by an engine entry that follows them. `out` are those found so
far; `stuck` those refused by an entry that would not be made without their bundle (log 30); `dead` the engines' entries that others,
which follow the bundles, refuse with themselves. Each round tries the bundles that are left; it ends when a round finds the same. -/
def cycleTraps (c : Nat) (bs : List Nat) (s : State) : Nat → List Nat → List (Nat × Trap) → List BankE →
    List Dry × List (Nat × Trap) × List BankE × List BankE
  | 0, _, stuck, dead => ((dryAll c bs [] s).1, stuck, dead, [])
  | n + 1, out, stuck, dead =>
    let x0 := (s.core c).without dead
    let (ds, z) := dryAll c bs out (s.setCore c x0)
    let ts := ds.filterMap (fun d => ((stuck.find? (fun e => e.1 == d.b)).map (fun e => e.2)).orElse (fun _ =>
      d.err.orElse (fun _ => meetTrap x0.k0 ds d)) |>.map (fun t => (d.b, t)))
    let free := ds.filter (fun d => !ts.any (fun e => e.1 == d.b))
    let (l, gone) := lateUses x0 c z
    let late := free.filterMap (fun d => (meetLate x0.k0 l d).map (fun t => (d, t)))
    let own := late.filter (fun e => (meetLate x0.k0 (lateUses x0 c (dryAll c bs (e.1.b :: out) (s.setCore c x0)).2).1 e.1).isNone)
    let name (e : Dry × Trap) : Nat × Trap := (e.1.b, e.2)
    let stuck' := stuck ++ own.map name
    let ts' := ts ++ (if own = [] then late else own).map name
    let gone := gone ++ (ds.filter (fun d => !out.contains d.b)).flatMap (fun d => d.gone)
    let dead' := (s.core c).schA.filter gone.contains
    if ts'.map (fun e => e.1) = out ∧ dead' = dead then (ds, ts', dead, gone) else cycleTraps c bs s n (ts'.map (fun e => e.1)) stuck' dead'

/-- Refuse the engine entries `dead` of the present cycle, each with the entry among `gone` that it meets. -/
def refuseDead (c : Nat) (dead gone : List BankE) (s : State) : State :=
  let met := dead.filterMap (fun g => (gone.find? (fun e => !dead.contains e && e.meets g)).map (fun e => (g, e)))
  let firsts := met.foldl (fun (l : List (BankE × BankE)) p => if l.any (fun q => q.1.sameAccess p.1) then l else l ++ [p]) []
  firsts.foldl (fun s p => engRefuse c p.1 p.2 s) (s.modCore c (fun x => x.without dead))

/-- Try the bundles of a cycle and mark the brushes that trap, by their own bundles, which then enter nothing (log 98), or by what the
others do, the partners of a trapping lock-step issue, and those that follow a trap after its bundle (R53, R166). -/
def preIssue (c : Nat) (s : State) : State :=
  if s.frozen c then s
  else
    let s := engineEntries c s
    let bs := (List.range 4).filter (fun b => canIssue s c b && (!isSync s c b || (s.core c).syncGo))
    let (ds, traps, dead, gone) := cycleTraps c bs s 12 [] [] []
    let s := refuseDead c dead gone s
    let x := s.core c
    let gang := if x.syncGo then (ds.filter (fun d => d.sync)).map (fun d => d.b) else []
    let part (bs : List Nat) (t : Trap) : List (Nat × Trap) := bs.map (fun b => (b, { t with part := true }))
    match traps.find? (fun e => gang.contains e.1) with
    | some (_, t) => s.setCore c { x with clash := traps ++ part (gang.filter (fun b => !traps.any (fun e => e.1 == b))) t }
    | none =>
      let go := ds.filter (fun d => gang.contains d.b)
      s.setCore c { x with clash := traps, follow := match go.findSome? (fun d => d.after) with
        | none => []
        | some t => part ((go.filter (fun d => d.after.isNone)).map (fun d => d.b)) t }

/-- The parity error that strikes a brush's bundle, if one does: it is recorded once the bundle has run or trapped (R338, R341; log 17). -/
def parityJob (c b : Nat) (s : State) : List Job :=
  match fetchBundle s c b with
  | .ok i => match bundleOf i with
    | some bd => (strikeOf s c b (bundleMoves bd)).toList.map (fun e => .parity c b e.2.dst.toNat)
    | none => []
  | .error _ => []
def parityRecord (c b dst : Nat) (s : State) : State :=
  (s.coreError c 7 0x08 1 (w64 dst) b dst).modCore c (fun x => { x with glitch := 0, created := true })

/-- The turn of a brush (R310, R311): a pending trap first, lowest code first; else its bundle, unless it is held. -/
def turn (c b : Nat) (s : State) : State :=
  let t := s.cyc c
  let y := s.brush c b
  let trap (t : Trap) (s : State) : State := let s := s.stepped c b; { s with agenda := .ev c (.trapEntry c b t) :: s.agenda }
  let waiting := match y.run with | .waiting _ => true | _ => false
  if s.frozen c ∨ s.halted c b then s
  else if (s.takeable c y) != [] && y.trapped.isNone && decide (y.resumeAt ≤ t) && (waiting || (y.run == .running && decide (y.nextAt ≤ t))) then
    let code := (s.takeable c y).foldl (fun m p => min m p.code) 0x10000
    match (s.takeable c y).find? (fun p => p.code = code) with
    | some p => trap p (s.modBrush c b (fun y => { y with pend := y.pend.erase p }))
    | none => s
  else if !canIssue s c b || (isSync s c b && !(s.core c).syncGo) then s
  else
    let s := codeTouch c b s
    let hit := parityJob c b s
    match (s.core c).clash.find? (fun e => e.1 = b) with
    | some (_, t) => let s := trap t s; { s with agenda := hit ++ s.agenda }
    | none => match fetchBundle s c b with
      | .error t => trap t s
      | .ok _ =>
        let s := s.stepped c b
        let after : List Job := ((s.core c).follow.filter (fun e => e.1 = b)).map (fun e => .ev c (.trapEntry c b e.2))
        { s with cur := (c, b), busy := true, agenda := hit ++ after ++ s.agenda }

/-- TRAP_ENTRY (R312). -/
def execTrapEntry (c b : Nat) (t : Trap) (s : State) : Out := .next (takeTrap c b t (gangOf s c b) s)

/-! ### The banks of a cycle (R49) -/

/-- Port A reads, vault and window reads of a cycle; the forwarded ones wait for the writes (R56). -/
def banks (c : Nat) (s : State) : State :=
  let t := s.cyc c
  let s := landEnter c t s
  let x := s.core c
  let s := performAll (fun f q => !f.store && !isIdxCode f && !isForwarded x f q) c t s
  if s.frozen c then xReads c 1 t (xReads c 0 t s) else mtReads c t (xReads c 1 t (xReads c 0 t s))

/-- INDEXED_LANE: lane reads before the writes of the cycle, lane writes after them (R63). -/
def execIndexedLane (s : State) : Out :=
  let c := s.here
  let t := s.cyc c
  let late := (s.core c).wrote == some t
  .next (performAll (fun f _ => isIdxCode f && f.store == late) c t s)

/-- Writes that units have under way in the scratchpad (R91, R306). -/
def unitWrites (c t : Nat) (s : State) : State :=
  s.modCore c (fun x =>
    let x' := (x.engW.filter (fun w => w.cyc = t)).foldl (fun x w => x.wrScratch w.addr w.n w.data.toNat w.pois.toNat) x
    { x' with engW := x'.engW.filter (fun w => w.cyc != t) })

/-- SCRATCHPAD_WRITE: the writes of a cycle through port A, then what R56 forwards, then those of port B (R49). -/
def execScratchpadWrite (s : State) : Out :=
  let c := s.here
  let t := s.cyc c
  let s := performAll (fun f _ => f.store && !isIdxCode f) c t s
  let s := xWrites c 1 t (xWrites c 0 t s)
  let s := landWrites c t (unitWrites c t (if s.frozen c then s else mtWrites c t s))
  let s := performAll (fun f _ => !f.store && !isIdxCode f) c t s
  .next ((rmwWrites c t s).modCore c (fun x => { drainWrites x with wrote := some t }))

/-! ### The ends of waits (R18) -/

/-- The brush goes on; its next bundle issues from the next cycle. -/
def wake (c b : Nat) (s : State) : State := s.modBrush c b (fun y => { y with run := .running })

/-- One brush's wait at the end of a cycle. A poisoned doubleword never satisfies waita (R249). -/
def waitStep (c b : Nat) (s : State) : State :=
  let x := s.core c
  let y := x.brush b
  let t := s.cyc c
  let when_ (p : Bool) (s : State) : State := if p then wake c b s else s
  if t < y.resumeAt then s
  else match y.run with
  | .waiting w => match w with
    | .sem n => if mget 0 x.sems n = 0 then s else wake c b (s.modCore c (fun x => { x with sems := mput x.sems n (mget 0 x.sems n - 1) }))
    | .land n k => when_ (decide ((mget 0 x.landSeen n - k).toNat < 2 ^ 31)) s
    | .mem a v =>
      let s := s.eccTouch c false a 8
      let (m, p) := (s.core c).rdScratch a 8
      when_ (p == 0 && w64 m == v) s
    | .ringFilled n => let r := mget Ring.reset x.rings n; when_ (r.st.getD r.c 0 == 2) s
    | .ringFree n => let r := mget Ring.reset x.rings n; when_ (r.st.getD r.p 0 == 0) s
    | .fence q => when_ (x.performed b q t true) s
    | .cad due => when_ (decide (due ≤ t + 1)) s
    | .phase _ => when_ (s.exch c) s
    | .until u => when_ (decide (u ≤ t)) s
    | .gang r =>
      let members := match y.trapped with | some v => v.gang | none => []
      let ready (j : Nat) : Option Nat := match (x.brush j).run with | .waiting (.gang q) => some q | _ => none
      if members.isEmpty then trapReturn c b r s
      else if members.all (fun j => (ready j).isSome) then
        let q := members.foldl (fun m j => max m ((ready j).getD 0)) r
        members.foldl (fun s j => trapReturn c j q s) s
      else s
    | _ => s
  | _ => s

/-- WAIT_END: semaphores go to the brushes in ascending order, after the matrix engine's head (R248). -/
def execWaitEnd (s : State) : Out :=
  let c := s.here
  .next (if s.frozen c then s else (List.range 4).foldl (fun s b => waitStep c b s) s)

/-! ### Ownership transfers (R169) -/

/-- Whether a unit's work is done in cycle `t`, before its bundles. -/
def unitDone (s : State) (c t u : Nat) : Bool :=
  let x := s.core c
  let fl := x.brushes.flatMap (fun y => y.flights)
  let done (f : Flight) : Bool := f.pieces.all (fun q => decide (q.cyc ≤ t)) && f.slots == [] && decide (f.due ≤ t)
  -- a line is delivered in its cycle `wr`; one bound for the vault is committed in that of its place past the port
  let port (h : Chain) : Bool := h.cur.any (fun u => u.sk == 1 || u.dk == 1) || h.ops.any (fun o => o.dk == 1 || ((o.sk == 1 || o.dk == 5) && decide (t < o.wr)))
  match u with
  | 0 | 1 | 2 | 3 => fl.all (fun f => !f.ofUnit u || done f)
  | 4 => (List.range 4).all (fun side => match linkTo c side with
      | none => true
      | some d => (s.core d).nbArr.all (fun e => e.2.1 != nbPort side || decide (e.1 ≤ s.cyc d)))
  | 5 => x.mtq.isEmpty && x.mtRun.isEmpty
  | 6 => !x.lc.run
  | 7 => x.swset.isNone
  | 9 => x.vpend.isEmpty && !port x.lc && !port x.xc && decide (x.vdone ≤ t) && fl.all (fun f => !f.ofUnit 9 || done f)
  | _ => true

def setOwner (own : BitVec 21) (u o : Nat) : BitVec 21 :=
  let (n, lo) := if u = 9 then (7, 18) else (3, 2 * u)
  (own &&& ~~~(BitVec.ofNat 21 (n * 2 ^ lo))) ||| BitVec.ofNat 21 (o * 2 ^ lo)

/-- OWN_TRANSFER_COMPLETE: units whose work is done have their new owner in this cycle. -/
def execOwnTransferComplete (s : State) : Out :=
  let c := s.here
  .next ((s.core c).moving.foldl (fun s m =>
    if unitDone s c (s.cyc c) m.1 then
      s.modCore c (fun x => { x with own := setOwner x.own m.1 m.2.1, moving := x.moving.filter (fun q => q != m) })
    else s) s)

/-! ### Arrival and retirement (R164, R165, R175) -/

def mtOf (x : Core) (b : Nat) : Nat := ((x.mtq ++ x.mtRun).filter (fun q => q.brush = b)).length
def chainOf (x : Core) (b : Nat) : Bool := x.lc.run && x.lc.brush == b

/-- BRUSH_ARRIVAL: a brush at phend whose commands and chains are done, and whose accesses were by the cycle before, as for a fence, parks, or
waits for its exchange phase (R164). Of this cycle nothing has been performed yet but vault commits. -/
def execBrushArrival (s : State) : Out :=
  let c := s.here
  let t := s.cyc c
  .next (if s.frozen c then s else (List.range 4).foldl (fun s b =>
    let x := s.core c
    match (x.brush b).run with
    | .waiting (.phend q xact) =>
      if mtOf x b = 0 ∧ !chainOf x b ∧ x.performed b q (t - 1) true ∧ !x.commitNow.contains b ∧ (x.brush b).resumeAt ≤ t then
        s.modBrush c b (fun y => { y with arrived := true, xact := xact, run := if xact then .waiting (.phase false) else .parked })
      else s
    | _ => s) s)

/-- Whether a brush's commit group has work left: a send of its neighbour unit that has not landed is of it (R169). -/
def groupBusy (s : State) (c b : Nat) : Bool :=
  let x := s.core c
  (x.brush b).flights != [] || x.rmwW.any (fun w => w.brush == b) || x.vpend.any (fun e => e.brush == b)
    || x.swset.any (fun z => z.brush == b) || x.engW.any (fun w => w.brush == b) || (ownerOf x.own 4 == b && !unitDone s c (s.cyc c) 4)

/-- Traps marked for a brush that has halted go to the lowest one that has not (R311). -/
def redirect (c : Nat) (s : State) : State :=
  (List.range 4).foldl (fun s b =>
    let y := s.brush c b
    if y.run = .halted then (y.pend ++ y.pendNew).foldl (fun s t => s.markTrap c b t) (s.modBrush c b (fun y => { y with pend := [], pendNew := [] }))
    else s) s

/-- RETIREMENT_DRAIN: entries of the tracker drain, and a brush at halt halts when its work has room (R175). -/
def execRetirementDrain (s : State) : Out :=
  let c := s.here
  let busy (b : Nat) : Bool := groupBusy s c b
  let s := s.modCore c (fun x =>
    let one (b : Nat) : List Retire :=
      let mine := x.tracker.filter (fun e => e.brush = b)
      let m := (mine.filter (fun e => e.kind = 2)).length
      (mine.filter (fun e => (e.kind == 0 && busy b) || (e.kind == 1 && chainOf x b))) ++ List.replicate (min m (mtOf x b)) ⟨b, 2⟩
    { x with tracker := (List.range 4).flatMap one })
  .next (redirect c ((List.range 4).foldl (fun s b =>
    let x := s.core c
    match (x.brush b).run with
    | .waiting .halt =>
      let need := (if busy b then [(⟨b, 0⟩ : Retire)] else []) ++ (if chainOf x b then [⟨b, 1⟩] else []) ++ List.replicate (mtOf x b) ⟨b, 2⟩
      if x.tracker.length + need.length ≤ 16 ∧ !s.frozen c ∧ (x.brush b).resumeAt ≤ s.cyc c then
        s.modCore c (fun x => { x with
          tracker := x.tracker ++ need,
          syncm := x.syncm &&& ~~~(BitVec.ofNat 4 (2 ^ b)), syncmWr := x.syncmWr.map (fun m => m &&& ~~~(BitVec.ofNat 4 (2 ^ b))) }.modBrush b
            (fun y => { y with run := .halted, loops := [] }))
      else s
    | _ => s) s))

/-! ### The end of a cycle -/

/-- Vector registers take their new values (R203), what is past is dropped, chains settle, CYCLE counts on (R254). -/
def endCycle (c : Nat) (s : State) : State :=
  let t := s.cyc c
  let live := match s.sittingOf c with | some z => z.launched && !z.saved | none => false
  s.modCore c (fun (x : Core) =>
    let done (f : Flight) : Bool := f.dst.isNone && f.pieces == [] && f.slots == [] && decide (f.due ≤ t)
    let x : Core := { x with
      cycle := if live then x.cycle + 1 else x.cycle,
      v := x.vwr.foldl (fun (m : Map Vc) (e : Nat × Vc) => mset Vc.zero m e.1 e.2) x.v, vwr := [],
      brushes := x.brushes.map (fun y => { y with flights := y.flights.filter (fun f => !done f) }),
      schA := x.schA.filter (fun e => decide (t < e.cyc)), schB := x.schB.filter (fun e => decide (t < e.cyc)),
      vport := x.vport.filter (fun e => decide (t < e.1 + 16)), swOld := x.swOld.filter (fun e => decide (t < e.upto)) }
    (x.setChain 0 (xSettle x.lc)).setChain 1 (xSettle x.xc))

/-- What xst and xcst return of the state at the end of a cycle (R296, R301). -/
def statusOf (s : State) (c g code sel : Nat) : Option Word :=
  if code = 0x3C2 then some (xStatus (s.core c) sel) else if code = 0x3E2 then some (xcStatus s g sel) else none

/-- The status results of cycle `t` that a trap of that cycle has captured take their value in the record (R312). -/
def statusRecords (s : State) (c g t b : Nat) (x : Core) : Core :=
  match (x.brush b).trapped with
  | none => x
  | some v =>
    if v.x ≠ t then x
    else (List.range v.caps.length).foldl (fun x i =>
      let a := Config.frameBase + 512 * b + 0xE0 + 24 * i
      let d0 := rdBytes x.mem a 8
      if (v.caps.getD i ⟨0, 0, false, false, 0⟩).t ≠ t ∨ d0 / 2 ^ 12 % 2 = 1 then x
      else match statusOf s c g (d0 % 4096) (rdBytes x.mem (a + 8) 8) with
        | some w => { x with mem := wrBytes x.mem (a + 8) w.toNat 8 }
        | none => x) x

/-- The end of a region's cycle: crossings publish and are got from, and the status results of XE and XC are taken (R296, R300, R301). -/
def regionEnd (g : Nat) (s : State) : State :=
  let s := xingEnd g s
  let t := (s.region g).cyc
  (s.cores.map (fun e => e.1)).foldl (fun s c =>
    if regionOf c ≠ g then s
    else
      let x := s.core c
      let fix (f : Flight) : Flight :=
        if f.vsp || f.t != t then f
        else match statusOf s c g f.code f.d.toNat with
          | some w => { f with res := scVc ⟨w, false⟩ }
          | none => f
      let x := (List.range 4).foldl (fun x b => statusRecords s c g t b x) x
      s.setCore c { x with brushes := x.brushes.map (fun y => { y with flights := y.flights.map fix }) }) s

/-- The jobs of a core's cycle, in order (log 6). A frozen sitting's engines stand (R171). -/
def coreJobs (s : State) (c : Nat) : List Job :=
  let f := s.frozen c
  let ev (i : Instr) : Job := .ev c i
  let eng (l : List Job) : List Job := if f then [] else l
  [.beginCycle c, ev .resultComplete, ev .nbArrival, ev .vaultCommit, ev .releaseTakesEffect]
  ++ [ev .xeFlagSemEffect] ++ eng [ev .matrixComplete, ev .matrixStart]
  ++ [ev .ownTransferComplete, ev .swsetWrite]
  ++ eng [ev .syncIssue, .preIssue c,
          .turn c 0, ev .releaseTakesEffect, .turn c 1, ev .releaseTakesEffect, .turn c 2, ev .releaseTakesEffect, .turn c 3, ev .releaseTakesEffect,
          .lateStart c]
  ++ [ev .brushArrival, ev .refreshSlot, ev .hostSlot, .banks c] ++ eng [ev .mmagTableCheck, ev .xeEntryFetch]
  ++ [ev .rmwSlot, ev .indexedLane, ev .earlyBufferDrain, ev .reduceApply, ev .flagSlotWrite, ev .scratchpadWrite, ev .indexedLane, ev .flagSlotWrite,
      ev .waitEnd, ev .retirementDrain, .endCycle c]

end Sys2Proof.Machine
end

