-- ==== Sys2Proof/Machine/Crypto.lean ====
section
/-! DEFINITION. SHA-512 and RSASSA-PSS, the schemes of R360 and R361; the vendor's key is the part's (log 16). -/
namespace Sys2Proof.Machine

/-! ### SHA-512 -/

/-- The round constants, sixteen rounds a row. -/
def shaK : List (BitVec 64) :=
  [0x428A2F98D728AE22, 0x7137449123EF65CD, 0xB5C0FBCFEC4D3B2F, 0xE9B5DBA58189DBBC,
    0x3956C25BF348B538, 0x59F111F1B605D019, 0x923F82A4AF194F9B, 0xAB1C5ED5DA6D8118,
    0xD807AA98A3030242, 0x12835B0145706FBE, 0x243185BE4EE4B28C, 0x550C7DC3D5FFB4E2,
    0x72BE5D74F27B896F, 0x80DEB1FE3B1696B1, 0x9BDC06A725C71235, 0xC19BF174CF692694]
  ++ [0xE49B69C19EF14AD2, 0xEFBE4786384F25E3, 0x0FC19DC68B8CD5B5, 0x240CA1CC77AC9C65,
    0x2DE92C6F592B0275, 0x4A7484AA6EA6E483, 0x5CB0A9DCBD41FBD4, 0x76F988DA831153B5,
    0x983E5152EE66DFAB, 0xA831C66D2DB43210, 0xB00327C898FB213F, 0xBF597FC7BEEF0EE4,
    0xC6E00BF33DA88FC2, 0xD5A79147930AA725, 0x06CA6351E003826F, 0x142929670A0E6E70]
  ++ [0x27B70A8546D22FFC, 0x2E1B21385C26C926, 0x4D2C6DFC5AC42AED, 0x53380D139D95B3DF,
    0x650A73548BAF63DE, 0x766A0ABB3C77B2A8, 0x81C2C92E47EDAEE6, 0x92722C851482353B,
    0xA2BFE8A14CF10364, 0xA81A664BBC423001, 0xC24B8B70D0F89791, 0xC76C51A30654BE30,
    0xD192E819D6EF5218, 0xD69906245565A910, 0xF40E35855771202A, 0x106AA07032BBD1B8]
  ++ [0x19A4C116B8D2D0C8, 0x1E376C085141AB53, 0x2748774CDF8EEB99, 0x34B0BCB5E19B48A8,
    0x391C0CB3C5C95A63, 0x4ED8AA4AE3418ACB, 0x5B9CCA4F7763E373, 0x682E6FF3D6B2B8A3,
    0x748F82EE5DEFB2FC, 0x78A5636F43172F60, 0x84C87814A1F0AB72, 0x8CC702081A6439EC,
    0x90BEFFFA23631E28, 0xA4506CEBDE82BDE9, 0xBEF9A3F7B2C67915, 0xC67178F2E372532B]
  ++ [0xCA273ECEEA26619C, 0xD186B8C721C0C207, 0xEADA7DD6CDE0EB1E, 0xF57D4F7FEE6ED178,
    0x06F067AA72176FBA, 0x0A637DC5A2C898A6, 0x113F9804BEF90DAE, 0x1B710B35131C471B,
    0x28DB77F523047D84, 0x32CAAB7B40C72493, 0x3C9EBE0A15C9BEBC, 0x431D67C49C100D4C,
    0x4CC5D4BECB3E42B6, 0x597F299CFC657E2A, 0x5FCB6FAB3AD6FAEC, 0x6C44198C4A475817]

/-- The initial hash value. -/
def shaInit : List (BitVec 64) :=
  [0x6A09E667F3BCC908, 0xBB67AE8584CAA73B, 0x3C6EF372FE94F82B, 0xA54FF53A5F1D36F1,
   0x510E527FADE682D1, 0x9B05688C2B3E6C1F, 0x1F83D9ABFB41BD6B, 0x5BE0CD19137E2179]

/-- One round on the working variables a to h, with the round's constant and schedule word added. -/
def shaRound (l : List (BitVec 64)) (kw : BitVec 64) : List (BitVec 64) :=
  match l with
  | [a, b, c, d, e, f, g, h] =>
    let t1 := h + (e.rotateRight 14 ^^^ e.rotateRight 18 ^^^ e.rotateRight 41) + ((e &&& f) ^^^ (~~~e &&& g)) + kw
    let t2 := (a.rotateRight 28 ^^^ a.rotateRight 34 ^^^ a.rotateRight 39) + ((a &&& b) ^^^ (a &&& c) ^^^ (b &&& c))
    [t1 + t2, a, b, c, d + t1, e, f, g]
  | l => l

/-- The schedule word after the sixteen of a window, oldest first. -/
def shaNext (w : List (BitVec 64)) : BitVec 64 :=
  let x (i : Nat) : BitVec 64 := w.getD i 0
  ((x 14).rotateRight 19 ^^^ (x 14).rotateRight 61 ^^^ x 14 >>> 6) + x 9 + ((x 1).rotateRight 1 ^^^ (x 1).rotateRight 8 ^^^ x 1 >>> 7) + x 0

/-- A number from bytes, the most significant first. -/
def beNat (l : List Byte) : Nat := l.foldl (fun a b => 256 * a + b.toNat) 0
/-- The `n` bytes of a number, the most significant first. -/
def beBytes (n v : Nat) : List Byte := (bytesOf n v).reverse

/-- One block of 128 bytes into the hash value. -/
def shaBlock (h : List (BitVec 64)) (bs : List Byte) : List (BitVec 64) :=
  let w := (List.range 16).map (fun i => w64 (beNat ((bs.drop (8 * i)).take 8)))
  let r := shaK.foldl (fun (a : List (BitVec 64) × List (BitVec 64)) k => (shaRound a.1 (k + a.2.getD 0 0), a.2.drop 1 ++ [shaNext a.2])) (h, w)
  (List.range 8).map (fun i => h.getD i 0 + r.1.getD i 0)

/-- The first `n` blocks of a padded message. -/
def shaBlocks : Nat → List (BitVec 64) → List Byte → List (BitVec 64)
  | 0, h, _ => h
  | n + 1, h, l => shaBlocks n (shaBlock h (l.take 128)) (l.drop 128)

/-- SHA-512 of a byte string: the digest's first byte is its most significant. -/
@[irreducible] def sha512 (l : List Byte) : BitVec 512 :=
  let z := (239 - l.length % 128) % 128
  let m := l ++ 0x80 :: List.replicate z 0 ++ beBytes 16 (8 * l.length)
  BitVec.ofNat 512 ((shaBlocks (m.length / 128) shaInit m).foldl (fun a w => 2 ^ 64 * a + w.toNat) 0)

/-- The digest as bytes. -/
def shaBytes (l : List Byte) : List Byte := beBytes 64 (sha512 l).toNat

/-! ### RSASSA-PSS with RSA-4096, MGF1 over SHA-512 and a salt of 64 bytes -/

/-- `n` bits of the exponent `e`, the lowest first, of a power of `b` modulo `m`. -/
def powMod (m : Nat) : Nat → Nat → Nat → Nat
  | 0, _, _ => 1 % m
  | n + 1, b, e =>
    let r := powMod m n (b * b % m) (e / 2)
    if e % 2 = 1 then b * r % m else r

/-- `n` bytes of the mask of a seed. -/
def mgf1 (seed : List Byte) (n : Nat) : List Byte :=
  ((List.range ((n + 63) / 64)).flatMap (fun i => shaBytes (seed ++ beBytes 4 i))).take n

/-- Whether an encoded message of 512 bytes, 4,095 bits, is one of a body. -/
def pssOk (em body : List Byte) : Bool :=
  let mdb := em.take 447
  let h := (em.drop 447).take 64
  let db := (List.range 447).map (fun i => mdb.getD i 0 ^^^ (mgf1 h 447).getD i 0)
  let db := db.set 0 (db.getD 0 0 &&& 0x7F)
  let salt := db.drop 383
  em.getD 511 0 == 0xBC && !(mdb.getD 0 0).getLsbD 7 && (db.take 382).all (· == 0) && db.getD 382 0 == 1
    && h == shaBytes (List.replicate 8 0 ++ shaBytes body ++ salt)

/-- Whether a signature is the vendor's of a body (R360): the key's digest is the one in ROM, and RSASSA-PSS accepts. -/
@[irreducible] def verifies (body sig : List Byte) : Bool :=
  let (n, e) := Config.rsaKey Config.vendorKey
  sha512 Config.vendorKey == Config.romDigest && decide (sig.length = 512) && decide (beNat sig < n)
    && pssOk (beBytes 512 (powMod n 4096 (beNat sig) e)) body

end Sys2Proof.Machine
end

