-- ==== Sys2Proof/Machine/Phase.lean ====
section
/-! DEFINITION. Phases (08 R160 to R172): the sequencer of a domain, exchange phases, boundaries, budgets; checkpoints, rollback and
pre-emption (16 R322; 18 R342 to R349). -/
namespace Sys2Proof.Machine

/-! ### Sittings and arrival (R165) -/

/-- Whether a sitting's cores belong to a domain. -/
def inDomain (s : State) (d : Nat) (z : Sitting) : Bool := z.cores.any (fun c => s.coreDom c == d)
/-- The sittings that step with a domain. -/
def State.stepping (s : State) (d : Nat) : List Sitting :=
  s.sittings.filter (fun z => z.launched && !z.frozen && !z.early && inDomain s d z)
/-- The sittings placed in a domain and not yet launched. -/
def State.newcomers (s : State) (d : Nat) : List Sitting := s.sittings.filter (fun z => !z.launched && !z.saved && inDomain s d z)
/-- Whether a core has arrived: its brushes have, and the work of halted ones is done (R134, R165); of a pair, in its run (R174). -/
def coreArrived (x : Core) : Bool := !x.later && x.alive.all (fun b => (x.brush b).arrived) && x.tracker == []
/-- Whether the phases of a domain open on messages from another part (R160). -/
def multiPart (s : State) (d : Nat) : Bool := (s.stepping d).any (fun z => decide (1 < z.parts))

/-- Fabric cycles that `n` cycles of a region take. -/
def fabricOf (s : State) (g n : Nat) : Nat := let (a, b) := s.pace g; (n * b + a - 1) / max 1 a

/-- The fabric time of an opening 16 fabric cycles after `f`, one region cycle later by chance where the region is not locked to the house
reference (R160). -/
def openTime (d f : Nat) (s : State) : Nat × State :=
  if s.rsrc d = 1 then (f + 16, s)
  else (f + 16 + (if Config.crossLate s.fv then fabricOf s d 1 else 0), { s with fv := s.fv + 1 })

/-! ### Sequencers of several parts (R160, R344; log 83) -/

/-- This part's job device and the number of parts of the job whose phases a domain steps through. -/
def jobOf (s : State) (d : Nat) : Option (Nat × Nat) :=
  ((s.stepping d).find? (fun z => decide (1 < z.parts))).map (fun z => (leBytes z.task.rec_ 0x70 2, z.parts))
/-- Send a message: 0 an arrival, 1 the end of an exchange phase, 2 a boundary, 3 the end of a boundary's steps. -/
def State.sendMessage (s : State) (dst src kind : Nat) (n : Word) : State :=
  s.sendFlit (Config.exierPort dst % 24) dst src 2 (n.toNat % 4) (Config.message kind n.toNat)
/-- A message stands among those heard. -/
def Domain.hear (m : Domain) (e : Nat × Nat × Nat) : Domain := if m.heard.contains e then m else { m with heard := m.heard ++ [e] }

/-- The part tells the sequencer of job device 0, which may be its own, that it is ready for the next step. -/
def tellStep (d kind : Nat) (s : State) : State :=
  match jobOf s d with
  | none => s
  | some (dev, _) =>
    let m := s.domain d
    if m.told then s
    else if dev = 0 then s.modDomain d (fun m => { m.hear (kind, 0, m.n.toNat) with told := true })
    else (s.sendMessage 0 dev kind m.n).modDomain d (fun m => { m with told := true })
/-- Whether job device 0 has heard every part. -/
def allHeard (s : State) (d kind : Nat) : Bool :=
  match jobOf s d with
  | none => false
  | some (dev, parts) => dev == 0 && (List.range parts).all (fun k => (s.domain d).heard.contains (kind, k, (s.domain d).n.toNat))
/-- Job device 0 answers every part with a boundary message; what it has heard of a later step stands. -/
def answerParts (d kind : Nat) (s : State) : State :=
  match jobOf s d with
  | none => s
  | some (_, parts) =>
    let s := (List.range parts).foldl (fun s k => if k = 0 then s else s.sendMessage k 0 2 (s.domain d).n) s
    s.modDomain d (fun m => { m with heard := m.heard.filter (fun e => e.1 != kind || e.2.2 != m.n.toNat), told := false })
/-- A step of a domain that this part is ready for: it goes on at once within one part, and across parts when every part is ready. -/
def meetStep (d kind : Nat) (go : State → State) (s : State) : State :=
  if !multiPart s d then go s
  else
    let s := tellStep d kind s
    if allHeard s d kind then go (answerParts d kind s) else s

/-- A boundary message at a part that has told its sequencer: its next step happens now, a phase opening with the openings of this fabric
cycle. -/
def boundaryHeard (d : Nat) (s : State) : State :=
  let m := s.domain d
  if !m.told then s
  else
    let s := s.modDomain d (fun m => { m with told := false, heard := [] })
    if m.exch ∧ m.closing = 0 then { s with agenda := .ev d .exchangePhaseEnd :: s.agenda } else s.modDomain d (fun m => { m with nextF := some s.now })

/-- A management message from another part: of the domain whose phase it names; a part may already be in the next one. -/
def hearMessage (src : Nat) (payload : List Byte) (s : State) : State :=
  (s.domains.map (fun e => e.1)).foldl (fun s d =>
    match jobOf s d with
    | none => s
    | some (dev, _) =>
      let n := (s.domain d).n.toNat
      let names (e : Nat × Nat) : Bool := payload.take (Config.message e.1 e.2).length == Config.message e.1 e.2
      match [(0, n), (1, n), (2, n), (3, n), (0, n + 1), (1, n + 1), (3, n + 1)].find? names with
      | none => s
      | some (2, _) => if dev = 0 then s else boundaryHeard d s
      | some (k, p) => if dev = 0 then s.modDomain d (fun m => m.hear (k, src, p)) else s) s

/-! ### Counters at the end of an exchange phase (R113, R114) -/

/-- Judge one core's counters under the closing tag. -/
def counterFaults (tag : Nat) (x : Core) : Core :=
  x.lands.foldl (fun (x : Core) (e : Nat × Land) =>
    let arr := e.2.arr.getD tag 0
    match e.2.target with
      | none => if arr = 0 then x else x.xfault 3 e.1 (arr.setWidth 64)
      | some t => if t < arr then x.xfault 2 e.1 (t ++ arr) else if arr < t then x.xfault 1 e.1 (t ++ arr) else x) x
/-- After the judgement the closing tag's arrivals return to 0 and the targets to none, and what else belongs to the phase goes. -/
def clearCounters (tag : Nat) (x : Core) : Core :=
  { x with lands := x.lands.map (fun e => (e.1, { e.2 with arr := lset e.2.arr tag 0, target := none })), landedFrom := [] }
def judgeCounters (tag : Nat) (x : Core) : Core := clearCounters tag (counterFaults tag x)

/-- Whether the slots a core has sent are off the ring, and what has landed on it is written, committed and reduced. -/
def offRing (s : State) (c : Nat) : Bool :=
  let x := s.core c
  x.landing.isEmpty && x.landLines.isEmpty && x.reduces.isEmpty && x.drains.isEmpty && x.vpend.isEmpty && x.rmwW.isEmpty
    && !s.lanes.any (fun e => e.2.inj == posOf c)
/-- The same, and nothing that came early for the phase of a tag is left. -/
def landed (s : State) (c tag : Nat) : Bool := offRing s c && !(s.core c).early.any (fun z => z.tag == tag)

/-- Whether a core has nothing left of its exchange phase. -/
def exchDone (s : State) (c : Nat) : Bool :=
  let x := s.core c
  let tag := tagOf s c
  !x.xc.run && !x.xc.stop && landed s c tag && x.landIds.isEmpty && x.flagSlots.isEmpty
    && x.lands.all (fun e => match e.2.target with | none => true | some t => decide (t ≤ e.2.arr.getD tag 0))

/-! ### Opening an exchange phase (R105, R109, R160, R294) -/

/-- Open it on one core. -/
def exchOpenCore (c : Nat) (s : State) : State :=
  let o := s.cyc c + 1
  s.modCore c (fun x =>
    let chain := match x.armed with
      | some (a, snap) => if x.alive = [] then Chain.reset
          else { Chain.reset with run := true, ptr := a, addr := a, fetchAt := some (o + 2), snap := snap, brush := ownerOf x.own 6, sysp := !x.user }
      | none => Chain.reset
    { x with
      x0 := o, xc := chain, armed := none, xcActive := chain.run,
      brushes := x.brushes.map (fun y => if y.run = .waiting (.phase false) then { y with run := .running, nextAt := max y.nextAt o } else y) })

/-- Whether every core of a domain has arrived (R160, R165). -/
def domainArrived (s : State) (d : Nat) : Bool := (s.stepping d).all (fun z => z.cores.all (fun c => coreArrived (s.core c)))

/-- Whether the clocks of cores run: a stopped region's phases do not go on (R153). -/
def State.clocked (s : State) (cs : List Nat) : Bool := cs.all (fun c => !(s.region (regionOf c)).stopped)
/-- Whether a boundary of cores may go on: their clocks run and their host writes are committed (R74, R153). -/
def State.openable (s : State) (cs : List Nat) : Bool := s.clocked cs && cs.all (fun c => (s.core c).hbuf == [])

/-- EXCHANGE_PHASE_OPEN of domain `here`, every core having arrived. -/
def execExchangePhaseOpen (s : State) : Out :=
  let d := s.here
  let m := s.domain d
  let cs := (s.stepping d).flatMap (fun z => z.cores)
  .next (if m.exch ∨ m.closing ≠ 0 ∨ !domainArrived s d ∨ !s.clocked cs then s
    else
      let s := s.modDomain d (fun m => { m with exch := true, openF := s.now, nextF := none })
      let s := { s with bridgeFaults := s.bridgeFaults.filter (fun e => mget 0 s.btdmDom e.1 != s.rsrc d) }
      cs.foldl (fun s c => exchOpenCore c s) s)

/-- EXCHANGE_PHASE_END of domain `here`: counters are judged; the boundary's steps follow in the next fabric cycle. -/
def execExchangePhaseEnd (s : State) : Out :=
  let d := s.here
  let s := ((s.stepping d).flatMap (fun z => z.cores)).foldl (fun s c => s.modCore c (fun x => judgeCounters (tagOf s c) x)) s
  .next (s.modDomain d (fun m => { m with closing := 1, nextF := some (s.now + 1) }))

/-! ### The steps of a boundary (R161) -/

/-- One line of the host buffer in the vault (R74, R78). -/
def Core.putHostLine (x : Core) (h : HostLine) : Core :=
  let x := x.logLine h.line
  let whole := (List.range 4).filter (fun u => h.mask.toNat / 2 ^ (16 * u) % 65536 == 65535)
  { x with vault := wrMasked x.vault (64 * h.line) h.data.toNat h.mask.toNat 64,
           vaultP := whole.foldl (fun m u => mset false m (4 * h.line + u) false) x.vaultP,
           ecc := whole.foldl (fun m u => clearEcc m (2 ^ 40) 16 (64 * h.line + 16 * u) 16) x.ecc }

/-- Commit the oldest line of a core's host buffer, which may be logged (R74, R345, R346). -/
def hostCommit (c : Nat) (s : State) : State :=
  let s := s.hold c
  match (s.core c).hbuf with
  | [] => s
  | h :: l =>
    let x := s.core c
    let s := if x.logs h.line then s.eccTouch c true (h.line * 64) 64 else s
    undoEvents c x (s.modCore c (fun x => { x.putHostLine h with hbuf := l }))

/-- Step 2 on a core: one exchange fault with the first that was found (R119). -/
def deliverFaults (c : Nat) (s : State) : State :=
  let x := s.core c
  match x.xfaults with
  | [] => s
  | f :: rest =>
    let s := s.setCore c { x with xfaults := [] }
    let t := mkTrap 0x1B (w64 (f.kind + f.land * 256 + s.station c * 65536 + (s.phaseN c).toNat % 2 ^ 32 * 2 ^ 32)) f.d1 (w64 rest.length)
    (s.markTrapAt true c 0 t).modSitting c (fun z => if x.alive = [] then z else { z with faults := z.faults + 1 })

/-- The judgement of poison for a sitting (R342, R343). -/
def judgePoison (z : Sitting) (s : State) : State :=
  let bad := z.cores.filter (fun c => (s.core c).created)
  let s := z.cores.foldl (fun s c => s.modCore c (fun x => { x with created := false })) s
  let s := bad.foldl (fun s c => s.coreError c 9 0x0A 1 0 0 0) s
  if bad = [] then s
  else if z.ckpt ≠ 0 then s.escalate (z.cores.headD 0) 0
  else bad.foldl (fun s c => s.markTrapAt true c 0 (poisonTrap (s.core c) 0 7)) s

/-- A snapshot of a sitting as compute phase `m` is about to open (R344, R345): the whole scratchpad segment is its live range (log 40). -/
def snapshot (z : Sitting) (m : Word) (s : State) : State :=
  let slot := if z.snapSlot = 0 then 1 else 0
  let s := z.cores.foldl (fun s c =>
    let s := ctxSave c (s.slotOf c slot) true (w64 (SEGSP_SIZE (s.core c) * 2 ^ 32)) s
    s.modCore c (fun x => { x with undo := [], undoFull := false, undoOn := true })) s
  s.modSitting (z.cores.headD 0) (fun z =>
    { z with ckpts := z.ckpts + 1, ckForce := false, snapPhase := m, snapSlot := slot, inRow := 0 })

/-- A core that holds nothing: its memories, its host buffer, its undo log and the errors in them stay; those in descriptors go (R94). -/
def emptyCore (x : Core) : Core :=
  { Core.reset with mem := x.mem, memP := x.memP, code := x.code, vault := x.vault, vaultP := x.vaultP, hbuf := x.hbuf,
                    ecc := x.ecc.filter (fun e => !inR (2 ^ 41) (2 ^ 42 - 1) e.1),
                    glitch := x.glitch, rowErrs := x.rowErrs, seq := x.seq, undo := x.undo, undoFull := x.undoFull }

/-- The pairs of a sitting share no core any more: the memories stand with their physical places (R174). -/
def unpair (z : Sitting) (s : State) : State :=
  let s := z.pairs.foldl (fun s p => s.hold p.host) s
  { s with pairs := s.pairs.filter (fun p => !z.pairs.any (fun q => q.first == p.first)) }

/-- Step 4 for a sitting: its contexts are saved and its cores are free; what is pending goes with it (R322). It waits at the head of its
queue with its effective priority (R332). -/
def preemptSitting (z : Sitting) (s : State) : State :=
  let slot := if z.snapSlot = 0 then 1 else 0
  let s := z.cores.foldl (fun s c =>
    (ctxSave c (s.slotOf c slot) false (w64 (SEGSP_SIZE (s.core c) * 2 ^ 32)) s).modCore c emptyCore) s
  unpair z (s.modSitting (z.cores.headD 0) (fun z =>
    { z with saved := true, launched := false, preempt := false, cores := [], member := z.cores, task := { z.task with since := none, age := 0, waited := 0 } }))

/-- The sitting of a core as it stands now. -/
def State.sit (s : State) (c : Nat) : Sitting := (s.sittingOf c).getD
  { task := ⟨64, [], none, 0, 0, false, true⟩, cores := [], dom := 0, launched := false, frozen := false, saved := false, pins := [], entry := [], start := 0,
    phases := 0, ckpts := 0, faults := 0, corrected := 0, contained := 0, rollbacks := 0, inRow := 0, status := none, ckDue := false, ckForce := false,
    snapPhase := 0, member := [], prio := 0, early := false, openAt := none, preempt := false, snapSlot := 2, pairs := [], routes := [], expiry := false, rolling := false }

/-- Whether a snapshot is due as compute phase `m` opens (R344, R346). -/
def Sitting.ckAt (z : Sitting) (m : Word) : Bool := z.ckpt != 0 && (m.toNat % z.ckpt == 0 || z.ckForce)
/-- The boundary service runs on the cores of a sitting (R304). -/
def serveCores (cs : List Nat) (s : State) : State := cs.foldl (fun s c => s.modCore c (fun x => { x with service := true })) s

/-- Steps 2 to 4 for a sitting whose next compute phase is `m`, and the region cycles they take (R161, R304). -/
def sittingSteps (z : Sitting) (m : Word) (s : State) : Nat × State :=
  let c0 := z.cores.headD 0
  let s := z.cores.foldl (fun s c => deliverFaults c s) s
  let s := judgePoison z s
  let z := s.sit c0
  if z.frozen then (0, s)
  else
    let s := s.modSitting c0 (fun z => { z with phases := z.phases + 1 })
    let save := z.cores.foldl (fun n c => max n (ctxLines (SEGSP_SIZE (s.core c) * 2 ^ 32) + 24)) 0
    let ck := z.ckAt m
    let s := if ck || z.preempt then serveCores z.cores s else s
    let s := if ck then snapshot (s.sit c0) m s else s
    let s := if z.preempt then preemptSitting (s.sit c0) s else s
    ((if ck then save else 0) + (if z.preempt then save else 0), s)

/-! ### Opening a compute phase (R47, R143, R160, R164) -/

/-- Parked brushes of a core issue from cycle `t` on. -/
def Core.unpark (t : Nat) (x : Core) : Core :=
  { x with brushes := x.brushes.map (fun y => if y.run = .parked then { y with run := .running, nextAt := t } else y) }

/-- Open it on one core: parked brushes issue in its first cycle. The second core of a time-sliced pair waits for its run (R174). -/
def openCore (c : Nat) (s : State) : State :=
  let t := s.cyc c + 1
  let two := s.second c
  s.modCore c (fun x =>
    let x : Core := { x with
      k0 := t, xc := Chain.reset, xcActive := false, arrivedAt := none, service := false, later := two,
      brushes := x.brushes.map (fun y => { y with arrived := false, xact := false }) }
    if two then x else x.unpark t)

/-- The second run of a pair opens in the cycle after the first has arrived (R174; log 13). -/
def openSeconds (d : Nat) (s : State) : State :=
  s.pairs.foldl (fun s p =>
    let c := p.first + 1
    if s.coreDom c = d ∧ (s.core c).later ∧ !s.exch c ∧ !s.frozen c ∧ coreArrived (s.core p.first) then
      let t := s.cyc c + 1
      s.modCore c (fun x => { x with k0 := t, later := false }.unpark t)
    else s) s

/-- Launch a sitting with its first compute phase, or resume it (R160, R344). -/
def launch (z : Sitting) (m : Word) (s : State) : State :=
  let c0 := z.cores.headD 0
  let s := s.modSitting c0 (fun z => { z with launched := true, start := if z.start = 0 then s.house else z.start })
  let s := if z.ckpt ≠ 0 ∧ z.snapSlot = 2 then snapshot (s.sit c0) m s else s
  z.cores.foldl (fun s c => openCore c s) s

/-- The registers whose writes wait for a compute phase take effect (R143). -/
def regionsOpen (d : Nat) (s : State) : State :=
  (List.range 32).foldl (fun s g => if s.domainOf g = d then s.modRegion g (fun r => { r with effA := r.a, effB := r.b }) else s) s

/-- A sitting's own opening, after a budget's expiry or a rollback (R171, R348): it is ahead of its domain while that exchanges. -/
def openSitting (c0 : Nat) (s : State) : State :=
  let z := s.sit c0
  let s := s.modSitting c0 (fun z => { z with frozen := false, openAt := none, early := (s.domain (s.coreDom c0)).exch })
  z.cores.foldl (fun s c => openCore c s) s

/-- Extend a measurement register with a digest (R361). -/
def State.extend (s : State) (i : Nat) (d : BitVec 512) : State :=
  { s with meas := mput s.meas i (sha512 (bytesOf 64 (mget 0 s.meas i).toNat ++ bytesOf 64 d.toNat)) }

/-- A debug state is entered: its token is measured, and keys are zeroised where the part is attested, before it shows (R361 to R363). -/
def enterDebug (v : Nat) (tok : Option (BitVec 512)) (s : State) : State :=
  let s := match tok with | some d => s.extend 2 d | none => s
  { s with debug := v, dbgHeld := if v = 2 then s.dbgHeld else [], ideKey := if s.security = 2 ∧ v = 2 then 0 else s.ideKey }

/-- The device is off (R362): sessions end, vault contents are lost, and only stage 0 functions. -/
def enterOff (s : State) : State :=
  { s with off := true, offPend := false, stage := 0, tried := 0, panels := [], asleep := [], debug := 0, debugPend := [], dbgHeld := [], ports := [], capPend := none, capBase := [], powerCapped := false, cores := [], sittings := [],
           regions := [], domains := [], lanes := [], xings := [], tasks := [], pool := [], overflow := [], overNext := 0, queues := [], windows := [], events := [],
           pinTab := [], flits := [], saves := [], hostReqs := [], pulls := [], hostHeld := [], repairs := [], pairs := [], maint := [], btdmP := [], btdm := [], btdmDom := [], bridgeFaults := [], agenda := [] }

/-- Whether the opening of domain `d` opens a compute phase of every sitting placed. -/
def State.wholeIn (s : State) (d : Nat) : Bool := s.sittings.all (fun z => z.saved || inDomain s d z)

/-- Debug and power changes that waited for this boundary (R362). -/
def debugOpen (d : Nat) (s : State) : State :=
  if s.wholeIn d then
    { s.debugPend.foldl (fun s e => enterDebug e.1 e.2 s) s with debugPend := [], powerCapped := s.capPend.getD s.powerCapped, capPend := none }
  else s

/-- COMPUTE_PHASE_OPEN: the steps of domain `here`, and in a later run its opening; above 4,096, the opening of one sitting. Host writes
that are not committed hold either up (R74), and a later fabric cycle runs it again. -/
def execComputePhaseOpen (s : State) : Out :=
  let d := s.here
  if 4096 ≤ d then .next (if s.openable (s.sit (d - 4096)).cores then openSitting (d - 4096) s else s)
  else
    let m := s.domain d
    let olds := s.stepping d
    let news := s.newcomers d
    if !s.openable ((olds ++ (if m.closing = 1 then [] else news)).flatMap (fun z => z.cores)) then .next s
    else if m.closing = 1 then
      let told := multiPart s d
      let (n, s) := (s.stepping d).foldl (fun (r : Nat × State) z =>
        let (k, s) := sittingSteps z (m.n + 1) r.2
        (max r.1 (fabricOf s (regionOf (z.cores.headD 0)) k), s)) (0, s)
      let s := (List.range 32).foldl (fun s g => if s.domainOf g = d then applyPending g s else s) s
      let (f, s) := openTime d (s.now + n) s
      -- across parts the phase opens when every part has taken its steps: a boundary message opens it (R160, R344)
      .next (s.modDomain d (fun m => { m with closing := 2, nextF := if told then none else some f }))
    else if m.closing ≠ 0 ∧ s.offPend ∧ s.wholeIn d then .next (enterOff s)
    else if m.closing ≠ 0 then
      let n := if m.closing = 3 then m.n else m.n + 1
      let s := s.modDomain d (fun m => { m with exch := false, n := n, nextF := none, closing := 0 })
      let s := regionsOpen d (debugOpen d s)
      let s := { s with sittings := s.sittings.map (fun z => if z.early && inDomain s d z then { z with early := false } else z) }
      let s := (olds.flatMap (fun z => z.cores)).foldl (fun s c => openCore c s) s
      .next (news.foldl (fun s z => launch z n s) s)
    else .next s

/-! ### Budgets (R171, R172) -/

/-- The Exier ports on which a message that is expected in the phase has not come: at job device 0 those of the other parts, at another part
the answer to its own. -/
def missingPorts (s : State) (z : Sitting) (kind : Nat) : List Nat :=
  let m := s.domain (s.coreDom (z.cores.headD 0))
  let port (k : Nat) : Nat := Config.exierPort k % 24
  if z.parts ≤ 1 then []
  else if leBytes z.task.rec_ 0x70 2 = 0 then
    (((List.range z.parts).filter (fun k => k != 0 && !m.heard.contains (kind - 1, k, m.n.toNat))).map port).eraseDups
  else if m.told then [port 0] else []

/-- The straggler record. -/
def straggler (s : State) (z : Sitting) (kind : Nat) : BitVec 512 :=
  let dev := leBytes z.task.rec_ 0x70 2
  let at_ (c : Nat) : Nat := dev * 2 ^ 16 + rowOf c * 2 ^ 32 + colOf c * 2 ^ 40
  let miss := z.cores.filter (fun c => if kind = 1 then !coreArrived (s.core c) else ((s.core c).xc.run && !(s.core c).xc.ended) || (s.core c).xc.stop)
  let c0 := z.cores.headD 0
  let short : List (Nat × Nat × BitVec 32 × BitVec 32) := if kind = 1 then [] else z.cores.flatMap (fun c =>
    (s.core c).lands.filterMap (fun e => match e.2.target with
      | some t => let a := e.2.arr.getD (tagOf s c) 0; if a < t then some (c, e.1, t, a) else none
      | none => none))
  let d0 := kind + (s.phaseN c0).toNat % 2 ^ 32 * 2 ^ 32
  let d2 := match miss with | c :: _ => miss.length % 65536 + at_ c | [] => 0
  let (d3, d4) := match short with
    | (c, l, t, a) :: _ => (short.length % 65536 + l * 2 ^ 16 + at_ c * 256, a.toNat + t.toNat * 2 ^ 32)
    | [] => (0, 0)
  let ports := missingPorts s z kind
  let d5 := ports.length % 65536 + ports.headD 0 % 32 * 2 ^ 16
  BitVec.ofNat 512 (d0 + leBytes z.task.rec_ 0 8 * 2 ^ 64 + d2 * 2 ^ 128 + d3 * 2 ^ 192 + d4 * 2 ^ 256 + d5 * 2 ^ 320)

/-- A chain as a freeze in cycle `t` leaves it: it has reached its end, or the accesses entered by then are performed and it goes no further
(R171). -/
def Chain.freeze (t : Nat) (h : Chain) : Chain :=
  if h.ended then h
  else { h with cur := none, fetchAt := none, fetchSeq := 0, loop := none, sbuf := 0, sbufP := 0, ready := [],
                ops := h.ops.filter (fun o => o.dk != 4 && decide (o.rd ≤ t + 2)),
                effs := h.effs.filter (fun e => match e.k with | .flag _ _ => decide (e.at_ ≤ t + 2) | _ => false) }

/-- The phase whose exchange budget has run out for a sitting: its domain may have left it since. -/
def expiredPhase (s : State) (z : Sitting) : Word :=
  let m := s.domain (s.coreDom (z.cores.headD 0))
  if m.exch then m.n else m.n - 1
/-- Whether what a sitting had issued when its exchange budget ran out is performed (R171). -/
def expiryDone (s : State) (z : Sitting) : Bool :=
  z.cores.all (fun c => let x := s.core c
    x.xc.ops.isEmpty && x.xc.effs.isEmpty && x.xc.ready.isEmpty && landed s c ((expiredPhase s z).toNat % 4))
/-- The boundary of such a sitting, once its host writes are committed: its next compute phase opens ahead of its domain. -/
def expiryStep (z : Sitting) (s : State) : State :=
  let c0 := z.cores.headD 0
  if !z.expiry || z.rolling || !expiryDone s z || !s.openable z.cores then s
  else
    let n := expiredPhase s z
    let s := z.cores.foldl (fun s c => s.modCore c (fun x => { clearCounters (n.toNat % 4) x with xc := Chain.reset, xcActive := false, flagSlots := [], landIds := [] })) s
    let s := s.modSitting c0 (fun z => { z with frozen := false, expiry := false })
    let (k, s) := sittingSteps (s.sit c0) (n + 1) s
    if (s.sit c0).frozen ∨ (s.sittingOf c0).isNone then s
    else
      let (f, s) := openTime (s.coreDom c0) (s.now + 1 + fabricOf s (regionOf c0) k) s
      s.modSitting c0 (fun z => { z with frozen := true, openAt := some f })
def expiriesEnd (s : State) : State := s.sittings.foldl (fun s z => expiryStep z s) s

/-- Whether the host writes to a core are committed in the present cycle of its region (R74): no sitting runs on it, or its sitting is at a
boundary. -/
def State.commits (s : State) (c : Nat) : Bool :=
  match s.sittingOf c with
  | none => true
  | some z => !z.launched || z.openAt.isSome || (z.expiry && expiryDone s z) || (!z.frozen && !z.early && (s.domain (s.coreDom c)).closing != 0)

/-- BUDGET_EXPIRY of the sitting whose first core is `here`. -/
def execBudgetExpiry (s : State) : Out :=
  let c0 := s.here
  match s.sittingOf c0 with
  | none => .next s
  | some z =>
    let x := s.exch c0
    let s := s.modDomain (s.coreDom c0) (fun m => { m with straggler := straggler s z (if x then 2 else 1) })
    let s := s.modSitting c0 (fun z => { z with frozen := true })
    let stop (f : Core → Core) (s : State) : State := z.cores.foldl (fun s c => s.modCore c (fun x => { f x with xc := x.xc.freeze (s.cyc c) })) s
    if !x then .next ((stop (fun x => x) s).modSitting c0 (fun z => { z with status := z.status.orElse (fun _ => some (6, 0)) }))
    else
      let tag := tagOf s c0
      .next ((stop (counterFaults tag) s).modSitting c0 (fun z => { z with expiry := true }))

/-! ### Checkpoints and rollback (R345 to R349) -/

/-- UNDO_LOG_THRESHOLD at core `here`: the next boundary takes a checkpoint. -/
def execUndoLogThreshold (s : State) : Out := .next (s.modSitting s.here (fun z => { z with ckForce := true }))
/-- UNDO_LOG_OVERFLOW at core `here`: a contained error of a sitting that cannot roll back, which ends the task (R343, R346; log 51). -/
def execUndoLogOverflow (s : State) : Out :=
  .next ((s.coreError s.here 11 0x0C 1 0 0 0).modSitting s.here (fun z => { z with status := z.status.orElse (fun _ => some (7, 2)) }))

/-- Restore one line of an undo log with its poison bits. -/
def undoLine (e : Nat × BitVec 512 × BitVec 4) (x : Core) : Core :=
  { x with vault := wrBytes x.vault (e.1 * 64) e.2.1.toNat 64,
           vaultP := (List.range 4).foldl (fun m i => mset false m (e.1 * 4 + i) (e.2.2.getLsbD i)) x.vaultP,
           ecc := clearEcc x.ecc (2 ^ 40) 16 (e.1 * 64) 64 }

/-- The core of a rollback: undo entries in reverse, the host buffer discarded, the latest snapshot restored (R348). -/
def rollCore (slot c : Nat) (s : State) : State :=
  let s := (s.hold c).modCore c (fun x =>
    let x' := x.undo.reverse.foldl (fun x e => undoLine e x) { x with created := false }
    { x' with hbuf := [], vpend := [], undo := [], engW := [], rmwW := [], landing := [], landLines := [], landIds := [], early := [], flagSlots := [], reduces := [], drains := [], landedFrom := [],
              xfaults := [], schA := [], schB := [], shadow := [], mtFree := 0, vport := [], swset := none, swOld := [], lc := Chain.reset, xc := Chain.reset, nbArr := [] })
  (ctxRestore c (s.slotOf c slot) s).modCore c (fun x => { x with service := true })

/-- ROLLBACK of the sitting whose first core is `here`: its third in one interval, or an interval whose log is full, ends the task. -/
def execRollback (s : State) : Out :=
  let c0 := s.here
  match s.sittingOf c0 with
  | none => .next s
  | some z =>
    let fail (k : Nat) : Out := .next (s.modSitting c0 (fun z => { z with frozen := true, rolling := false, expiry := false, openAt := none, rollbacks := z.rollbacks + 1,
                                                                          status := z.status.orElse (fun _ => some (7, k)) }))
    if z.frozen ∧ z.status.isSome then .next s
    else if z.cores.any (fun c => (s.core c).undoFull) then fail 2
    else if z.snapSlot = 2 then fail 0
    else if z.inRow = 2 then fail 1
    else
      let d := s.coreDom c0
      let back := (s.phaseN c0).toNat - z.snapPhase.toNat
      let lines := z.cores.foldl (fun n c => max n (ctxLines (SEGSP_SIZE (s.core c) * 2 ^ 32) + 48)) 0
      let alone := (s.sittings.filter (fun y => y.launched && inDomain s d y)).length = 1
      let s := z.cores.foldl (fun s c => { rollCore z.snapSlot c s with lanes := s.lanes.filter (fun e => e.2.inj != posOf c) }) s
      let s := s.modDomain d (fun m => { m with n := z.snapPhase, told := false, heard := [], exch := m.exch && !alone, closing := if alone then 0 else m.closing,
                                                nextF := if alone then none else m.nextF })
      let (f, s) := openTime d (s.now + fabricOf s (regionOf c0) lines) s
      .next (s.modSitting c0 (fun z => { z with frozen := true, rolling := false, expiry := false, early := false, openAt := some f, rollbacks := z.rollbacks + 1, inRow := z.inRow + 1,
                                                phases := z.phases - back, ckForce := false }))

end Sys2Proof.Machine
end

