-- ==== Sys2Proof/Machine/Admit.lean ====
section
/-! DEFINITION. Task records, images and admission: what is checked, pinned, placed and loaded (02 R37 to R43; 10 R215 to R218; 17 R327 to
R332; 23 R375). -/
namespace Sys2Proof.Machine

/-! ### Records (R327, R328) -/

/-- A field of a task record. -/
def Task.f (t : Task) (o n : Nat) : Nat := leBytes t.rec_ o n
def Task.compl (t : Task) : Nat := t.f 0x60 8
def Task.dev (t : Task) : Nat := t.f 0x70 2
/-- Whether a record is a forerunner launch, by its queue or its own flag (R330). -/
def State.fwd (s : State) (t : Task) : Bool := t.f 8 4 / 2 % 2 == 1 || (decide (t.q < 64) && (s.queue t.q).cfg.getLsbD 13)

/-- Whether `n` bytes of host memory lie in one window of a queue that permits the access (R40). The pool uses its parent's windows. -/
def windowOk (s : State) (q a n : Nat) (wr : Bool) : Bool :=
  (List.range 16).any (fun w =>
    let z := mget Window.none_ s.windows (q % 64 * 16 + w)
    decide (z.base * 4096 ≤ a) && decide (a + n ≤ (z.base + z.len) * 4096) && (if wr then z.wr else z.rd))

/-- The rest of R328 for a queue priority; a source code not implemented is a reserved field. -/
def recordOk (s : State) (t : Task) (prio : Nat) : Bool :=
  let parts := t.f 0x16 2
  decide (t.f 8 4 < 8) && t.f 0xE 2 == 0 && t.f 0x5C 4 == 0 && t.f 0x72 14 == 0 && srcImpl (t.f 0xD 1)
  && (List.range 5).all (fun i => t.f (0x28 + 8 * i) 8 / 2 ^ 60 % 8 == 0)
  && decide (t.f 0xC 1 ≤ prio) && inR 1 4096 parts && decide (t.dev < parts)
  && (if s.fwd t then t.f 0x14 2 == 0 && t.f 0x68 4 != 0 && t.f 0x6C 4 != 0 else inR 1 32 (t.f 0x14 1) && inR 1 32 (t.f 0x15 1))
  && !(t.f 0x58 4 != 0 && isPin (t.f 0xD 1))

/-- Whether every valid wait entry finds its counter at or above its threshold (R329). -/
def waitsMet (s : State) (t : Task) : Bool :=
  (List.range 4).all (fun i =>
    let w := t.f (0x28 + 8 * i) 8
    decide (w < 2 ^ 63) || decide (w % 2 ^ 48 ≤ (mget 0 s.events (w / 2 ^ 48 % 4096)).toNat))

/-- The members of a sitting, ascending (R327, R330). -/
def membersOf (s : State) (t : Task) : List Nat :=
  let fwd := s.fwd t
  (List.range 1024).filter (fun c =>
    if fwd then (t.f 0x68 4).testBit (colOf c) && (t.f 0x6C 4).testBit (rowOf c)
    else decide (colOf c < t.f 0x14 1) && decide (rowOf c < t.f 0x15 1))

/-- What a record says of its completion record, as far as it can be judged before the image is known (R328): in job device memory it names
scratchpad or vault of a member core (R38). -/
def complOk (s : State) (t : Task) : Bool :=
  let a := t.compl
  a % 64 == 0 && gOk a && (if gSpace a = 1 then windowOk s t.q (a % 2 ^ 48) 64 true
    else decide (gDev a < t.f 0x16 2) && (membersOf s t).contains (gCore a)
      && (match accessRange (gLocal a) 64 with | some (.scratch, _) => true | some (.vault, _) => true | _ => false))

/-! ### Global addresses as the Atelier uses them (R37, R38) -/

/-- Bytes at a global address of this part: of host memory, or of a core's memory in the context placed there. -/
def gBytes (s : State) (a n : Nat) : List Byte :=
  if gSpace a = 1 then (List.range n).map (fun i => rdByte s.hostMem (a % 2 ^ 48 + i))
  else
    let x := (s.hold (gCore a)).core (gCore a)
    match placeIn x false (gLocal a) n with
    | some (v, p) => (List.range n).map (fun i => rdByte (if v then x.vault else x.mem) (p + i))
    | none => List.replicate n 0

/-- A read of them meets their latent errors (R76, R77). -/
def gTouch (a n : Nat) (s : State) : State :=
  if gSpace a = 1 then s
  else
    let s := s.hold (gCore a)
    match placeIn (s.core (gCore a)) false (gLocal a) n with
    | some (v, p) => s.eccTouch (gCore a) v p n
    | none => s

/-- Write there in the context `x` of the core named; another part's memory is not of this machine. -/
def gWriteIn (x : Core) (dev a n v : Nat) (s : State) : State :=
  if gSpace a = 1 then { s with hostMem := wrBytes s.hostMem (a % 2 ^ 48) v n }
  else if gDev a ≠ dev then s
  else match placeIn x true (gLocal a) n with
    | some (false, p) => (s.hold (gCore a)).modCore (gCore a) (fun x => x.wrScratch p n v 0)
    | some (true, p) => (s.hold (gCore a)).commitVault (gCore a) p n v 0
    | none => s
/-- Write there in the context that is placed. -/
def gWrite (dev a n v : Nat) (s : State) : State := gWriteIn (s.core (gCore a)) dev a n v s

/-! ### Ending a task without placing it (R41, R335) -/

/-- A completion record. -/
def complRecord (status task start fin phases ckpts faults mcsum cores : Nat) : Nat :=
  status % 2 ^ 64 + task % 2 ^ 64 * 2 ^ 64 + start % 2 ^ 64 * 2 ^ 128 + fin % 2 ^ 64 * 2 ^ 192 + phases % 2 ^ 64 * 2 ^ 256 + ckpts % 2 ^ 32 * 2 ^ 320
    + faults % 2 ^ 32 * 2 ^ 352 + mcsum % 2 ^ 64 * 2 ^ 384 + cores % 2 ^ 16 * 2 ^ 448

/-- A queue stops with ERR set, and its vector is raised; the pool has no ERR. -/
def State.queueError (s : State) (q : Nat) : State :=
  (if q < 64 then s.modQueue q (fun z => { z with cfg := z.cfg ||| 0x8000 }) else s).raiseMsi (q % 64)

/-- Take a task out of its queue. -/
def dropTask (t : Task) (s : State) : State := if t.q < 64 then { s with tasks := s.tasks.erase t } else { s with pool := s.pool.erase t }

/-- A rejection: its status code, the image offset and the section index. A record whose COMPL fails gets no completion record (R328). -/
structure Rej where
  code : Nat
  detail : Nat
  sect : Nat
  write : Bool
deriving DecidableEq, Repr

/-! ### Images (R216 to R218, R375) -/

/-- A section record with its index and body. -/
structure Sect where
  ix : Nat
  kind : Nat
  num : Nat
  core : Nat
  size : Nat
  addr : Nat
  foff : Nat
  res : Nat
  body : List Byte
deriving DecidableEq, Repr

/-- An image in the course of admission: the task, its members, the header and the sections, the base of the vault segment of each
member, the time-sliced pairs its placement needs. -/
structure Adm where
  t : Task
  members : List Nat
  h : List Byte
  sects : List Sect
  vt : Map Nat
  pairs : List Pair
deriving DecidableEq, Repr

def Adm.hf (a : Adm) (o n : Nat) : Nat := leBytes a.h o n
/-- Bytes of the scratchpad segment, of what lies below its chain region, and of the vault segment. -/
def Adm.sp (a : Adm) : Nat := a.hf 0x20 4 * 64
def Adm.spw (a : Adm) : Nat := (a.hf 0x20 4 - a.hf 0x28 2) * 64
def Adm.vts (a : Adm) : Nat := a.hf 0x24 4 * 4096
/-- The granule of a member's scratchpad segment: of the second core of a pair, past the first's (R31, R35). -/
def Adm.spBase (a : Adm) (c : Nat) : Nat := if a.pairs.any (fun p => p.second c) then (a.hf 0x20 4 + 63) / 64 * 64 else 0
def Adm.vtBase (a : Adm) (c : Nat) : Nat := mget 0 a.vt c * 4096

def Sect.len (z : Sect) : Nat := if z.kind ≤ 2 then z.size / 4 else z.size
/-- Whether a section is loaded on core `c`. -/
def Sect.on (z : Sect) (c : Nat) : Bool := z.core == 0xFFFF || z.core == c
/-- Whether a section is loaded at all (R375). -/
def Adm.used (a : Adm) (z : Sect) : Bool := z.core == 0xFFFF || a.members.contains z.core || inR 0x1000 0x100F z.core

def hdrOk (t : Task) (h : List Byte) : Bool :=
  let f (o n : Nat) : Nat := leBytes h o n
  f 0 4 == 0x38495A41 && f 4 2 == 1 && decide (f 6 2 < 2) && f 8 1 == t.f 0xD 1 && decide (f 9 1 < 16) && f 0xA 2 == t.f 0x10 2
  && f 0xC 2 == t.f 0x12 2 && decide (f 0x10 4 / 2 ^ 18 ≤ 4) && decide (f 0x20 4 ≤ 64512) && decide (f 0x24 4 ≤ 376832)
  && decide (f 0x28 2 ≤ f 0x20 4) && f 0x2A 22 == 0

/-- The fields of a section record. -/
def Sect.fieldsOk (z : Sect) : Bool :=
  inR 1 9 z.kind && z.res == 0
  && (match z.kind with | 1 | 2 => decide (z.num ≤ 3) | 8 => decide (z.num ≤ 15) | 9 => decide (z.num ≤ 7) | _ => z.num == 0)
  && (decide (z.core < 1024) || z.core == 0xFFFF || (z.kind == 7 && inR 0x1000 0x100F z.core))
  && (!(z.kind == 5 || inR 7 9 z.kind) || z.addr == 0)

def Sect.desc (z : Sect) : BitVec 512 := BitVec.ofNat 512 (leBytes z.body 0 64)

/-- The extents and the body of a section that is loaded. -/
def Adm.fits (a : Adm) (z : Sect) : Bool :=
  let w (i : Nat) : Nat := leBytes z.body (8 * i) 8
  match z.kind with
  | 1 | 2 => z.size % 4 == 0 && decide (z.addr + z.size / 4 ≤ 16384)
  | 3 => decide (z.addr + z.size ≤ a.sp)
  | 4 => decide (2 ^ 32 ≤ z.addr) && decide (z.addr - 2 ^ 32 + z.size ≤ a.vts)
  | 5 => decide (z.size ≤ 256) && decide (z.size ≤ a.sp)
  | 6 => z.addr % 32 == 0 && z.size % 32 == 0 && decide (a.spw ≤ z.addr) && decide (z.addr + z.size ≤ a.sp)
  | 7 => z.size % 4 == 0 && decide (4 ≤ z.size) && decide (z.size = 4 + 4 * leBytes z.body 0 4 ∨ ¬ inR 1 1024 (leBytes z.body 0 4))
  | 8 => z.size == 24 && w 0 % 64 == 0 && inR 1 16 (w 1) && w 2 % 64 == 0 && inR 64 65536 (w 2) && decide (w 0 + w 1 * w 2 ≤ a.sp)
  | _ =>
    let d := z.desc
    z.size == 64 && dFault d (if dKind d = 3 then dTbase d else 0) (if dKind d = 3 then dTlen d else 0) == none
      && (dKind d != 3 || decide (dTbase d + 8 * dTlen d ≤ a.sp))

/-- Two sections of one kind and target that overlap. -/
def Sect.meets (a b : Sect) : Bool :=
  a.kind == b.kind && a.num == b.num
  && (a.core == b.core || (a.core == 0xFFFF && decide (b.core < 1024)) || (b.core == 0xFFFF && decide (a.core < 1024)))
  && (inR 7 9 a.kind || (decide (a.addr < b.addr + b.len) && decide (b.addr < a.addr + a.len)))

def noMeets : List Sect → Bool
  | [] => true
  | z :: l => !l.any z.meets && noMeets l

/-- R218: the image's own checks. -/
def Adm.imageOk (a : Adm) : Bool :=
  hdrOk a.t a.h && a.sects.all Sect.fieldsOk && noMeets a.sects && a.sects.all (fun z => !a.used z || a.fits z)

/-- R102: a TDM table's period and reserved bits. -/
def Sect.tdmOk (z : Sect) : Bool :=
  inR 1 1024 (leBytes z.body 0 4) && (List.range ((z.size - 4) / 4)).all (fun i => decide (leBytes z.body (4 + 4 * i) 4 < 2 ^ 16))

/-- Read a section record and its body. -/
def sectOf (s : State) (img : Nat) (recs : List Byte) (i : Nat) : Sect :=
  let f (o n : Nat) : Nat := leBytes recs (32 * i + o) n
  ⟨i, f 0 1, f 1 1, f 2 2, f 4 4, f 8 8, f 0x10 8, f 0x18 8, gBytes s (img + f 0x10 8) (f 4 4)⟩

/-- Whether the Atelier may read a range for a queue (R40). -/
def mayRead (s : State) (t : Task) (a n : Nat) : Bool :=
  gOk a && (if gSpace a = 1 then windowOk s t.q (a % 2 ^ 48) n false
    else decide (gDev a = t.dev) && decide (a / 2 ^ 36 = (a + n - 1) / 2 ^ 36) && (placeIn (s.core (gCore a)) false (gLocal a) n).isSome)

/-! ### The walk (R39 to R41) -/

/-- 2 MiB pages of a range. -/
def pagesOf (lo hi : Nat) : List Nat := if hi ≤ lo then [] else (List.range ((hi - 1) / 2 ^ 21 - lo / 2 ^ 21 + 1)).map (fun i => lo / 2 ^ 21 + i)
/-- Vault pages of a core as the pin table names them (R42). -/
def vaultPins (s : State) (c lo hi : Nat) : List (Bool × Nat) := (pagesOf lo hi).map (fun p => (false, s.station c * 1024 + p))

/-- A range of a member's memory (R38, R40) and its pins; windows only where they may be read. -/
def Adm.local_ (a : Adm) (s : State) (c : Nat) (wr win : Bool) (lo hi : Nat) : Option (List (Bool × Nat)) :=
  match accessRange lo (hi - lo) with
  | some (.scratch, _) => if hi ≤ (if wr then a.spw else a.sp) then some [] else none
  | some (.vault, _) => if hi - 2 ^ 32 ≤ a.vts then some (vaultPins s c (a.vtBase c + (lo - 2 ^ 32)) (a.vtBase c + (hi - 2 ^ 32))) else none
  | some (.window, _) => if win then some [] else none
  | _ => none

/-- A global range. The members of a job's other parts have the same positions and segments. -/
def Adm.global (a : Adm) (s : State) (wr : Bool) (lo hi : Nat) : Option (List (Bool × Nat)) :=
  if gSpace lo = 1 then
    if windowOk s a.t.q (lo % 2 ^ 48) (hi - lo) wr ∧ lo / 2 ^ 48 = (hi - 1) / 2 ^ 48 then
      some ((pagesOf (lo % 2 ^ 48) (lo % 2 ^ 48 + (hi - lo))).map (fun p => (true, p))) else none
  else if lo / 2 ^ 36 = (hi - 1) / 2 ^ 36 ∧ gOk lo ∧ gDev lo < a.t.f 0x16 2 ∧ a.members.contains (gCore lo) then
    (a.local_ s (gCore lo) wr false (gLocal lo) (gLocal lo + (hi - lo))).map (fun p => if gDev lo = a.t.dev then p else [])
  else none

/-- Whether a range of a core lies in its vault. -/
def inVault (a : Nat) : Bool := match rangeOf a with | some (.vault, _) => true | _ => false

/-- Check one entry as core `c` runs it `k` times: its pins, or the rejection's code. -/
def Adm.entry (a : Adm) (s : State) (c : Nat) (e : XEnt) (k : Nat) : Except Nat (List (Bool × Nat)) :=
  let need {α : Type} (o : Option α) : Except Nat α := match o with | some v => .ok v | none => .error 1
  let gd := e.dg && (inR 1 2 e.kind || e.kind == 4 || e.kind == 6)
  -- R209, R210: a source in job device memory lies on the core itself; this is judged before the ranges (log 104)
  let away (d1 : Nat) : Bool := e.sg && gSpace d1 == 0 && !(gDev d1 == a.t.dev && gCore d1 == c)
  if !e.ok || (inR 1 4 e.kind && away e.d1) then .error 3
  else if k = 0 then .ok []
  else if 2 ≤ k ∧ !e.aligned 1 then .error 3
  else if inR 1 4 e.kind then do
    let (sl, sh) ← need (bound e.d1 k e.sinc e.rows e.sstr e.len)
    let (dl, dh) ← need (bound e.d2 k e.dinc e.rows e.dstr e.len)
    if away sl then .error 3
    else
      let p ← need (if e.sg then a.global s false sl sh else a.local_ s c false true sl sh)
      if !(e.sg && gSpace sl == 1) && inVault (gLocal sl) && !gd && e.kind != 3 && inVault dl then .error 3
      else if e.kind = 3 then do
        let okRect := e.d3 % 32 + e.d3 / 2 ^ 5 % 32 < 32 ∧ e.d3 / 2 ^ 10 % 32 + e.d3 / 2 ^ 15 % 32 < 32 ∧ e.d3 / 2 ^ 20 % 2 ^ 12 < a.t.f 0x16 2
        if ¬ okRect then .error 1
        else e.rect.foldlM (fun (p : List (Bool × Nat)) r =>
          if a.members.contains r then do
            let q ← need (a.local_ s r true false dl dh)
            pure (if e.d3 / 2 ^ 20 % 2 ^ 12 = a.t.dev then p ++ q else p)
          else .error 1) p
      else if e.kind = 4 && gSpace dl == 1 then .error 1
      else do
        let q ← need (if gd then a.global s true dl dh else a.local_ s c true false dl dh)
        pure (p ++ q)
  else if e.kind = 6 then do
    let (dl, dh) ← need (bound e.d2 k e.dinc 1 0 8)
    need (if gd then a.global s true dl dh else a.local_ s c true false dl dh)
  else .ok []

/-- Walk a section's entries to its end entry: `rest` entries left of a loop of `k` iterations, `reach` the furthest entry that a cond or a
loop of no iteration skips to, which may lie past an end (R39). The error holds the code and the entry. -/
def Adm.walkBody (a : Adm) (s : State) (c : Nat) (body : List Byte) : Nat → Nat → Nat → Nat → Nat → Except (Nat × Nat) (List (Bool × Nat))
  | 0, _, _, _, _ => .ok []
  | n + 1, i, rest, k, reach =>
    let e := XEnt.ofNat (leBytes body (32 * i) 32)
    match a.entry s c e (if rest = 0 then 1 else k) with
    | .error st => .error (st, i)
    | .ok p =>
      let reach := if e.kind = 8 ∨ (e.kind = 7 ∧ e.len = 0) then max reach (i + 1 + e.ksp % 16) else reach
      if e.kind = 0 ∧ reach ≤ i then .ok p
      else
        match (if e.kind = 7 then a.walkBody s c body n (i + 1) e.ksp e.len reach else a.walkBody s c body n (i + 1) (rest - 1) k reach) with
        | .error r => .error r
        | .ok q => .ok (p ++ q)

/-- Every chain of every member, and the pins of all its ranges. -/
def Adm.walk (a : Adm) (s : State) : Except Rej (List (Bool × Nat)) :=
  a.members.foldlM (fun (p : List (Bool × Nat)) c =>
    (a.sects.filter (fun z => z.kind == 6 && z.on c)).foldlM (fun (p : List (Bool × Nat)) z =>
      match a.walkBody s c z.body (z.size / 32) 0 0 0 0 with
      | .ok q => .ok (p ++ q)
      | .error (st, i) => .error ⟨st, z.foff + 32 * i, z.ix, true⟩) p) []

/-! ### Pins (R42, R43) -/

def pinKey (p : Bool × Nat) : Nat := 2 ^ 63 + (if p.1 then 2 ^ 62 else 0) + p.2
def pinCount (w : Word) : Nat := w.toNat / 2 ^ 40 % 2 ^ 16
/-- The entry of a page. -/
def pinFind (tab : Map Word) (p : Bool × Nat) : Option (Nat × Word) := tab.find? (fun e => e.2.toNat - pinCount e.2 * 2 ^ 40 == pinKey p)
/-- The first free index from `i`. -/
def freeKey : Map Word → Nat → Nat
  | [], i => i
  | (k, _) :: r, i => if k = i then freeKey r (i + 1) else i

def addPin (tab : Map Word) (p : Bool × Nat) : Map Word :=
  match pinFind tab p with
  | some (i, w) => mput tab i (w + w64 (2 ^ 40))
  | none => mput tab (freeKey tab 0) (w64 (pinKey p + 2 ^ 40))
def dropPin (tab : Map Word) (p : Bool × Nat) : Map Word :=
  match pinFind tab p with
  | some (i, w) => if pinCount w ≤ 1 then mdel tab i else mput tab i (w - w64 (2 ^ 40))
  | none => tab

/-- Whether the pins reject the task (some true), do not fit yet (some false), or fit. -/
def pinsBad (tab : Map Word) (ps : List (Bool × Nat)) : Option Bool :=
  if 65536 < ps.length ∨ ps.any (fun p => match pinFind tab p with | some (_, w) => pinCount w == 65535 | none => false) then some true
  else if 65536 - tab.length < (ps.filter (fun p => (pinFind tab p).isNone)).length then some false
  else none

/-! ### Places (R142, R143, R173, R332; log 13, 41) -/

/-- The physical core of a member of a pre-empted sitting, and whether it is the second of a pair. -/
def Sitting.hostIn (z : Sitting) (c : Nat) : Nat := match z.pairs.find? (fun p => p.first == c || p.second c) with | some p => p.host | none => c
def Sitting.secondIn (z : Sitting) (c : Nat) : Bool := z.pairs.any (fun p => p.second c)
/-- Vault granules above which a core's vault is free of segments of pre-empted sittings (R43). -/
def vtFree (s : State) (c : Nat) : Nat :=
  (s.sittings.filter (fun z => z.saved)).foldl (fun m z => (z.member.filter (fun d => z.hostIn d == c)).foldl (fun m d =>
    let k := mget Core.reset s.saves (d * 4 + (if z.snapSlot = 0 then 1 else 0) + (if z.secondIn d then 2 else 0))
    max m ((SEGVT_BASE k + SEGVT_SIZE k + 3) / 4 * 4)) m) 0
/-- Whether a core's save slots hold the context of a pre-empted sitting. -/
def holdsSaved (s : State) (c : Nat) : Bool := s.sittings.any (fun z => z.saved && z.member.any (fun d => z.hostIn d == c))

/-- The registers of a free region that the Atelier configures. -/
def atelierRcfg (src p q : Nat) : Word × Word :=
  let floor := if isPin src then 40 else min 1250 (15625 * p / (100 * max 1 q))
  let hold := if isPin src then 156 else min 65535 ((156250 * p + 128 * q) / (256 * max 1 q))
  let r := vrefFor floor
  (w64 (src + floor * 2 ^ 21 + q * 2 ^ 32 + p * 2 ^ 48), w64 (hold * 2 ^ 16 + r * 2 ^ 32 + 3 * r * 2 ^ 48))

def regionFits (s : State) (g src p q : Nat) : Bool := let a := (s.region g).a; srcOf a == src && pOf a == p && qOf a == q
def regionsOf (cs : List Nat) : List Nat := (cs.map regionOf).eraseDups
/-- Whether a region serves the domain, or is free and can be configured for it. -/
def regionOpen (s : State) (g src p q : Nat) : Bool :=
  src != 0 && (regionFits s g src p q || (!s.regionUsed g && (let r := atelierRcfg src p q; rcfgaOk r.1 && rcfgbOk r.2)))

/-- Whether a core's place serves sittings, apart from those on it and from its having failed. -/
def coreUp (s : State) (c : Nat) : Bool :=
  s.panels.contains (panelOf c) && !s.asleep.contains (panelOf c) && decide (mget 0 s.maint c ≤ 1)
/-- Whether a core is in the pool, apart from the sittings on it. -/
def coreInPool (s : State) (c : Nat) : Bool := coreUp s c && !s.outCores.contains c
def coreFree (s : State) (c : Nat) : Bool := (s.sittingOf c).isNone

/-- The time-sliced pairs that let members whose cores have failed without a spare share the core of a neighbour in their row (R174): each
the one of its left neighbour, or else of its right, that works and shares with none yet (log 13). -/
def pairsFor (s : State) (ms : List Nat) : List Pair :=
  ms.foldl (fun ps c =>
    let free (d : Nat) : Bool := ms.contains d && !s.outCores.contains d && !ps.any (fun p => p.first == d || p.second d)
    if !s.outCores.contains c then ps
    else if colOf c % 16 ≠ 0 ∧ free (c - 1) then ps ++ [⟨c - 1, c - 1, c - 1⟩]
    else if colOf c % 16 ≠ 15 ∧ free (c + 1) then ps ++ [⟨c, c + 1, c + 1⟩]
    else ps) []
/-- Whether an image may be time-sliced: it uses no neighbour port (R174, R332), its two segments fit side by side (R35), and the two cores
load one code (R35; log 13). -/
def Adm.sharable (a : Adm) (ps : List Pair) : Bool :=
  a.hf 6 2 % 2 == 0 && a.t.user && decide ((a.hf 0x20 4 + 63) / 64 * 64 + a.hf 0x20 4 ≤ 64512)
  && a.sects.all (fun z => decide (2 < z.kind) || ps.all (fun p => z.core != p.first && z.core != p.first + 1))
/-- An image with its pairs, and the vault segments of its members: of a pair, side by side. -/
def Adm.place (a : Adm) (s : State) : Adm :=
  let ps := pairsFor s a.members
  let a := { a with pairs := if a.sharable ps then ps else [] }
  { a with vt := a.members.map (fun c => (c, match a.pairs.find? (fun p => p.first == c || p.second c) with
    | some p => if p.second c then (vtFree s p.host + a.hf 0x24 4 + 3) / 4 * 4 else vtFree s p.host
    | none => vtFree s c)) }

/-- Whether cores can be placed now; a failed one only in a pair. -/
def placeable (s : State) (cs : List Nat) (ps : List Pair) (src p q : Nat) : Bool :=
  cs.all (fun c => coreUp s c && (!s.outCores.contains c || ps.any (fun x => x.first == c || x.second c)) && coreFree s c)
    && (regionsOf cs).all (fun g => regionOpen s g src p q)

/-- The sittings that stand in the way. -/
def blockers (s : State) (cs : List Nat) (src p q : Nat) : List Sitting :=
  s.sittings.filter (fun z => z.cores.any (fun c => cs.contains c || ((regionsOf cs).contains (regionOf c) && !regionFits s (regionOf c) src p q)))

/-- Choose sittings for pre-emption (R332): all that stand in the way, if each is lower and may be saved. -/
def choosePreempt (cs : List Nat) (ps : List Pair) (src p q prio : Nat) (s : State) : Option State :=
  let bs := blockers s cs src p q
  let may (z : Sitting) : Bool := z.task.f 8 4 % 2 == 1 && decide (z.prio < prio) && z.launched && !z.cores.any (fun c => holdsSaved s (z.hostIn c))
  if bs.all (fun z => z.preempt) || !bs.all may || !cs.all (fun c => coreUp s c && (!s.outCores.contains c || ps.any (fun x => x.first == c || x.second c))) then none
  else some { s with sittings := s.sittings.map (fun z => if bs.contains z then { z with preempt := true } else z) }

/-- Configure the free regions of a placement. -/
def configureRegions (cs : List Nat) (src p q : Nat) (s : State) : State :=
  (regionsOf cs).foldl (fun s g =>
    if regionFits s g src p q then s
    else let r := atelierRcfg src p q; configureRegion g r.1 r.2 s) s

/-- A completion record of a task that is not placed (R41): in job device memory where its context would have had it, on a core that holds
none; elsewhere nothing is written (log 41). -/
def rejectTask (t : Task) (r : Rej) (s : State) : State :=
  let v := complRecord (r.code + r.sect % 2 ^ 16 * 2 ^ 16 + r.detail % 2 ^ 32 * 2 ^ 32) (t.f 0 8) 0 s.house.toNat 0 0 0 0 0
  let c := gCore t.compl
  let vt := vtFree s c
  let x := { Core.reset with user := t.user, segsp := w64 (64512 * 2 ^ 32), segvt := w64 (vt + (376832 - vt) * 2 ^ 32) }
  let mine := gSpace t.compl == 1 || (coreFree s c && !s.outCores.contains c)
  (if r.write && mine then gWriteIn x t.dev t.compl 64 v s else s).queueError t.q

/-! ### Loading (R23, R64, R215, R218) -/

/-- Load one section on a core. -/
def loadSect (a : Adm) (c : Nat) (x : Core) (z : Sect) : Core :=
  let v := leBytes z.body 0 z.size
  let sp := SEGSP_BASE x * 64
  match z.kind with
  | 1 | 2 => { x with code := (List.range (z.size / 4)).foldl (fun m i =>
      mset ⟨0, false⟩ m (z.num * 16384 + z.addr + i) ⟨BitVec.ofNat 32 (leBytes z.body (4 * i) 4), z.kind == 1⟩) x.code,
                      ecc := clearEcc x.ecc (2 ^ 42) 4 (4 * (z.num * 16384 + z.addr)) (4 * (z.size / 4)) }
  | 3 => x.wrScratch (sp + z.addr) z.size v 0
  | 4 => x.commitVault (a.vtBase c + (z.addr - 2 ^ 32)) z.size v 0
  | 5 => x.wrScratch sp z.size v 0
  | 6 => { x.wrScratch (sp + z.addr) z.size v 0 with walked := x.walked ++ [z.addr] }
  | 7 => { x with tdmP := leBytes z.body 0 4, tdm := (List.range ((z.size - 4) / 4)).map (fun i => (i, BitVec.ofNat 32 (leBytes z.body (4 + 4 * i) 4))) }
  | 8 =>
    let w (i : Nat) : Nat := leBytes z.body (8 * i) 8
    { x with rings := mput x.rings z.num { Ring.reset with base := w 0, slots := w 1, size := w 2, st := List.replicate (w 1) 0 } }
  | _ => { x with desc := mset 0 x.desc z.num z.desc }

/-- The rotary tables of the loaded descriptors. Scratchpad bytes that an earlier sitting has left poisoned, or in error, are taken as they
stand, and the descriptor is clean (DESIGN CHOICE; R96 speaks of bytes the image places; log 106). -/
def loadTables (x : Core) : Core :=
  { x with rot := (List.range 8).flatMap (fun n =>
      let d := mget 0 x.desc n
      if dKind d = 3 then (List.range (dTlen d)).map (fun i => (n * 128 + i, w64 (rdBytes x.mem (SEGSP_BASE x * 64 + dTbase d + 8 * i) 8))) else []) }

/-- A brush at launch: parked before its entry bundle, or halted. s3 holds the size of the sitting over all its parts (R170, R215). -/
def launchBrush (a : Adm) (c : Nat) (fwd : Bool) (b : Nat) : Brush :=
  let e := a.hf (0x18 + 2 * b) 2
  if e = 0xFFFF then Brush.reset
  else
    let s := [colOf c, rowOf c, a.members.length * max 1 (a.t.f 0x16 2), 0, b, if fwd then a.members.findIdx (fun d => d == c) else 0]
    { Brush.reset with run := .parked, pc := e, sys := !a.t.user, s := (List.range 6).map (fun i => (i + 1, ⟨w64 (s.getD i 0), false⟩)) }

/-- A member core with the context of its task (R31) and everything loaded; words no section covers are tagged data. A brush without an entry
is in no membership, nor in the sync mask (R214). Every EXT field of SEGIS is set to 16,384, the store's whole length (log 97: which
extents the Atelier writes is not given). The second core of a pair finds the first's code (R35). -/
def loadCore (a : Adm) (fwd : Bool) (param : List Byte) (c : Nat) (x : Core) : Core :=
  let x := { emptyCore x with
    code := if a.pairs.any (fun p => p.second c) then x.code
      else x.code.filterMap (fun (e : Nat × IWord) => if e.2.w = 0 then none else some (e.1, ⟨e.2.w, false⟩)),
    segsp := w64 (a.spBase c + a.hf 0x28 2 * 2 ^ 16 + a.hf 0x20 4 * 2 ^ 32), segvt := w64 (mget 0 a.vt c + a.hf 0x24 4 * 2 ^ 32), segis := 0x4000400040004000,
    ctxid := w64 (a.t.f 0 8), user := a.t.user, own := BitVec.ofNat 21 (a.hf 0x10 4), syncm := BitVec.ofNat 4 (bitsFrom 4 (fun b => (a.hf 9 1).testBit b && a.hf (0x18 + 2 * b) 2 != 0xFFFF)),
    lands := ((List.range 32).filter (fun n => (a.hf 0x14 4).testBit n)).map (fun n => (n, Land.reset)),
    brushes := (List.range 4).map (launchBrush a c fwd) }
  let x := x.wrScratch (SEGSP_BASE x * 64) 256 (leBytes param 0 256) 0
  loadTables ((a.sects.filter (fun z => z.on c)).foldl (loadSect a c) x)

/-- The tables of bridge stations. -/
def loadBridges (a : Adm) (s : State) : State :=
  (a.sects.filter (fun z => z.kind == 7 && inR 0x1000 0x100F z.core)).foldl (fun s z =>
    let b := z.core - 0x1000
    { s with btdmP := mput s.btdmP b (leBytes z.body 0 4), btdmDom := mput s.btdmDom b (a.t.f 0xD 1),
             btdm := (List.range ((z.size - 4) / 4)).foldl (fun m i => mput m (1024 * b + i) (BitVec.ofNat 32 (leBytes z.body (4 + 4 * i) 4))) s.btdm }) s

/-- Measure an image at load (R361): its digest, and an entry of the log, which holds 910. -/
def measureImage (a : Adm) (s : State) : State :=
  if a.t.f 8 4 / 4 % 2 = 0 then s
  else
    let d := sha512 (a.h ++ a.sects.flatMap (fun z => z.body))
    let s := s.extend 3 d
    if s.measLog.length < 910 then { s with measLog := s.measLog ++ [(w64 (a.t.f 0 8), d)] } else s

/-- A sitting whose domain stands idle starts in the phase as it is, with the next fabric cycle's openings. Of a job of several parts each
part launches its own cores so (DESIGN CHOICE; R170 gives no message by which a part waits for the placement on the others; log 105). -/
def launchIfIdle (c0 : Nat) (s : State) : State :=
  let d := s.coreDom c0
  let m := s.domain d
  let others := s.sittings.any (fun z => z.launched && inDomain s d z)
  if m.exch ∨ m.closing ≠ 0 ∨ m.nextF.isSome ∨ others then s else s.modDomain d (fun m => { m with closing := 3, nextF := some (s.now + 1) })

/-- The routes of a sitting as its member cores stand (R39, R44). -/
def routesOf (s : State) (cs : List Nat) : List (Nat × Nat × Word × Word) := cs.map (fun c => (c, s.station c, (s.core c).segsp, (s.core c).segvt))

/-- Place a task (R173, R332) and load its image. -/
def placeTask (a : Adm) (prio : Nat) (pins : List (Bool × Nat)) (param : List Byte) (s : State) : State :=
  let t := a.t
  let fwd := s.fwd t
  let img := t.f 0x18 8
  let s := gTouch (t.f 0x20 8) 256 (a.sects.foldl (fun s z => gTouch (img + z.foff) z.size s) (gTouch img (64 + 32 * a.sects.length) s))
  let s := configureRegions a.members (t.f 0xD 1) (t.f 0x10 2) (t.f 0x12 2) (measureImage a (dropTask t s))
  let s := { s with pairs := s.pairs ++ a.pairs }
  let s := loadBridges a (a.members.foldl (fun s c => (s.hold c).modCore c (loadCore a fwd param c)) s)
  let c0 := a.members.headD 0
  let z : Sitting := { s.sit 4096 with
    task := t, cores := a.members, dom := t.f 0xD 1, pins := pins, member := a.members, prio := prio, pairs := a.pairs, routes := routesOf s a.members,
    entry := (List.range 4).map (fun b => a.hf (0x18 + 2 * b) 2) }
  launchIfIdle c0 { s with sittings := s.sittings ++ [z], pinTab := pins.foldl addPin s.pinTab, turnQ := t.q }

/-! ### Admission (R39 to R43, R331, R332) -/

/-- The image of a task, as far as it can be read, or its rejection. -/
def readImage (s : State) (t : Task) : Except Rej Adm :=
  let img := t.f 0x18 8
  let range : Except Rej Adm := .error ⟨1, 0, 0, true⟩
  if !mayRead s t img 64 || !mayRead s t (t.f 0x20 8) 256 then range
  else
    let h := gBytes s img 64
    let n := leBytes h 0xE 2
    let ms := membersOf s t
    if !hdrOk t h then .error ⟨4, 0, 0, true⟩
    else if !mayRead s t img (64 + 32 * n) then range
    else
      let recs := gBytes s (img + 64) (32 * n)
      if (List.range n).any (fun i => leBytes recs (32 * i + 4) 4 != 0 && !mayRead s t img (leBytes recs (32 * i + 0x10) 8 + leBytes recs (32 * i + 4) 4)) then range
      else .ok (Adm.place ⟨t, ms, h, (List.range n).map (sectOf s img recs), [], []⟩ s)

/-- The pins of a range that the Atelier reads (R43). -/
def readPins (s : State) (a n : Nat) : List (Bool × Nat) :=
  if gSpace a = 1 then (pagesOf (a % 2 ^ 48) (a % 2 ^ 48 + n)).map (fun p => (true, p))
  else match placeIn (s.core (gCore a)) false (gLocal a) n with
    | some (true, p) => vaultPins s (gCore a) p (p + n)
    | _ => []
/-- The pins of a task's IMAGE and PARAM. -/
def Adm.imagePins (a : Adm) (s : State) : List (Bool × Nat) :=
  let img := a.t.f 0x18 8
  readPins s img (64 + 32 * a.sects.length) ++ a.sects.flatMap (fun z => readPins s (img + z.foff) z.size) ++ readPins s (a.t.f 0x20 8) 256

/-- Where the completion record lies in a member's memory (R38, R40). -/
def Adm.complIn (a : Adm) (s : State) : Bool :=
  let p := a.t.compl
  gSpace p == 1 || (a.global s true p (p + 64)).isSome

/-- Whether a completion record can be written: COMPL meets R38 and R40, those of its segments where the image tells them (R328). -/
def complGood (s : State) (t : Task) : Bool :=
  complOk s t && (match readImage s t with | .ok a => a.complIn { s with pairs := s.pairs ++ a.pairs } | .error _ => true)

/-- The checks of R39 to R43 and R218, in order: COMPL, the image and all pages to be pinned. -/
def checkTask (s : State) (t : Task) : Except Rej (Adm × List (Bool × Nat)) :=
  if !complGood s t then .error ⟨5, 0, 0, false⟩
  else do
    let a ← readImage s t
    let s := { s with pairs := s.pairs ++ a.pairs }
    if !a.imageOk then .error ⟨4, 0, 0, true⟩
    else match a.sects.find? (fun z => z.kind == 7 && a.used z && !z.tdmOk) with
      | some z => .error ⟨1, z.foff, z.ix, true⟩
      | none =>
        let ps ← a.walk s
        let own := a.members.flatMap (fun c => vaultPins s c (a.vtBase c) (a.vtBase c + a.vts))
        let p := t.compl
        pure (a, (ps ++ own ++ (a.global s true p (p + 64)).getD [] ++ a.imagePins s).eraseDups)

/-- Admit the ready task at the head of a queue: it is rejected, placed, or chooses sittings to pre-empt; with none it waits. -/
def admitTask (prio : Nat) (t : Task) (s : State) : Option State :=
  match checkTask s t with
  | .error r => some (rejectTask t r { dropTask t s with turnQ := t.q })
  | .ok (a, ps) =>
    match pinsBad s.pinTab ps with
    | some true => some (rejectTask t ⟨2, 0, 0, true⟩ { dropTask t s with turnQ := t.q })
    | some false => none
    | none =>
      let src := t.f 0xD 1
      let p := t.f 0x10 2
      let q := t.f 0x12 2
      if a.members.any (fun c => decide (376832 < mget 0 a.vt c + a.hf 0x24 4) || (t.f 0x58 4 != 0 && holdsSaved s ((a.pairs.find? (fun p => p.second c || p.first == c)).elim c (fun p => p.host)))) then none
      else if placeable s a.members a.pairs src p q then some (placeTask a prio ps (gBytes s (t.f 0x20 8) 256) s)
      else choosePreempt a.members a.pairs src p q prio s

/-- Resume a pre-empted sitting on its cores (R332). -/
def resumeSitting (z : Sitting) (s : State) : Option State :=
  let src := z.task.f 0xD 1
  let p := z.task.f 0x10 2
  let q := z.task.f 0x12 2
  let c0 := z.member.headD 0
  if placeable s z.member z.pairs src p q then
    let s := configureRegions z.member src p q s
    let s := { s with turnQ := z.task.q, sittings := s.sittings.map (fun y => if y = z then { z with saved := false, cores := z.member } else y) }
    let s := { s with pairs := s.pairs ++ z.pairs.map (fun p => { p with at_ := p.host }) }
    let s := z.member.foldl (fun s c => (ctxRestore c (s.slotOf c (if z.snapSlot = 0 then 1 else 0)) s).modCore c (fun x =>
      { x with undoOn := z.ckpt != 0, service := true })) s
    -- its routes are resolved again before its first compute phase (R44)
    some (launchIfIdle c0 (s.modSitting c0 (fun y => { y with routes := routesOf s z.member })))
  else choosePreempt z.member z.pairs src p q z.prio s

/-! ### Choosing (R331) -/

/-- The effective priority of a task (R331); in the pool at most 6 (R334). -/
def Task.effPrio (t : Task) : Nat :=
  let p := if 64 ≤ t.q then min 6 (t.f 0xC 1) else t.f 0xC 1
  if 7 ≤ p then p else min 6 (p + t.age)

/-- The head of a queue, 64 for the pool: a pre-empted sitting, or the oldest task. -/
def headOf (s : State) (q : Nat) : Option (Sitting ⊕ Task) :=
  let of (t : Task) : Bool := if q = 64 then decide (64 ≤ t.q) else t.q == q
  match s.sittings.find? (fun z => z.saved && of z.task) with
  | some z => some (.inl z)
  | none => ((s.tasks ++ s.pool).find? of).map (fun t => .inr t)

/-- Whether a queue's tasks are admitted. -/
def queueOpen (s : State) (q : Nat) : Bool := q == 64 || (let c := (s.queue q).cfg; c.getLsbD 12 && !c.getLsbD 15)

/-- Ready heads in the order of their turns: higher effective priority first, then round-robin after the queue last served. -/
def turns (s : State) : List (Nat × (Sitting ⊕ Task)) :=
  let prio (h : Sitting ⊕ Task) : Nat := match h with | .inl z => z.prio | .inr t => t.effPrio
  let last := min s.turnQ 64
  let hs : List (Nat × (Sitting ⊕ Task)) := (List.range 65).filterMap (fun i =>
    let q := (last + 1 + i) % 65
    match headOf s q with
    | some h => if queueOpen s q && (match h with | .inl _ => true | .inr t => t.ready) then some (prio h, h) else none
    | none => none)
  (List.range 8).reverse.flatMap (fun p => hs.filter (fun h => h.1 == p))

/-- One admission, if any head can go on. -/
def admitNext (s : State) : Option State :=
  if s.draining || decide (s.stage < 2) || s.off then none
  else (turns s).findSome? (fun h => match h.2 with | .inl z => resumeSitting z s | .inr t => admitTask h.1 t s)

end Sys2Proof.Machine
end

