-- ==== Sys2Proof/Machine/Atelier.lean ====
section
/-! DEFINITION. The Atelier's events: queues, records, readiness, ageing, the task service and its pool, completion (17 R325 to R336). -/
namespace Sys2Proof.Machine

/-! ### Queue registers (R325, R326, R40) -/

/-- Records of a queue's ring. Its indices count modulo that (R326). -/
def Queue.size (z : Queue) : Nat := 2 ^ (z.cfg.extractLsb' 0 5).toNat
def Queue.headIx (z : Queue) : Nat := z.head.toNat % z.size
def Queue.tailIx (z : Queue) : Nat := z.tail.toNat % z.size
def queueBusy (z : Queue) : Bool := z.cfg.getLsbD 12 && z.tailIx != z.headIx

/-- QBASE_WRITE. -/
def execQbaseWrite (q : Nat) (v : BitVec 64) (s : State) : Out := mailbox (
  if 64 ≤ q ∨ v.toNat % 128 ≠ 0 ∨ !gOk v.toNat then (1, s)
  else if queueBusy (s.queue q) then (2, s)
  else (0, s.modQueue q (fun z => { z with base := v })))

/-- QCFG_WRITE; `mc` tells a write of the management controller, which alone sets SYSQ. A write that
clears ERR and changes nothing else is never busy (log 71). -/
def execQcfgWrite (q : Nat) (v : BitVec 64) (mc : Bool) (s : State) : Out :=
  let z := s.queue q
  let rest : Word := 0xFFFFFFFFFFFF7FFF
  mailbox (
    if 64 ≤ q ∨ v.toNat / 2 ^ 16 ≠ 0 ∨ v.getLsbD 11 ∨ v.extractLsb' 5 3 ≠ 0 ∨ ¬ inR 1 16 (v.extractLsb' 0 5).toNat
        ∨ (v.extractLsb' 8 3 = 7 ∧ !v.getLsbD 14) ∨ (v.getLsbD 14 ∧ !mc ∧ !z.cfg.getLsbD 14) then (1, s)
    else if queueBusy z ∧ !(v.getLsbD 15 && z.cfg.getLsbD 15 && v &&& rest == z.cfg &&& rest) then (2, s)
    else (0, s.modQueue q (fun z => { z with cfg := (v &&& rest) ||| (if v.getLsbD 15 then 0 else z.cfg &&& 0x8000) })))

/-- A write of a queue's TAIL (R326). -/
def writeTail (q : Nat) (v : Word) (s : State) : State :=
  let z := s.queue q
  let n := z.size
  let t := v.toNat % n
  let count (t : Nat) : Nat := (t + n - z.headIx) % n
  let set (s : State) : State := s.modQueue q (fun z => { z with tail := BitVec.ofNat 16 t })
  if 2 ^ 16 ≤ v.toNat then s.queueError q
  else if z.cfg.getLsbD 15 then set s
  else if count t ≤ count z.tailIx ∧ t ≠ z.tailIx then s.queueError q
  else set s

/-- QTAIL_WRITE. -/
def execQtailWrite (q : Nat) (v : BitVec 64) (s : State) : Out := .next (if q < 64 then writeTail q v s else s)

/-- HOST_WINDOW_REGISTER: base and length in 4 KiB granules; busy while a task of the queue is admitted and not complete. -/
def execHostWindowRegister (q w base len : Nat) (rd wr : Bool) (s : State) : Out := mailbox (
  if 64 ≤ q ∨ 16 ≤ w ∨ 2 ^ 36 < base + len then (1, s)
  else if s.sittings.any (fun z => z.task.q % 64 == q) then (2, s)
  else (0, { s with windows := mput s.windows (q * 16 + w) ⟨base, len, rd, wr⟩ }))

/-! ### Events (R329) -/

/-- Add to a counter; its vector is raised by every addition. -/
def State.addEvent (s : State) (e : Nat) (v : Word) : State :=
  let s := { s with events := mset 0 s.events e (mget 0 s.events e + v) }
  match s.eventMsi.find? (fun m => m.1 == e) with
  | some m => s.raiseMsi m.2
  | none => s

/-- EVENT_COUNTER_WRITE. -/
def execEventCounterWrite (e : Nat) (v : BitVec 64) (s : State) : Out := .next (if e < 4096 then s.addEvent e v else s)

/-! ### Pulling, readiness, ageing (R326, R328, R329, R331) -/

/-- The waiting time of a task as it is, or is not, a ready head of its queue: it runs on, starts, or pauses (R331). -/
def Task.waits (t : Task) (now : Nat) (head : Bool) : Task :=
  match t.since with
  | none => if t.ready && head then { t with since := some now } else t
  | some a => if head then t else { t with since := none, waited := t.waited + (now - a) }
/-- The same of a list of tasks in queue order, of which the first of each queue that is not among `seen` is the head. -/
def waitsOf (now : Nat) : List Nat → List Task → List Task
  | _, [] => []
  | seen, t :: l => t.waits now (!seen.contains (min t.q 64)) :: waitsOf now (min t.q 64 :: seen) l
/-- The same of the pre-empted sittings, which stand before the tasks of their queues (R332). -/
def savedWaits (now : Nat) : List Nat → List Sitting → List Sitting
  | _, [] => []
  | seen, z :: l =>
    if z.saved then { z with task := z.task.waits now (!seen.contains (min z.task.q 64)) } :: savedWaits now (min z.task.q 64 :: seen) l
    else z :: savedWaits now seen l
/-- The tasks that are ready heads of their queues wait, and no other (R331). -/
def ageStart (s : State) : State :=
  let held := (s.sittings.filter (fun z => z.saved)).map (fun z => min z.task.q 64)
  { s with tasks := waitsOf s.now held s.tasks, pool := waitsOf s.now held s.pool, sittings := savedWaits s.now [] s.sittings }

/-- Whether the frame's services run (R359, R362). -/
def State.serving (s : State) : Bool := decide (2 ≤ s.stage) && !s.off

def canPull (s : State) (q : Nat) : Bool := let z := s.queue q; s.serving && !z.cfg.getLsbD 15 && queueBusy z
def noWaits (t : Task) : Bool := (List.range 4).all (fun i => decide (t.f (0x28 + 8 * i) 8 < 2 ^ 63))

/-- The global address of a queue's next record. -/
def recordAt (z : Queue) : Nat := z.base.toNat + 128 * z.headIx
/-- The core in whose vault a queue's next record lies while a sitting is placed there: it is read in a host slot (R69, R326). -/
def pullSlot (s : State) (q : Nat) : Option Nat :=
  let a := recordAt (s.queue q)
  if gSpace a = 1 ∨ coreFree s (gCore a) then none
  else match placeIn (s.core (gCore a)) false (gLocal a) 128 with
    | some (true, _) => some (gCore a)
    | _ => none
/-- Pull the record at a queue's head: it is judged, and rejected or held. -/
def pullRecord (q : Nat) (s : State) : State :=
  let s := { s with pulls := s.pulls.erase q }
  if !canPull s q then s
  else
    let z := s.queue q
    let t : Task := ⟨q, gBytes s (recordAt z) 128, none, 0, 0, false, !z.cfg.getLsbD 14⟩
    let s := (gTouch (recordAt z) 128 s).modQueue q (fun z => { z with head := BitVec.ofNat 16 ((z.headIx + 1) % z.size) })
    if !complOk s t || !recordOk s t (z.cfg.extractLsb' 8 3).toNat then rejectTask t ⟨5, 0, 0, complGood s t⟩ s
    else ageStart { s with tasks := s.tasks ++ [{ t with ready := noWaits t }] }
/-- RECORD_PULL at queue `here`: at once, or in a host slot of its vault. -/
def execRecordPull (s : State) : Out :=
  let q := s.here
  .next (if !canPull s q ∨ s.pulls.contains q then s
    else if (pullSlot s q).isSome then { s with pulls := s.pulls ++ [q] } else pullRecord q s)
/-- Records whose vault has come to stand without a sitting wait for no slot. -/
def releasePulls (s : State) : State := (s.pulls.filter (fun q => (pullSlot s q).isNone)).foldl (fun s q => pullRecord q s) s

/-- Tasks whose waits are met and that are not ready yet. -/
def ripens (s : State) (t : Task) : Bool := !t.ready && waitsMet s t
/-- TASK_READY. -/
def execTaskReady (s : State) : Out :=
  let f (t : Task) : Task := if ripens s t then { t with ready := true } else t
  .next (ageStart { s with tasks := s.tasks.map f, pool := s.pool.map f })

/-- TASK_ADMISSION. -/
def execTaskAdmission (s : State) : Out := .next (match admitNext s with | some t => ageStart t | none => s)

/-- Whether a task of effective priority `p` has waited a further full millisecond of 1,250,000 fabric cycles. -/
def Task.ages (t : Task) (now p : Nat) : Bool :=
  match t.since with
  | some a => decide ((t.age + 1) * 1250000 ≤ t.waited + (now - a)) && decide (p < 6)
  | none => false
/-- PRIORITY_AGING: of tasks, and of pre-empted sittings from the priority they returned with (R332). -/
def execPriorityAging (s : State) : Out :=
  let f (t : Task) : Task := if t.ages s.now t.effPrio then { t with age := t.age + 1 } else t
  .next { s with tasks := s.tasks.map f, pool := s.pool.map f, sittings := s.sittings.map (fun z =>
    if z.saved && z.task.ages s.now z.prio then { z with prio := z.prio + 1, task := { z.task with age := z.task.age + 1 } } else z) }

/-! ### Device-created work (R333, R334) -/

/-- Whether a record may take a pool entry now. -/
def mayEnter (s : State) (t : Task) : Bool := decide (s.pool.length < 4096) && (waitsMet s t || decide (s.pool.length + 64 < 4096))

/-- The vault address of a place of the overflow ring: in the system work area of core 0 (R35; log 100). -/
def overflowAt (i : Nat) : Nat := Config.workBase + 128 * i
/-- The record at a place of the ring, whose latent errors are met. -/
def ringRecord (i : Nat) (s : State) : List Byte × State :=
  let s := (s.holdHost 0).eccTouch 0 true (overflowAt i) 128
  ((List.range 128).map (fun k => rdByte (s.core 0).vault (overflowAt i + k)), s)
/-- A record joins the overflow queue, at the first free place from the ring's tail on. -/
def overflowPut (t : Task) (s : State) : State :=
  let places := (List.range (s.overflow.length + 1)).map (fun k => (s.overNext + k) % 65536)
  let i := (places.find? (fun i => !s.overflow.any (fun e => e.1 == i))).getD 0
  let s := (s.holdHost 0).modCore 0 (fun x =>
    { x with vault := wrBytes x.vault (overflowAt i) (leBytes t.rec_ 0 128) 128, vaultP := wrPois x.vaultP 16 (overflowAt i) 128 0,
             ecc := clearEcc x.ecc (2 ^ 40) 16 (overflowAt i) 128 })
  { s with overflow := s.overflow ++ [(i, t)], overNext := (i + 1) % 65536 }

/-- POOL_REFILL: the oldest overflow record that may take an entry moves, as its ring holds it. -/
def execPoolRefill (s : State) : Out :=
  .next (match s.overflow.find? (fun e => mayEnter s e.2) with
    | some (i, t) =>
      let (l, s) := ringRecord i s
      ageStart { s with overflow := s.overflow.filter (fun e => e.1 != i), pool := s.pool ++ [{ t with rec_ := l }] }
    | none => s)

/-- The status of a task service call, and the state after it. The record is read in the brush's own privilege. -/
def serviceCall (c b : Nat) (s : State) : Nat × State :=
  let x := s.core c
  let a := mget Sc.zero (x.brush b).lat 15
  let sysp := frameDw x b 0 / 2 ^ 20 % 2 == 1
  let place := if a.v.toNat % 64 ≠ 0 ∨ !inR 0 0x3FFFFF a.v.toNat then none
    else match checkAddrAs s c sysp .sw false a.v 128 0x328 with | .ok (.scratch, p) => some p | _ => none
  match place with
  | none => (1, s)
  | some p =>
    let q := match s.sittingOf c with | some z => z.task.q % 64 | none => 0
    let t : Task := ⟨64 + q, (List.range 128).map (fun i => rdByte x.mem (p + i)), none, 0, 0, false, !sysp⟩
    let t := { t with ready := noWaits t }
    let s := s.eccTouch c false p 128
    if !complOk s t || !recordOk s t (if sysp then 7 else 6) then (2, s)
    else if mayEnter s t then (0, ageStart { s with pool := s.pool ++ [t] })
    else if s.overflow.length < 65536 then (0, overflowPut t s)
    else (3, s)

/-- Serve a brush that waits for the task service: its status stands in the frame's copy of CU.y, and the handler goes on. -/
def serve (c b : Nat) (s : State) : State :=
  if (s.brush c b).run ≠ .waiting .service then s
  else
    let (st, s) := serviceCall c b (s.hold c)
    s.modCore c (fun x =>
      let a := Config.frameBase + 512 * b
      let cause := frameDw x b 0
      let m := wrBytes (wrBytes x.mem (a + 0xC0) st 8) a (cause - (if cause.testBit 60 then 2 ^ 60 else 0)) 8
      { x with mem := m }.modBrush b (fun y => { y with run := .running, nextAt := max y.nextAt (s.cyc c + 1) }))

/-- Every call that waits. -/
def serveAll (s : State) : State :=
  (s.sittings.flatMap (fun z => z.cores)).foldl (fun s c => (List.range 4).foldl (fun s b => serve c b s) s) s

/-! ### Completion (R335, R336, R175, R43) -/

/-- Whether the accesses a core has issued are performed. -/
def settled (s : State) (c : Nat) : Bool :=
  let x := s.core c
  x.brushes.all (fun y => y.flights.all (fun f => f.pieces == [] && f.slots == [])) && x.engW == [] && x.lc.ops.isEmpty && x.xc.ops.isEmpty && offRing s c

/-- A core is done: its brushes have halted, its tracker is empty and its exchange is performed (R175, R336). In a sitting that has failed,
a brush that a double trap stopped counts as done (R318, R343). -/
def coreOver (failed : Bool) (s : State) (c : Nat) : Bool :=
  let x := s.core c
  (x.alive == [] && x.tracker == [] && !x.xc.run && offRing s c) ||
  failed && x.alive.all (fun b => (x.brush b).run == .stopped) && settled s c

/-- Whether a sitting is over: its cores are done; of one that was ended where it stood, the issued accesses are performed. -/
def taskDone (s : State) (z : Sitting) : Bool :=
  !z.saved && if z.frozen && z.status.isSome && !z.expiry && z.openAt.isNone then z.cores.all (settled s)
    else z.launched && z.cores.all (coreOver z.status.isSome s)

/-- The completion record of a sitting. -/
def sittingRecord (s : State) (z : Sitting) : Nat :=
  let (code, detail) := z.status.getD (0, 0)
  complRecord (code + detail * 2 ^ 32) (z.task.f 0 8) z.start.toNat s.house.toNat
    (z.phases + if !z.frozen && z.cores.all (fun c => (s.core c).alive == []) then 1 else 0) z.ckpts z.faults
    (z.corrected % 2 ^ 32 + z.contained % 2 ^ 16 * 2 ^ 32 + z.rollbacks % 2 ^ 16 * 2 ^ 48) (z.member.length - z.pairs.length)

/-- The cores of a sitting and the tables it loaded are given up. -/
def freeSitting (z : Sitting) (s : State) : State :=
  let s := unpair z s
  let s := { s with sittings := s.sittings.filter (fun y => y != z), lanes := s.lanes.filter (fun e => !z.cores.any (fun c => e.2.inj == posOf c)) }
  let s := z.cores.foldl (fun s c => s.modCore c (fun x =>
    let keep := holdsSaved s c
    { emptyCore x with undo := if keep then x.undo else [], undoFull := keep && x.undoFull })) s
  if s.sittings.any (fun y => y.dom == z.dom) then s
  else { s with btdmP := s.btdmP.filter (fun e => mget 0 s.btdmDom e.1 != z.dom) }

/-- TASK_COMPLETION of the sitting on core `here`: the record, then the pins, then the signal, or the queue's error. -/
def execTaskCompletion (s : State) : Out :=
  match s.sittings.find? (fun z => z.member.contains s.here && taskDone s z) with
  | none => .next s
  | some z =>
    let s := gWrite z.task.dev z.task.compl 64 (sittingRecord s z) s
    let s := freeSitting z { s with pinTab := z.pins.foldl dropPin s.pinTab }
    let sig := z.task.f 0x48 8
    if (z.status.getD (0, 0)).1 ≠ 0 then .next (s.queueError z.task.q)
    else .next (if sig < 2 ^ 63 then s else s.addEvent (sig / 2 ^ 48 % 4096) (w64 (sig % 2 ^ 48)))

/-- ABORTED_BY_THE_DRIVER: the sitting on core `here` stops and ends with status 8; with none placed there, one pre-empted from it. -/
def execAbortedByTheDriver (s : State) : Out :=
  let c := s.here
  let end_ (z : Sitting) : Sitting := { z with frozen := true, saved := false, expiry := false, openAt := none, status := z.status.orElse (fun _ => some (8, 0)) }
  .next { s with sittings := s.sittings.map (fun z =>
    if z.cores.contains c || (coreFree s c && z.saved && z.member.contains c) then end_ z else z) }

/-- MIGRATE_UNMAP_OR_REPURPOSE_REQUEST: busy while the page is pinned (R44); `kind` names a host page. -/
def execMigrateUnmapOrRepurposeRequest (kind : Bool) (page : Nat) (s : State) : Out :=
  mailbox (if (pinFind s.pinTab (kind, page)).isSome then 2 else 0, s)

/-! ### What the Atelier can do now -/

/-- Its events that make progress, as jobs. An admission looks at what stood ready before this cycle's additions (R329). -/
def atelierJobs (s : State) : List Job :=
  let one (p : Bool) (i : Instr) : List Job := if p then [.ev 0 i] else []
  let all := s.tasks ++ s.pool
  let done : List Job := (s.sittings.filter (taskDone s)).filterMap (fun z => z.member.head?.map (fun c => .ev c .taskCompletion))
  one (admitNext s).isSome .taskAdmission
  ++ done
  -- the additions of this cycle's completions are judged with it
  ++ one (done != [] || all.any (ripens s)) .taskReady
  ++ ((List.range 64).filter (fun q => canPull s q && !s.pulls.contains q)).map (fun q => .ev q .recordPull)
  ++ one (s.overflow.any (fun e => mayEnter s e.2)) .poolRefill
  ++ one (all.any (fun t => t.ages s.now t.effPrio) || s.sittings.any (fun z => z.saved && z.task.ages s.now z.prio)) .priorityAging

end Sys2Proof.Machine
end

