-- ==== Sys2Proof/Machine/Ras.lean ====
section
/-! DEFINITION. The host's vault accesses and MMIO, reserved vault slots, fatal errors, repair and self-test (02 R46; 03 R69, R74, R75, R78;
18 R337, R350, R351; 19 R353). -/
namespace Sys2Proof.Machine

/-! ### MMIO (R353) -/

/-- What a write to the mailbox area does: it is held there, and may bind a counter to a vector or clear a machine-check bank (log 74). -/
def mailboxWrite (off : Nat) (v : BitVec 64) (s : State) : State :=
  let s := { s with bar := mset 0 s.bar off v }
  let s := match Config.eventBinding off v with
    | some (e, m) => { s with eventMsi := mput s.eventMsi (e % 4096) (m % 256) }
    | none => s
  let s := match Config.bankClear off v with
    | some k => { s with banks := mput s.banks (k % 144) { mget McBank.reset s.banks (k % 144) with status := 0, count := 0 } }
    | none => s
  let s := match Config.maintInterval off v with
    | some (c, n) => { s with maintInt := mset 0 s.maintInt (c % 1024) n, maintAt := mput s.maintAt (c % 1024) (s.now + n) }
    | none => s
  match Config.powerLimit off v with
  | some w => if 4500 < w then { s with hostMsg := 1 } else { s with powerLimit := w, hostMsg := 0 }
  | none => s

/-- REGISTER_WRITE of `size` bytes at an offset of BAR 0. The MSI-X table has 256 entries of 16 bytes (R352). -/
def execRegisterWrite (off size : Nat) (v : BitVec 64) (s : State) : Out :=
  if size ≠ 8 ∨ off % 8 ≠ 0 ∨ 2 ^ 20 ≤ off then .next { s with hostMsg := 4 }
  else if inR 0x10000 0x101FF off then .next (writeTail ((off - 0x10000) / 8) v s)
  else if inR 0x20000 0x27FFF off then .next (s.addEvent ((off - 0x20000) / 8) v)
  else if off < 0x1000 then .next (mailboxWrite off v s)
  else if inR 0x80000 0x80FFF off then .next { s with bar := mset 0 s.bar off v }
  else .next s

/-! ### Host writes to a vault (R46, R74) -/

/-- The lines of a host write: the core, the line with its bytes and mask, and whether it lies in the system area. -/
def hostLines (off : Nat) (bs : List Byte) : List (Nat × HostLine × Bool) :=
  if bs = [] then []
  else (granules off bs.length).map (fun g =>
    let o := 64 * g % Config.vaultBytes
    let js := (List.range 64).filter (fun j => decide (off ≤ 64 * g + j) && decide (64 * g + j < off + bs.length))
    let data := js.foldl (fun a j => a + (bs.getD (64 * g + j - off) 0).toNat * 256 ^ j) 0
    (64 * g / Config.vaultBytes, ⟨o / 64, BitVec.ofNat 512 data, BitVec.ofNat 64 (js.foldl (fun a j => a + 2 ^ j) 0)⟩, decide (Config.ctxBase ≤ o)))

/-- Merge a line into a host buffer. -/
def putLine (h : HostLine) (l : List HostLine) : List HostLine :=
  if l.any (fun e => e.line == h.line) then l.map (fun e =>
    if e.line = h.line then
      let m := (List.range 64).foldl (fun (m : BitVec 512) j => if h.mask.getLsbD j then m ||| (0xFF : BitVec 512) <<< (8 * j) else m) 0
      ⟨e.line, (e.data &&& ~~~m) ||| (h.data &&& m), e.mask ||| h.mask⟩
    else e)
  else l ++ [h]

def panelUp (s : State) (c : Nat) : Bool := s.panels.contains (panelOf c)
def panelAsleep (s : State) (c : Nat) : Bool := s.asleep.contains (panelOf c)
/-- Record a corrected error of the frame in bank 16 + `bank`. -/
def State.frameError (s : State) (bank ty cls : Nat) (addr : Word) : State := s.mcRecord 8 bank ty cls 0 addr 0x7FF 0 0 false

/-- Take a line into the buffer of its vault, or hold it at the link behind a full buffer or an earlier line held there (R74). -/
def takeLine (l : Nat × HostLine) (s : State) : State :=
  let s := s.hold l.1
  if s.hostHeld.any (fun e => e.1 == l.1) || decide (256 ≤ (s.core l.1).hbuf.length) then { s with hostHeld := s.hostHeld ++ [l] }
  else s.modCore l.1 (fun x => { x with hbuf := putLine l.2 x.hbuf })
/-- Held lines go on, oldest first, where their buffer has room. -/
def releaseHeld (s : State) : State := s.hostHeld.foldl (fun s l => takeLine l s) { s with hostHeld := [] }

/-- HOST_VAULT_WRITE: bytes in the system area are discarded and recorded, and a panel that is not up loses the write. Both logical cores
of a time-sliced pair show the one vault they share. -/
def execHostVaultWrite (off : Nat) (bs : List (BitVec 8)) (s : State) : Out :=
  let ls := hostLines off bs
  if ls.any (fun l => decide (1024 ≤ l.1)) then .next { s with hostMsg := 4 }
  else if ls.any (fun l => !panelUp s l.1) then .next (s.frameError 2 0x12 0 (w64 (off % Config.vaultBytes)))
  else
    let s := (ls.filter (fun l => !l.2.2)).foldl (fun s l => takeLine (s.hostOf l.1, l.2.1) s) s
    .next (if ls.any (fun l => l.2.2) then s.frameError 0 0x10 0 (w64 (off % Config.vaultBytes)) else s)

/-- HOST_BUFFER_COMMIT: one line a cycle, in arrival order, where host writes may be committed. -/
def execHostBufferCommit (s : State) : Out := .next (if s.commits s.here then hostCommit s.here s else s)

/-! ### Host reads (R46, R75, R153, R353) -/

/-- Whether a byte of a vault is the host's to read: the system area reads as zero, but for the saved contexts of a part that drains (R46, R351;
log 110). -/
def hostReads (s : State) (o : Nat) : Bool := decide (o < Config.ctxBase) || (s.draining && decide (o < Config.undoBase))
/-- What a read of the vault returns. -/
def hostBytes (s : State) (off n : Nat) : List Byte × Bool :=
  let at_ (i : Nat) : Core × Nat := (s.core (s.hostOf ((off + i) / Config.vaultBytes)), (off + i) % Config.vaultBytes)
  ((List.range n).map (fun i => let (x, o) := at_ i; if hostReads s o then rdByte x.vault o else 0),
   (List.range n).any (fun i => let (x, o) := at_ i; hostReads s o && mget false x.vaultP (o / 16)))

/-- Answer a read; latent errors are met, and `bad` marks the data of a vault that is not running. -/
def hostServe (off n : Nat) (bad : Bool) (s : State) : State :=
  let o := off % Config.vaultBytes
  let c := s.hostOf (off / Config.vaultBytes)
  let s := s.hold c
  let s := if bad ∨ n = 0 then s else s.eccTouch c true o n
  let (l, p) := hostBytes s off n
  { s with hostRead := l, hostReadP := p || bad }

/-- Whether a core's region runs. -/
def runs (s : State) (c : Nat) : Bool := let g := regionOf c; s.rsrc g != 0 && !(s.region g).stopped

/-- HOST_VAULT_READ: it waits for its host slot; without a running vault it completes with poison, and on a core without a sitting, whose
cycles are not counted in k, it is served at once. -/
def execHostVaultRead (off n : Nat) (s : State) : Out :=
  let c := off / Config.vaultBytes
  if Config.cores * Config.vaultBytes < off + n then .next { s with hostMsg := 4 }
  else if !panelUp s c ∨ panelAsleep s c then .next { s with hostRead := List.replicate n 0, hostReadP := true }
  else if !runs s c then .next (hostServe off n true s)
  else if coreFree s c then .next (hostServe off n false s)
  else .next { s with hostReqs := s.hostReqs ++ [(off, n)] }
/-- Reads whose vault has come to stand still, or to be free, wait no longer (R75, R153). -/
def releaseReads (s : State) : State :=
  let go (r : Nat × Nat) : Bool := !runs s (r.1 / Config.vaultBytes) || coreFree s (r.1 / Config.vaultBytes)
  (s.hostReqs.filter go).foldl (fun s r => hostServe r.1 r.2 (!runs s (r.1 / Config.vaultBytes)) s) { s with hostReqs := s.hostReqs.filter (fun r => !go r) }

/-- One line of a row under repair is copied, and the errors of the cells left behind go with its last (R69, R351). -/
def repairLine (r : Nat × Nat × Nat) (s : State) : State :=
  let (c, row, left) := r
  let a := row * Config.rowBytes + Config.rowBytes - 64 * left
  let s := (s.hold c).eccTouch c true a 64
  let rest := { s with repairs := s.repairs.erase r }
  if 1 < left then { s with repairs := s.repairs.map (fun q => if q = r then (c, row, left - 1) else q) }
  else rest.modCore c (fun x => { x with rowErrs := mdel x.rowErrs row, ecc := x.ecc.filter (fun e =>
    !(decide (2 ^ 40 + row * Config.rowBytes / 16 ≤ e.1) && decide (e.1 < 2 ^ 40 + (row + 1) * Config.rowBytes / 16))) })

/-- The lines left of a row under repair at once. -/
def repairAll (r : Nat × Nat × Nat) (s : State) : State :=
  (List.range (max 1 r.2.2)).foldl (fun s i => repairLine (r.1, r.2.1, r.2.2 - i) s) s
/-- Rows under repair on a core that has become free wait for no slot. -/
def releaseRepairs (s : State) : State := (s.repairs.filter (fun r => coreFree s r.1)).foldl (fun s r => repairAll r s) s

/-- HOST_SLOT in the present cycle of core `here`: the oldest read of its vault is served, or a task record pulled, or a line of a row under
repair copied. -/
def execHostSlot (s : State) : Out :=
  let c := s.here
  if slotKind s c (s.cyc c) ≠ some 1 ∨ !s.slotCore c then .next s
  else match s.hostReqs.find? (fun r => s.hostOf (r.1 / Config.vaultBytes) == s.hostOf c) with
    | some r => .next (hostServe r.1 r.2 false { s with hostReqs := s.hostReqs.erase r })
    | none => match s.pulls.find? (fun q => match pullSlot s q with | some d => s.hostOf d == s.hostOf c | none => false) with
    | some q => .next (pullRecord q s)
    | none => match s.repairs.find? (fun r => r.1 == s.hostOf c) with
      | some r => .next (repairLine r s)
      | none => .next s

/-- REFRESH_SLOT in the present cycle of core `here`: the patrol scrub corrects the first latent error of the vault, and keeps poison. -/
def execRefreshSlot (s : State) : Out :=
  let c := s.here
  if slotKind s c (s.cyc c) ≠ some 0 ∨ !s.slotCore c then .next s
  else
    let s := s.hold c
    match (s.core c).ecc.find? (fun e => inR (2 ^ 40) (2 ^ 41 - 1) e.1) with
    | none => .next s
    | some e => .next ((s.eccTouch c true ((e.1 - 2 ^ 40) * 16) 16).modCore c (fun x => { x with ecc := mdel x.ecc e.1 }))

/-- VAULT_ROW_REPAIR: the row is copied to a spare line by line, in host slots; of a core without a sitting at once (R69, R351). -/
def execVaultRowRepair (c row : Nat) (s : State) : Out :=
  let r := (s.hostOf c, row, Config.rowBytes / 64)
  .next (if coreFree s c then repairAll r { s with repairs := r :: s.repairs } else { s with repairs := s.repairs ++ [r] })

/-! ### Fatal errors and reset (R337, R338) -/

/-- FATAL_ERROR of one of the types of that class: the device stops, nothing completes. -/
def execFatalError (ty : BitVec 8) (s : State) : Out :=
  if !inR 0x13 0x16 ty.toNat then .next s
  else
    let s := (s.frameError (ty.toNat - 0x10) ty.toNat 2 0).mcFlush
    .next { s with fatal := true, busy := false, agenda := [], regions := s.regions.map (fun e => (e.1, { e.2 with stopped := true })) }

/-- What a reset leaves: the outside of the part, and what power and fuses hold. -/
def afterReset (s : State) : State :=
  { State.reset with
    now := s.now, inputs := s.inputs, srcRate := s.srcRate, srcPlan := s.srcPlan, houseGaps := s.houseGaps, asks := s.asks, hostMem := s.hostMem, fw := s.fw,
    device := s.device, nonces := s.nonces, fv := s.fv }

/-! ### Draining, self-test (R350, R351) -/

/-- DRAINING. -/
def execDraining (s : State) : Out := .next { s with draining := true }

/-- The row of panel rows a core's physical position is in, and the cores of that row. -/
def rowKey (c : Nat) : Nat := panelOf c * 8 + rowOf c % 8
def rowCores (c : Nat) : List Nat := (List.range 16).map (fun i => 32 * rowOf c + 16 * (colOf c / 16) + i)

/-- Mark a core out (R350, R173): the row's spare takes over, and columns from the failed one up hold the memories of their new positions;
with no spare left, or with sittings on the row, the core leaves the pool. -/
def markOut (c : Nat) (s : State) : State :=
  let row := rowCores c
  if mget 0 s.remap (rowKey c) = 0 ∧ row.all (fun d => coreFree s d && !holdsSaved s d) then
    let s' := { s with remap := mput s.remap (rowKey c) (colOf c % 16 + 1) }
    (row.filter (fun d => decide (c ≤ d))).foldl (fun z d =>
      z.setCore d (if row.contains (d + 1) then s.core (d + 1) else Core.reset)) s'
  else { s with outCores := s.outCores ++ [c] }

/-- Whether one of the three tests fails on a core (R306, R350; log 17). -/
def testsFail (x : Core) : Bool := (List.range 3).any (fun n => (bistFail x n).isSome)

/-- MAINTENANCE_SITTING_DUE on core `here`: due, then running for 2 ms once the core holds no placement, if the signed image verifies, then
judged by the three tests. An interval of 0 turns them off. -/
def execMaintenanceSittingDue (s : State) : Out :=
  let c := s.here
  let m := mget 0 s.maint c
  let n := mget 0 s.maintInt c
  if m < 2 ∧ n = 0 then .next { s with maint := mdel s.maint c }
  else if m < 2 then
    let s := if m = 0 then { s with maintAt := mput s.maintAt c (s.now + n) } else s
    if !(coreFree s c && s.serving && panelUp s c) then .next { s with maint := mput s.maint c 1 }
    else if verifies Config.maintBody Config.maintSig then .next { s with maint := mput s.maint c (s.now + 2500000) }
    else .next { s with maint := mdel s.maint c }
  else if s.now < m then .next s
  else
    let bad := testsFail (s.core c)
    let s := { s.modCore c (fun x => { emptyCore x with glitch := 0 }) with maint := mdel s.maint c }
    .next (if bad then markOut c (s.coreError c 12 0x0D 0 0 0 0) else s)

/-- Maintenance sittings whose interval has gone by, and those that can go on. -/
def maintJobs (s : State) : List Job :=
  (s.maintAt.filter (fun e => decide (e.2 ≤ s.now) && mget 0 s.maintInt e.1 != 0 && mget 0 s.maint e.1 == 0 && s.serving)).map (fun e => .ev e.1 .maintenanceSittingDue)
  ++ (s.maint.filter (fun e => if e.2 = 1 then coreFree s e.1 && s.serving && panelUp s e.1 else decide (e.2 ≤ s.now))).map (fun e => .ev e.1 .maintenanceSittingDue)

end Sys2Proof.Machine
end

