-- ==== Sys2Proof/Machine/Start.lean ====
section
/-! DEFINITION. The Exier Link, source pins, staged start, measurement, security, debug and power (07 R159; 19 R352 to R364). -/
namespace Sys2Proof.Machine

/-! ### The Exier Link (R354 to R356; log 39, 42) -/

/-- Whether a flit's reserved fields are zero. -/
def flitOk (f : List Byte) : Bool :=
  let z (o n : Nat) : Bool := leBytes f o n == 0
  decide (leBytes f 0 2 < 4096) && decide (leBytes f 2 2 < 4096) && decide (leBytes f 4 1 < 4) && decide (leBytes f 5 1 < 4) && z 6 2 && z 0xC 4
  && (match leBytes f 4 1 with | 0 => z 0xB0 64 | 1 => z 0x1A 214 | _ => true)

/-- The base of the segment a physical place lies in. -/
def segBase (x : Core) (v : Bool) : Nat := if !x.user then 0 else if v then SEGVT_BASE x * 4096 else SEGSP_BASE x * 64

/-- The slot an exchange flit carries, in the arrangement of its sending (log 42). Of a multicast slot the place on its first core gives
those on the others, at the same place of their segments. -/
def flitSlot (s : State) (f : List Byte) : Slot :=
  let w (i : Nat) : Nat := leBytes f (0x10 + 8 * i) 8
  let d0 := w 0
  let c0 := d0 % 32
  let r0 := d0 / 2 ^ 5 % 32
  let nc := d0 / 2 ^ 10 % 32 + 1
  let nr := d0 / 2 ^ 15 % 32 + 1
  let n := min 128 (d0 / 2 ^ 40 % 256)
  let a : Nat := w 1 % 2 ^ 36
  let dsts := ((List.range nr).flatMap (fun r => (List.range nc).map (fun k => 32 * (r0 + r) + c0 + k))).filter (fun c => decide (c < 1024))
  let v := d0.testBit 29
  let base (d : Nat) : Nat := segBase (s.routed d d) v
  let off : Int := (a : Int) - base (dsts.headD 0)
  { kind := d0 / 2 ^ 20 % 4, src := leBytes f 2 2 * 1024 + w 3 % 1024, dsts := dsts, dev := leBytes f 0 2,
    places := dsts.map (fun d => (v, (base d + off).toNat)), loc := a, n := n, land := d0 / 2 ^ 22 % 32, tag := leBytes f 5 1, op := d0 / 2 ^ 27 % 4, ty := d0 / 2 ^ 32 % 256,
    data := BitVec.ofNat 1024 (leBytes f 0x30 128), pois := BitVec.ofNat 32 (w 3 / 2 ^ 32), before := w 2, mcast := d0.testBit 30, marks := [],
    ready := 0, inj := 0, out := false, drained := false }

/-- Deliver a flit that has passed its checks. Driver messages have no layout: what they cause is an input (log 7). -/
def deliverFlit (port : Nat) (f : List Byte) (s : State) : State :=
  if !flitOk f then s.frameError 1 0x11 0 0
  else match leBytes f 4 1 with
    | 0 => { s with flits := s.flits ++ [flitSlot s f] }
    | 1 => { s with agenda := .ev port (.beatMarker port (BitVec.ofNat 80 (leBytes f 0x10 8 * 2 ^ 16 + leBytes f 0x18 2))) :: s.agenda }
    | 2 => hearMessage (leBytes f 2 2) (f.drop 0x10) s
    | _ => s

/-- FLIT_RECEIVE: corrected, checked, delivered in sequence; a flit that fails is asked for again; the port is taken
down after eight failed replays of it, the ninth failure (R355). -/
def execFlitReceive (port : Nat) (bs : List (BitVec 8)) (s : State) : Out :=
  let p := s.port port
  if 24 ≤ port ∨ !s.linkUp port ∨ bs.length ≠ 256 then .next s
  else
    let (f, ok) := Config.fec bs
    if !ok ∨ (crc32 (f.take 0xF0)).toNat ≠ leBytes f 0xF0 4 then
      let s := s.modPort port (fun p => { p with replays := p.replays + 1, asked := some p.seqIn })
      .next (if 8 ≤ p.replays then { s with agenda := .ev port .linkDown :: s.agenda } else s)
    else if leBytes f 8 4 ≠ p.seqIn.toNat then .next s
    else
      let s := if f ≠ bs ∨ p.replays ≠ 0 then s.frameError 1 0x11 0 0 else s
      .next (deliverFlit port f (s.modPort port (fun p => { p with seqIn := p.seqIn + 1, replays := 0, asked := none })))

/-- LINK_DOWN of port `here`: what it had to send stops. -/
def execLinkDown (s : State) : Out :=
  .next ((s.modPort s.here (fun p => { p with up := false, queue := [], again := [], asked := none })).frameError 1 0x11 1 0)

/-- LANE_SPARE: the port retrains without the lane, at most 2 ms, and sends nothing meanwhile; with fewer than two good lanes it goes down. -/
def execLaneSpare (port lane : Nat) (s : State) : Out :=
  let s := { s.modPort port (fun p => { p with lanes := lset p.lanes lane false, retrain := s.now + Config.retrain s.fv % 2500001 }) with fv := s.fv + 1 }
  .next (if (s.port port).up ∧ (s.port port).lanes.count true < 2 then { s with agenda := .ev port .linkDown :: s.agenda } else s)

/-! ### Source pins (R358) -/

/-- PINCFG_WRITE. -/
def execPincfgWrite (p : Nat) (v : BitVec 64) (s : State) : Out := mailbox (
  if 4 ≤ p ∨ 2 ^ 6 ≤ v.toNat ∨ v.getLsbD 3 ∨ 6 ≤ v.toNat % 8 then (1, s)
  else if (List.range 32).any (fun g => s.rsrc g == p + 2 && s.regionUsed g) then (2, s)
  else (0, { s with pins := mput s.pins p (v.setWidth 6) }))

/-- Whether no sitting is placed. -/
def State.unplaced (s : State) : Bool := s.sittings.all (fun z => z.saved)

/-! ### Power (R159, R364; log 109) -/

/-- Whether a cause of lowering the ratios stands. -/
def State.capCause (s : State) : Bool := decide (s.powerLimit < s.power.1) || decide (8500 < s.power.2.1) || decide (90 < s.power.2.2)
/-- The power state changes at once where nothing is placed, else at a boundary (R362). -/
def setCapped (v : Bool) (s : State) : State :=
  if s.unplaced then { s with powerCapped := v, capPend := none } else { s with capPend := some v }
/-- What the controller measures; a DRAM junction at 95 °C is fatal (R338). -/
def measurePower (w a t : Nat) (s : State) : State :=
  let s' := { s with power := (w, a, t) }
  let s' := if s.capCause ∨ s'.capCause then { s' with coolAt := s.now } else s'
  if 95 ≤ t then { s' with agenda := .ev 0 (.fatalError 0x16) :: s'.agenda } else s'

/-- Write ratios of house-locked regions, those that go the given way; none below its floor. They take effect as R161 gives. -/
def setRatios (lower : Bool) (r : List (Nat × Nat × Nat)) (s : State) : State :=
  r.foldl (fun s e =>
    let a := (s.region e.1).a
    let way := if lower then decide (e.2.1 * qOf a ≤ pOf a * e.2.2) else decide (pOf a * e.2.2 ≤ e.2.1 * qOf a)
    if s.rsrc e.1 = 1 ∧ way then (writeRcfga e.1 (BitVec.ofNat 16 e.2.1 ++ BitVec.ofNat 16 e.2.2 ++ a.extractLsb' 0 32) s).2 else s) s
/-- The ratio of a region as a key, and whether it is back at what it was before it was lowered. -/
def ratioKey (s : State) (g : Nat) : Nat := pOf (s.region g).a * 65536 + qOf (s.region g).a
def ratioBack (s : State) (e : Nat × Nat) : Bool :=
  s.rsrc e.1 != 1 || decide (e.2 / 65536 * qOf (s.region e.1).a ≤ pOf (s.region e.1).a * (e.2 % 65536))
/-- POWER_CAP: the ratios the management controller lowers, by region, while a cause stands. -/
def execPowerCap (r : List (Nat × Nat × Nat)) (s : State) : Out :=
  if !s.capCause then .next s
  else
    let base := r.foldl (fun m e => if s.rsrc e.1 = 1 ∧ mget 0 m e.1 = 0 then mput m e.1 (ratioKey s e.1) else m) s.capBase
    .next (setCapped true { setRatios true r s with capBase := base })
/-- POWER_RESTORE: a step back, once no cause has stood for 10 ms, and no further than each region was; with the last the cap ends. -/
def execPowerRestore (r : List (Nat × Nat × Nat)) (s : State) : Out :=
  if s.capCause ∨ s.now < s.coolAt + 12500000 then .next s
  else
    let s := setRatios false (r.filter (fun e => let b := mget 0 s.capBase e.1; decide (e.2.1 * (b % 65536) ≤ b / 65536 * e.2.2) && b != 0)) s
    .next (if s.capBase.all (ratioBack s) then setCapped false { s with capBase := [] } else s)

/-! ### Staged start (R359 to R361) -/

/-- A mailbox nonce (R363). -/
def newNonce (s : State) : State := { s with nonce := Config.nonce s.nonces, nonces := s.nonces + 1 }

/-- The controller boots: its firmware is verified and measured, or holds the part in stage 0 (R359, R361). -/
def bootWith (fw : Signed) (s : State) : State :=
  if verifies fw.body fw.sig then { s.extend 0 (sha512 fw.body) with fw := some fw, held := 0 } else { s with fw := some fw, held := 1 }

/-- POWER_GOOD: stage 0 begins, with the measurement registers zero. -/
def execPowerGood (fw : Signed) (s : State) : Out := .next (bootWith fw (newNonce (afterReset s)))
/-- RESET: stage 0 begins with the firmware there is; the measurement registers are extended, not zeroed (R361; log 84). -/
def execReset (s : State) : Out :=
  let t := newNonce { afterReset s with meas := s.meas, measLog := s.measLog }
  .next (match s.fw with | some f => bootWith f t | none => t)

/-- Load the configuration image at the end of stage 1, or hold the part in stage 0. -/
def loadConfig (img : Signed) (s : State) : State :=
  if verifies img.body img.sig then
    { s.extend 1 (sha512 img.body) with
      stage := 2, held := 0, security := Config.security img.body % 3, houseSrc := Config.houseSource img.body,
      remap := (List.range 64).map (fun k => (k, Config.remapOf img.body k % 17)) }
  else { s with stage := 0, held := 2 }

/-- START_STAGE_END: stage 0 ends, stage 1 with its image, or the bring-up of the next panel, which passed or did not. -/
def execStartStageEnd (img : Signed) (ok : Bool) (s : State) : Out :=
  if s.off ∨ s.held ≠ 0 ∨ s.fw = none then .next s
  else match s.stage with
    | 0 => .next { s with stage := 1 }
    | 1 => .next (loadConfig img s)
    | 2 =>
      let n := s.tried
      let s := if ok then { s with panels := s.panels ++ [n] } else s.mcRecord n 12 0x0D 0 0 0 0x7FF 0 0 false
      .next { s with tried := n + 1, stage := if n + 1 = 8 then 3 else 2 }
    | _ => .next s

/-- RECOVERY_IMAGE_WRITE to a part held in stage 0. -/
def execRecoveryImageWrite (fw : Signed) (s : State) : Out :=
  .next (if s.held = 1 then
      (if verifies fw.body fw.sig then bootWith fw s else s)
    else if s.held = 2 then loadConfig fw s else s)

/-! ### Security, debug and power states (R361 to R363, R352) -/

/-- A debug state asked for: entered at once where nothing is placed, else at the next boundary. -/
def askDebug (v : Nat) (tok : Option (BitVec 512)) (s : State) : State :=
  if s.unplaced then enterDebug v tok s else { s with debugPend := s.debugPend ++ [(v, tok)] }

/-- The bytes a token is measured by. -/
def tokenBytes (k : Token) : List Byte := k.signed.body ++ k.signed.sig

/-- DEBUG_UNLOCK_TOKEN: refused unless its signed body is what it names, and verifies, it names this device and a nonce that the mailbox
issued, and has not expired. -/
def execDebugUnlockToken (tok : Token) (s : State) : Out :=
  if verifies tok.signed.body tok.signed.sig ∧ Config.tokenBody tok.device tok.nonce tok.state tok.expiry = tok.signed.body ∧ s.nonces ≠ 0 ∧ tok.device = s.device ∧ tok.nonce = s.nonce ∧ s.house ≤ tok.expiry ∧ inR 1 2 tok.state ∧ !s.off then
    mailbox (0, askDebug tok.state (some (sha512 (tokenBytes tok))) (newNonce s))
  else mailbox (3, s)

/-- DEBUG_STATE_REQUEST: by the mailbox alone on an Open part. -/
def execDebugStateRequest (st : Nat) (s : State) : Out :=
  if s.security = 0 ∧ st ≤ 2 ∧ !s.off then mailbox (0, askDebug st none s) else mailbox (3, s)

/-- ATTESTATION_REQUEST: nonce, the 16 registers, the log's length and the state triple, signed. With the device off only an Attested part
answers. -/
def execAttestationRequest (nonce : BitVec 256) (s : State) : Out :=
  let power := if s.off then 3 else if s.asleep ≠ [] then 2 else if s.powerCapped then 1 else 0
  let body := bytesOf 32 nonce.toNat ++ (List.range 16).flatMap (fun i => bytesOf 64 (mget 0 s.meas i).toNat)
    ++ bytesOf 8 (72 * s.measLog.length) ++ bytesOf 3 (s.security + s.debug * 256 + power * 65536)
  .next (if s.off ∧ s.security ≠ 2 then s else { s with report := body ++ Config.signReport body })

/-- IDE_KEY_SETUP: the host sets up or re-keys the session. -/
def execIdeKeySetup (key : BitVec 256) (s : State) : Out := .next { s with ideKey := key }

/-- The regions of a panel. -/
def panelRegions (p : Nat) : List Nat := (List.range 32).filter (fun g => regionPanel g = p)

/-- PANEL_SLEEP_REQUEST for panel `here`: refused while a sitting is placed on it; its regions are gated. -/
def execPanelSleepRequest (s : State) : Out :=
  let p := s.here
  if !s.panels.contains p ∨ s.sittings.any (fun z => z.cores.any (fun c => panelOf c == p)) then mailbox (3, s)
  else if s.asleep.contains p then mailbox (0, s)
  else mailbox (0, (panelRegions p).foldl (fun s g => s.modRegion g (fun r => { r with stopped := true })) { s with asleep := s.asleep ++ [p] })

/-- PANEL_WAKE of panel `here`: its regions run again, and with them buffered host writes commit. -/
def execPanelWake (s : State) : Out :=
  let p := s.here
  if !s.asleep.contains p then .next s
  else
    .next ((panelRegions p).foldl (fun s g => s.modRegion g (fun r => { r with stopped := false })) { s with asleep := s.asleep.erase p })

/-- DEVICE_OFF_ENTRY: at once where nothing is placed, else at a boundary of every sitting. -/
def execDeviceOffEntry (s : State) : Out := .next (if s.unplaced then enterOff s else { s with offPend := true })
/-- DEVICE_OFF_EXIT: stages 1 to 3 run. -/
def execDeviceOffExit (s : State) : Out := .next (if s.off then { s with off := false, stage := 1 } else s)

end Sys2Proof.Machine
end

