-- ==== Sys2Proof/Machine/Outside.lean ====
section
/-! DEFINITION. What the outside asks beside the events of the table: MMIO reads, requests that are not supported, replays of a link, power
measurements, and debug accesses (19 R352, R353, R355, R362, R364; log 107). -/
namespace Sys2Proof.Machine

/-! ### MMIO reads (R353) -/

/-- A register of BAR 0; a panel asleep in debug state observe reports no counts (R362). -/
def mmioReg (off : Nat) (s : State) : Word :=
  if inR 0x10000 0x101FF off then (s.queue ((off - 0x10000) / 8)).tail.setWidth 64
  else if inR 0x20000 0x27FFF off then mget 0 s.events ((off - 0x20000) / 8)
  else if inR 0x40000 0x411FF off then
    let k := (off - 0x40000) / 0x20
    if s.debug = 1 ∧ s.asleep.contains (k / 16) then 0 else (mget McBank.reset s.banks k).reg ((off - 0x40000) / 8 % 4)
  else if off < 0x1000 ∨ inR 0x80000 0x80FFF off then mget 0 s.bar off
  else 0

/-- An MMIO read of `size` bytes: an access that is not of 8 aligned bytes is unsupported and changes nothing. -/
def mmioRead (off size : Nat) (s : State) : State :=
  if size ≠ 8 ∨ off % 8 ≠ 0 ∨ 2 ^ 20 ≤ off then { s with hostMsg := 4 }
  else { s with answer := bytesOf 8 (mmioReg off s).toNat }

/-! ### Debug accesses (R362; log 108) -/

/-- Whether a system context runs on a core, or a brush of it in system state. -/
def systemContext (s : State) (c b : Nat) : Bool := (s.brush c b).sys || ((s.sittingOf c).isSome && !(s.core c).user)
/-- Whether the debugger may touch a core's brush: in debug state invasive, on a panel that is up and awake, and a system context on an
Open part only. -/
def debugMay (s : State) (c b : Nat) : Bool :=
  s.debug == 2 && !s.off && decide (c < 1024) && decide (b < 4) && panelUp s c && !panelAsleep s c && (s.security == 0 || !systemContext s c b)
/-- Whether it may touch a core's memory: no brush of it may be a system context. -/
def debugMayMem (s : State) (c : Nat) : Bool := (List.range 4).all (fun b => debugMay s c b)
/-- A debug access, refused where it is not allowed. -/
def debugIf (ok : Bool) (f : State → State) (s : State) : State := if ok then { f s with hostMsg := 0 } else { s with hostMsg := 3 }

/-- A register's bytes, lowest first. -/
def debugReg (s : State) (c b : Nat) : DebugReg → List Byte
  | .pc => bytesOf 8 (s.brush c b).pc
  | .s n => bytesOf 8 (readS (s.brush c b) n).v.toNat
  | .p n => bytesOf 8 (readP (s.brush c b) n).v.toNat
  | .v n => bytesOf 256 (readV (s.core c) n).v.toNat
/-- A register written, free of poison; one that reads as a constant keeps it (R222). -/
def setDebugReg (c b : Nat) (r : DebugReg) (v : BitVec 2048) (s : State) : State :=
  match r with
  | .pc => s.modBrush c b (fun y => { y with pc := v.toNat % 2 ^ 14 })
  | .s n => if n < 64 then s.modBrush c b (fun y => writeS y n ⟨v.setWidth 64, false⟩) else s
  | .p n => if n < 128 then s.modBrush c b (fun y => writeP y n ⟨v.setWidth 64, false⟩) else s
  | .v n => if n < 768 then s.modCore c (fun x => { x with v := mput x.v n ⟨v, 0⟩ }) else s

/-- Bytes of a scratchpad or vault, in physical addresses. -/
def debugBytes (s : State) (c : Nat) (vault : Bool) (a n : Nat) : List Byte :=
  let x := s.core c
  (List.range n).map (fun i => rdByte (if vault then x.vault else x.mem) (a + i))
def setDebugBytes (c : Nat) (vault : Bool) (a : Nat) (bs : List Byte) (s : State) : State :=
  let v := leBytes bs 0 bs.length
  s.modCore c (fun x => if vault then x.commitVault a bs.length v 0 else x.wrScratch a bs.length v 0)
def debugRange (vault : Bool) (a n : Nat) : Bool := decide (a + n ≤ if vault then Config.vaultBytes else Config.scratchBytes)

/-! ### What is asked (log 107) -/

def runAsk (a : Ask) (s : State) : State :=
  let hold (c b v : Nat) : State := debugIf (debugMay s c b) (fun s => { s with dbgHeld := mset 0 s.dbgHeld (4 * c + b) v }) s
  match a with
  | .read off size => mmioRead off size s
  | .unsupported => { s with hostMsg := 4 }
  | .replay port seq => if s.linkUp port then s.modPort port (fun q => { q with again := q.from_ seq }) else s
  | .power w a t => measurePower w a t s
  | .halt c b => hold c b 1
  | .go c b => hold c b 0
  | .step c b => hold c b 2
  | .readReg c b r => debugIf (debugMay s c b) (fun s => { s with answer := debugReg s c b r }) s
  | .writeReg c b r v => debugIf (debugMay s c b) (setDebugReg c b r v) s
  | .readMem c v a n => debugIf (debugMayMem s c && debugRange v a n) (fun s => { s with answer := debugBytes s c v a n }) s
  | .writeMem c v a bs => debugIf (debugMayMem s c && debugRange v a bs.length) (setDebugBytes c v a bs) s

/-- What is asked in the present fabric cycle or before it. -/
def asksRun (s : State) : State :=
  let (due, later) := s.asks.partition (fun e => decide (e.1 ≤ s.now))
  due.foldl (fun s e => runAsk e.2 s) { s with asks := later }

end Sys2Proof.Machine
end

