-- ==== Sys2Proof/Machine/Run.lean ====
section
/-! DEFINITION. What the machine does next: the fabric cycle as an agenda of jobs (log 6, 7), and placing an instruction where the next step
fetches it (log 3). -/
namespace Sys2Proof.Machine

/-! ### A fabric cycle (R99, R144, R160, R254) -/

/-- What comes from outside at a fabric edge beside the events of the table: sources change their rates, corrected errors of the frame's own
state are recorded, what is asked is answered, and host accesses held up go on. -/
def outside (s : State) : State :=
  let (due, later) := s.srcPlan.partition (fun e => decide (e.1 ≤ s.now))
  let s := due.foldl (fun s e => sourceChange e.2.1 e.2.2.1 e.2.2.2 s) { s with srcPlan := later }
  let s := s.frameErr.foldl (fun s ty => s.frameError (ty - 0x10) ty 0 0) { s with frameErr := [] }
  let s := asksRun s
  releasePulls (releaseRepairs (releaseReads (releaseHeld s)))

/-- The next fabric cycle: what the outside does in it, openings, the cycles of the regions, the ring, and what follows. The errors of the
past one enter their banks (R305). -/
def tick (s : State) : State :=
  let now := s.now + 1
  let (due, later) := s.inputs.partition (fun e => decide (e.1 ≤ now))
  outside { s.mcFlush with now := now, house := if (now + s.houseOff) % Config.fabricPerTick = 0 then s.house + 1 else s.house, inputs := later,
                           agenda := due.map (fun e => .ev e.2.1 e.2.2) ++ [.opens, .edges, .tickEnd] }

/-- The domains that hold a sitting. -/
def State.activeDomains (s : State) : List Nat := ((s.sittings.flatMap (fun z => z.cores)).map s.coreDom).eraseDups

/-- Openings that are due. A domain that no sitting steps with any more opens nothing (R160). -/
def opensDue (s : State) : State :=
  let ds := (s.domains.filter (fun e => match e.2.nextF with | some f => decide (f ≤ s.now) | none => false)).map (fun e => e.1)
  let idle (d : Nat) : Bool := !(s.domain d).exch && (s.stepping d).isEmpty && (s.newcomers d).isEmpty
  let s := ds.foldl (fun s d => if idle d then s.modDomain d (fun m => { m with nextF := none, closing := 0 }) else s) s
  let evs : List Job := (ds.filter (fun d => !idle d)).map (fun d =>
    .ev d (if (s.domain d).exch || (s.domain d).closing != 0 then .computePhaseOpen else .exchangePhaseOpen))
  let own : List Job := s.sittings.filterMap (fun z => match z.openAt, z.cores with
    | some f, c :: _ => if f ≤ s.now then some (.ev (4096 + c) .computePhaseOpen) else none
    | _, _ => none)
  { s with agenda := evs ++ own ++ s.agenda }

/-- Whether a sitting's budget expires in the present cycle of its region (R171): its phase has not ended, whatever holds it open. A compute
phase lasts until its exchange phase opens, so a budget may run out in the 16 cycles after the last arrival (DESIGN CHOICE; log 106). -/
def budgetDue (s : State) (z : Sitting) : Bool :=
  match z.cores with
  | [] => false
  | c0 :: _ =>
    let cb := z.task.f 0x50 4
    let xb := z.task.f 0x54 4
    z.launched && !z.frozen && !z.saved &&
      (if s.exch c0 then (s.domain (s.coreDom c0)).closing == 0 && xb != 0 && s.cyc c0 == (s.core c0).x0 + xb
       else cb != 0 && z.cores.any (fun c => s.slotCore c && !(s.core c).later && s.cyc c == (s.core c).k0 + cb))

/-- What happens in region `g` in this fabric cycle: whether a cycle of it runs, and its events. A region without a sample grid stops, after a
lapsed holdover, at its first cycle that lies in a compute phase (DESIGN CHOICE; R153 names a grid cycle; log 106). -/
def regionJobs (s : State) (g : Nat) : State × Bool × List Job :=
  let (s, miss) := missingPeriod s g
  let r := s.region g
  let (go, r) := if r.owed && !r.stopped then (true, { r with owed := false }) else regionEdge s.now s g
  let r := spApply r
  if !go then (if r = s.region g then s else s.modRegion g (fun _ => r), false, miss)
  else
    let s := s.modRegion g (fun _ => r)
    let grid : List Job :=
      if isPin (srcOf r.a) ∧ (r.arrivals = 0 ∨ r.cyc ≠ r.nextGrid) then []
      else if lapsed s g then [.ev g .regionStop]
      else if isPin (srcOf r.a) then [.ev g .gridCycle] else []
    let budget := (s.sittings.filter (fun z => match z.cores with | c :: _ => regionOf c == g && budgetDue s z | [] => false)).filterMap (fun z =>
      z.cores.head?.map (fun c => Job.ev c .budgetExpiry))
    (s, true, miss ++ grid ++ budget)

/-- Put a number where it belongs in a list in ascending order of a key. -/
def insertBy (key : Nat → Nat) (a : Nat) : List Nat → List Nat
  | [] => [a]
  | b :: l => if key a ≤ key b then a :: b :: l else b :: insertBy key a l

/-- The cycles of the regions: stops come before every other event of the cycle (R153), the ring, then the cores in ascending order of
their physical positions (R305). -/
def edgesRun (s : State) : State :=
  let (s, evs, gs) := (List.range 32).foldl (fun (a : State × List Job × List Nat) g =>
    let (s, go, e) := regionJobs a.1 g
    (s, a.2.1 ++ e, if go then a.2.2 ++ [g] else a.2.2)) (s, [], [])
  let stop (j : Job) : Bool := match j with | .ev _ .regionStop => true | _ => false
  let cores := (gs.flatMap s.placedCores).foldr (insertBy s.station) []
  let host := (s.cores.filter (fun e => gs.contains (regionOf e.1) && e.2.hbuf != [] && s.commits e.1)).map (fun e => Job.ev e.1 .hostBufferCommit)
  { s with agenda := evs.filter stop ++ evs.filter (fun j => !stop j) ++ [.ring] ++ cores.flatMap (coreJobs s) ++ host ++ gs.map (fun g => .regionEnd g) ++ s.agenda }

/-- A domain at the end of a fabric cycle: the exchange phase is due once every core has arrived, and ends once every core is done (R114,
R160, R165); across parts, once every part is as far. Job device 0 opens its own phase 16 fabric cycles after the last message it has heard (DESIGN
CHOICE; R160's 16 cycles are of one part; log 106). -/
def domainEnd (d : Nat) (s : State) : State :=
  let s := openSeconds d s
  let s := if (s.domain d).told && !multiPart s d then s.modDomain d (fun m => { m with told := false, heard := [] }) else s
  let m := s.domain d
  let st := (s.stepping d).filter (fun z => !taskDone s z)
  let opening (s : State) : State :=
    let (f, s) := openTime d s.now s
    s.modDomain d (fun m => { m with nextF := some f })
  if m.nextF.isSome then s
  else if m.closing = 2 then meetStep d 3 opening s
  else if m.closing ≠ 0 then s
  else if !m.exch then
    if (st.isEmpty ∧ (s.newcomers d).isEmpty) ∨ !st.all (fun z => z.cores.all (fun c => coreArrived (s.core c))) then s
    else meetStep d 0 opening s
  else if (s.stepping d).all (fun z => z.cores.all (exchDone s)) then meetStep d 1 (fun s => { s with agenda := s.agenda ++ [.ev d .exchangePhaseEnd] }) s
  else s

/-- The end of a fabric cycle: service calls, domains, waiting times, the Atelier. -/
def tickEnd (s : State) : State :=
  let s := expiriesEnd (serveAll s)
  let s := s.activeDomains.foldl (fun s d => domainEnd d s) s
  let s := ageStart s
  { s with agenda := s.agenda ++ maintJobs s ++ atelierJobs s }

/-- A job that is not an event of the table. -/
def runJob (j : Job) (s : State) : State :=
  match j with
  | .ev a _ => { s with here := a }
  | .beginCycle c => beginCycle c s
  | .preIssue c => preIssue c s
  | .turn c b => turn c b s
  | .parity c b d => parityRecord c b d s
  | .lateStart c => lateStart c s
  | .banks c => banks c s
  | .endCycle c => endCycle c s
  | .regionEnd g => regionEnd g s
  | .opens => opensDue s
  | .edges => edgesRun s
  | .ring => ringStep s
  | .tickEnd => tickEnd s

/-! ### What the next step runs -/

/-- A step is a bundle or event to run in a state, or the state the machine goes to without one; `none` where it has stopped for good. -/
inductive Act where
  | run (i : Instr) (s : State)
  | go (s : State)
  | dead

/-- In a stopped device only a reset or a new power good among the inputs is left (R337). -/
def fatalAct (s : State) : Act :=
  match s.inputs.find? (fun e => match e.2.2 with | .reset => true | .powerGood _ => true | _ => false) with
  | some e => .run e.2.2 { s with now := max s.now e.1, inputs := s.inputs.erase e }
  | none => .dead

/-- The bundle at the program counter of the brush whose turn it is, or the trap of fetching it. -/
def issueAct (s : State) : Act :=
  match fetchBundle s s.cur.1 s.cur.2 with
  | .ok i => .run i s
  | .error t => .go (takeTrap s.cur.1 s.cur.2 t (gangOf s s.cur.1 s.cur.2) { s with busy := false })

/-- The next job of the agenda, or the next fabric cycle. -/
def agendaAct (s : State) : Act :=
  match s.agenda with
  | [] => .go (tick s)
  | .ev a i :: l => .run i { s with agenda := l, here := a }
  | j :: l => .go (runJob j { s with agenda := l })

def nextAct (s : State) : Act := if s.fatal then fatalAct s else if s.busy then issueAct s else agendaAct s

/-! ### Placing an instruction (log 3) -/

/-- Lay words into brush 0 of core 0 at word 0, as code in a user context, and give it its turn. -/
def placeWords (ws : List (BitVec 32)) (s : State) : State :=
  let s := s.modCore 0 (fun x =>
    let code := (List.range ws.length).foldl (fun m i => mput m i (⟨ws.getD i 0, true⟩ : IWord)) x.code
    { x with code := code, segis := (x.segis &&& 0xFFFFFFFFFFFF8000) ||| 0x4000 }.setBrush 0 { x.brush 0 with run := .running, pc := 0 })
  { s with cur := (0, 0), busy := true }

end Sys2Proof.Machine
end

