-- ==== Sys2Proof/Machine/Dispatch.lean ====
section
/-! DEFINITION. Each row's meaning, one arm per constructor. -/
namespace Sys2Proof.Machine

def exec (i : Instr) (s : State) : Host.Outcome State Fault Refusal :=
  match i with
  | .bundleIssue b => Sys2Proof.Machine.execBundleIssue b s
  | .idleBundle sync wait check => Sys2Proof.Machine.execIdleBundle sync wait check s
  | .move v m dst => Sys2Proof.Machine.execMove v m dst s
  | .add m u => Sys2Proof.Machine.execAdd m u s
  | .sub m u => Sys2Proof.Machine.execSub m u s
  | .rsb m u => Sys2Proof.Machine.execRsb m u s
  | .and m u => Sys2Proof.Machine.execAnd m u s
  | .or m u => Sys2Proof.Machine.execOr m u s
  | .xor m u => Sys2Proof.Machine.execXor m u s
  | .andn m u => Sys2Proof.Machine.execAndn m u s
  | .orn m u => Sys2Proof.Machine.execOrn m u s
  | .xnor m u => Sys2Proof.Machine.execXnor m u s
  | .shl m u => Sys2Proof.Machine.execShl m u s
  | .shr m u => Sys2Proof.Machine.execShr m u s
  | .sar m u => Sys2Proof.Machine.execSar m u s
  | .rol m u => Sys2Proof.Machine.execRol m u s
  | .ror m u => Sys2Proof.Machine.execRor m u s
  | .min m u => Sys2Proof.Machine.execMin m u s
  | .max m u => Sys2Proof.Machine.execMax m u s
  | .minn m u => Sys2Proof.Machine.execMinn m u s
  | .maxn m u => Sys2Proof.Machine.execMaxn m u s
  | .sxb m u => Sys2Proof.Machine.execSxb m u s
  | .sxh m u => Sys2Proof.Machine.execSxh m u s
  | .sxw m u => Sys2Proof.Machine.execSxw m u s
  | .zxb m u => Sys2Proof.Machine.execZxb m u s
  | .zxh m u => Sys2Proof.Machine.execZxh m u s
  | .zxw m u => Sys2Proof.Machine.execZxw m u s
  | .clz m u => Sys2Proof.Machine.execClz m u s
  | .ctz m u => Sys2Proof.Machine.execCtz m u s
  | .popc m u => Sys2Proof.Machine.execPopc m u s
  | .bswap m u => Sys2Proof.Machine.execBswap m u s
  | .brev m u => Sys2Proof.Machine.execBrev m u s
  | .pass m u => Sys2Proof.Machine.execPass m u s
  | .addsat m u => Sys2Proof.Machine.execAddsat m u s
  | .subsat m u => Sys2Proof.Machine.execSubsat m u s
  | .sel m u => Sys2Proof.Machine.execSel m u s
  | .ext m u => Sys2Proof.Machine.execExt m u s
  | .ins m u => Sys2Proof.Machine.execIns m u s
  | .mul m => Sys2Proof.Machine.execMul m s
  | .mulhi m => Sys2Proof.Machine.execMulhi m s
  | .mulhn m => Sys2Proof.Machine.execMulhn m s
  | .mac m => Sys2Proof.Machine.execMac m s
  | .div m => Sys2Proof.Machine.execDiv m s
  | .divn m => Sys2Proof.Machine.execDivn m s
  | .rem m => Sys2Proof.Machine.execRem m s
  | .remn m => Sys2Proof.Machine.execRemn m s
  | .eq m => Sys2Proof.Machine.execEq m s
  | .ne m => Sys2Proof.Machine.execNe m s
  | .lt m => Sys2Proof.Machine.execLt m s
  | .le m => Sys2Proof.Machine.execLe m s
  | .ltn m => Sys2Proof.Machine.execLtn m s
  | .len m => Sys2Proof.Machine.execLen m s
  | .tst m => Sys2Proof.Machine.execTst m s
  | .pand m => Sys2Proof.Machine.execPand m s
  | .por m => Sys2Proof.Machine.execPor m s
  | .pxor m => Sys2Proof.Machine.execPxor m s
  | .pandn m => Sys2Proof.Machine.execPandn m s
  | .pnot m => Sys2Proof.Machine.execPnot m s
  | .pcnt m => Sys2Proof.Machine.execPcnt m s
  | .pfirst m => Sys2Proof.Machine.execPfirst m s
  | .pany m => Sys2Proof.Machine.execPany m s
  | .pall m => Sys2Proof.Machine.execPall m s
  | .plane m => Sys2Proof.Machine.execPlane m s
  | .pmov m => Sys2Proof.Machine.execPmov m s
  | .ldb m => Sys2Proof.Machine.execLdb m s
  | .ldbn m => Sys2Proof.Machine.execLdbn m s
  | .ldh m => Sys2Proof.Machine.execLdh m s
  | .ldhn m => Sys2Proof.Machine.execLdhn m s
  | .ldw m => Sys2Proof.Machine.execLdw m s
  | .ldwn m => Sys2Proof.Machine.execLdwn m s
  | .ldd m => Sys2Proof.Machine.execLdd m s
  | .stb m => Sys2Proof.Machine.execStb m s
  | .sth m => Sys2Proof.Machine.execSth m s
  | .stw m => Sys2Proof.Machine.execStw m s
  | .std m => Sys2Proof.Machine.execStd m s
  | .fence m => Sys2Proof.Machine.execFence m s
  | .aadd m w => Sys2Proof.Machine.execAadd m w s
  | .aand m w => Sys2Proof.Machine.execAand m w s
  | .aor m w => Sys2Proof.Machine.execAor m w s
  | .axor m w => Sys2Proof.Machine.execAxor m w s
  | .amin m w => Sys2Proof.Machine.execAmin m w s
  | .amax m w => Sys2Proof.Machine.execAmax m w s
  | .aminn m w => Sys2Proof.Machine.execAminn m w s
  | .amaxn m w => Sys2Proof.Machine.execAmaxn m w s
  | .aswp m w => Sys2Proof.Machine.execAswp m w s
  | .acas m w => Sys2Proof.Machine.execAcas m w s
  | .bra m => Sys2Proof.Machine.execBra m s
  | .brai m => Sys2Proof.Machine.execBrai m s
  | .call m => Sys2Proof.Machine.execCall m s
  | .calli m => Sys2Proof.Machine.execCalli m s
  | .ret m => Sys2Proof.Machine.execRet m s
  | .loop m => Sys2Proof.Machine.execLoop m s
  | .loopPop m => Sys2Proof.Machine.execLoopPop m s
  | .halt m => Sys2Proof.Machine.execHalt m s
  | .trap m => Sys2Proof.Machine.execTrap m s
  | .sys m => Sys2Proof.Machine.execSys m s
  | .taskService m => Sys2Proof.Machine.execTaskService m s
  | .tret m => Sys2Proof.Machine.execTret m s
  | .brk m => Sys2Proof.Machine.execBrk m s
  | .semp m => Sys2Proof.Machine.execSemp m s
  | .semw m => Sys2Proof.Machine.execSemw m s
  | .waitl m => Sys2Proof.Machine.execWaitl m s
  | .waita m => Sys2Proof.Machine.execWaita m s
  | .syncm m => Sys2Proof.Machine.execSyncm m s
  | .own m => Sys2Proof.Machine.execOwn m s
  | .phend m => Sys2Proof.Machine.execPhend m s
  | .cadst m => Sys2Proof.Machine.execCadst m s
  | .cadtk m => Sys2Proof.Machine.execCadtk m s
  | .rdc m => Sys2Proof.Machine.execRdc m s
  | .rdsr m => Sys2Proof.Machine.execRdsr m s
  | .wrsr m => Sys2Proof.Machine.execWrsr m s
  | .rwf m => Sys2Proof.Machine.execRwf m s
  | .rwe m => Sys2Proof.Machine.execRwe m s
  | .rclm m => Sys2Proof.Machine.execRclm m s
  | .rfil m => Sys2Proof.Machine.execRfil m s
  | .rtak m => Sys2Proof.Machine.execRtak m s
  | .rrel m => Sys2Proof.Machine.execRrel m s
  | .xnop m => Sys2Proof.Machine.execXnop m s
  | .vld m => Sys2Proof.Machine.execVld m s
  | .vst m => Sys2Proof.Machine.execVst m s
  | .vldx m => Sys2Proof.Machine.execVldx m s
  | .vstx m => Sys2Proof.Machine.execVstx m s
  | .vldb m => Sys2Proof.Machine.execVldb m s
  | .vstb m => Sys2Proof.Machine.execVstb m s
  | .vldw m => Sys2Proof.Machine.execVldw m s
  | .xgo m => Sys2Proof.Machine.execXgo m s
  | .xarm m => Sys2Proof.Machine.execXarm m s
  | .xst m => Sys2Proof.Machine.execXst m s
  | .xabAbort m => Sys2Proof.Machine.execXabAbort m s
  | .xabDisarm m => Sys2Proof.Machine.execXabDisarm m s
  | .swset m => Sys2Proof.Machine.execSwset m s
  | .swget m => Sys2Proof.Machine.execSwget m s
  | .swoff m => Sys2Proof.Machine.execSwoff m s
  | .xcput m => Sys2Proof.Machine.execXcput m s
  | .xcget m => Sys2Proof.Machine.execXcget m s
  | .xcst m => Sys2Proof.Machine.execXcst m s
  | .ctxsv m => Sys2Proof.Machine.execCtxsv m s
  | .ctxld m => Sys2Proof.Machine.execCtxld m s
  | .mckr m => Sys2Proof.Machine.execMckr m s
  | .sbist m => Sys2Proof.Machine.execSbist m s
  | .rcfg m => Sys2Proof.Machine.execRcfg m s
  | .vadd m u => Sys2Proof.Machine.execVadd m u s
  | .vsub m u => Sys2Proof.Machine.execVsub m u s
  | .vmul m u => Sys2Proof.Machine.execVmul m u s
  | .vfma m u => Sys2Proof.Machine.execVfma m u s
  | .vfms m u => Sys2Proof.Machine.execVfms m u s
  | .vfnm m u => Sys2Proof.Machine.execVfnm m u s
  | .vmin m u => Sys2Proof.Machine.execVmin m u s
  | .vmax m u => Sys2Proof.Machine.execVmax m u s
  | .vabs m u => Sys2Proof.Machine.execVabs m u s
  | .vneg m u => Sys2Proof.Machine.execVneg m u s
  | .vand m u => Sys2Proof.Machine.execVand m u s
  | .vor m u => Sys2Proof.Machine.execVor m u s
  | .vxor m u => Sys2Proof.Machine.execVxor m u s
  | .vandn m u => Sys2Proof.Machine.execVandn m u s
  | .vshl m u => Sys2Proof.Machine.execVshl m u s
  | .vshr m u => Sys2Proof.Machine.execVshr m u s
  | .vsar m u => Sys2Proof.Machine.execVsar m u s
  | .vsel m u => Sys2Proof.Machine.execVsel m u s
  | .vceq m u => Sys2Proof.Machine.execVceq m u s
  | .vcne m u => Sys2Proof.Machine.execVcne m u s
  | .vclt m u => Sys2Proof.Machine.execVclt m u s
  | .vcle m u => Sys2Proof.Machine.execVcle m u s
  | .vclass m u => Sys2Proof.Machine.execVclass m u s
  | .vmov m u => Sys2Proof.Machine.execVmov m u s
  | .vmulh m u => Sys2Proof.Machine.execVmulh m u s
  | .vabd m u => Sys2Proof.Machine.execVabd m u s
  | .vcvt m => Sys2Proof.Machine.execVcvt m s
  | .vcvtsr m => Sys2Proof.Machine.execVcvtsr m s
  | .vmxq m => Sys2Proof.Machine.execVmxq m s
  | .vmxd m => Sys2Proof.Machine.execVmxd m s
  | .vredadd m => Sys2Proof.Machine.execVredadd m s
  | .vredmax m => Sys2Proof.Machine.execVredmax m s
  | .vredmin m => Sys2Proof.Machine.execVredmin m s
  | .vscan m => Sys2Proof.Machine.execVscan m s
  | .vperm m => Sys2Proof.Machine.execVperm m s
  | .vrot m => Sys2Proof.Machine.execVrot m s
  | .vbcast m => Sys2Proof.Machine.execVbcast m s
  | .vzip m => Sys2Proof.Machine.execVzip m s
  | .vunzip m => Sys2Proof.Machine.execVunzip m s
  | .vpack m => Sys2Proof.Machine.execVpack m s
  | .vunpk m => Sys2Proof.Machine.execVunpk m s
  | .vexp2 m => Sys2Proof.Machine.execVexp2 m s
  | .vlog2 m => Sys2Proof.Machine.execVlog2 m s
  | .vrcp m => Sys2Proof.Machine.execVrcp m s
  | .vrsq m => Sys2Proof.Machine.execVrsq m s
  | .vsqrt m => Sys2Proof.Machine.execVsqrt m s
  | .vsint m => Sys2Proof.Machine.execVsint m s
  | .vcost m => Sys2Proof.Machine.execVcost m s
  | .vtrunc m => Sys2Proof.Machine.execVtrunc m s
  | .vround m => Sys2Proof.Machine.execVround m s
  | .vaadd m => Sys2Proof.Machine.execVaadd m s
  | .vaor m => Sys2Proof.Machine.execVaor m s
  | .vamax m => Sys2Proof.Machine.execVamax m s
  | .vamin m => Sys2Proof.Machine.execVamin m s
  | .nbSend m side => Sys2Proof.Machine.execNbSend m side s
  | .mnop f => Sys2Proof.Machine.execMnop f s
  | .mma f => Sys2Proof.Machine.execMma f s
  | .mmag f => Sys2Proof.Machine.execMmag f s
  | .mzero f => Sys2Proof.Machine.execMzero f s
  | .mld f => Sys2Proof.Machine.execMld f s
  | .msave f => Sys2Proof.Machine.execMsave f s
  | .mcmb f => Sys2Proof.Machine.execMcmb f s
  | .mret f => Sys2Proof.Machine.execMret f s
  | .trapEntry c b t => Sys2Proof.Machine.execTrapEntry c b t s
  | .resultComplete => Sys2Proof.Machine.execResultComplete s
  | .scratchpadWrite => Sys2Proof.Machine.execScratchpadWrite s
  | .vaultCommit => Sys2Proof.Machine.execVaultCommit s
  | .rmwSlot => Sys2Proof.Machine.execRmwSlot s
  | .indexedLane => Sys2Proof.Machine.execIndexedLane s
  | .releaseTakesEffect => Sys2Proof.Machine.execReleaseTakesEffect s
  | .waitEnd => Sys2Proof.Machine.execWaitEnd s
  | .syncIssue => Sys2Proof.Machine.execSyncIssue s
  | .ownTransferComplete => Sys2Proof.Machine.execOwnTransferComplete s
  | .swsetWrite => Sys2Proof.Machine.execSwsetWrite s
  | .nbArrival => Sys2Proof.Machine.execNbArrival s
  | .brushArrival => Sys2Proof.Machine.execBrushArrival s
  | .retirementDrain => Sys2Proof.Machine.execRetirementDrain s
  | .exchangePhaseOpen => Sys2Proof.Machine.execExchangePhaseOpen s
  | .exchangePhaseEnd => Sys2Proof.Machine.execExchangePhaseEnd s
  | .computePhaseOpen => Sys2Proof.Machine.execComputePhaseOpen s
  | .budgetExpiry => Sys2Proof.Machine.execBudgetExpiry s
  | .xeEntryFetch => Sys2Proof.Machine.execXeEntryFetch s
  | .xeFlagSemEffect => Sys2Proof.Machine.execXeFlagSemEffect s
  | .slotInject => Sys2Proof.Machine.execSlotInject s
  | .slotEject => Sys2Proof.Machine.execSlotEject s
  | .slotReturn => Sys2Proof.Machine.execSlotReturn s
  | .earlyBufferDrain => Sys2Proof.Machine.execEarlyBufferDrain s
  | .reduceApply => Sys2Proof.Machine.execReduceApply s
  | .flagSlotWrite => Sys2Proof.Machine.execFlagSlotWrite s
  | .matrixStart => Sys2Proof.Machine.execMatrixStart s
  | .matrixComplete => Sys2Proof.Machine.execMatrixComplete s
  | .mmagTableCheck => Sys2Proof.Machine.execMmagTableCheck s
  | .gridCycle => Sys2Proof.Machine.execGridCycle s
  | .sampleArrival pin a b => Sys2Proof.Machine.execSampleArrival pin a b s
  | .holdoverEntry => Sys2Proof.Machine.execHoldoverEntry s
  | .regionStop => Sys2Proof.Machine.execRegionStop s
  | .regionRestart g a b => Sys2Proof.Machine.execRegionRestart g a b s
  | .beatMarker port house => Sys2Proof.Machine.execBeatMarker port house s
  | .beatMarkerSend => Sys2Proof.Machine.execBeatMarkerSend s
  | .refreshSlot => Sys2Proof.Machine.execRefreshSlot s
  | .hostSlot => Sys2Proof.Machine.execHostSlot s
  | .rcfgaWrite g v => Sys2Proof.Machine.execRcfgaWrite g v s
  | .rcfgbWrite g v => Sys2Proof.Machine.execRcfgbWrite g v s
  | .xcfgWrite x v => Sys2Proof.Machine.execXcfgWrite x v s
  | .pincfgWrite p v => Sys2Proof.Machine.execPincfgWrite p v s
  | .qbaseWrite q v => Sys2Proof.Machine.execQbaseWrite q v s
  | .qcfgWrite q v mc => Sys2Proof.Machine.execQcfgWrite q v mc s
  | .qtailWrite q v => Sys2Proof.Machine.execQtailWrite q v s
  | .eventCounterWrite e v => Sys2Proof.Machine.execEventCounterWrite e v s
  | .hostWindowRegister q w base len rd wr => Sys2Proof.Machine.execHostWindowRegister q w base len rd wr s
  | .registerWrite off size v => Sys2Proof.Machine.execRegisterWrite off size v s
  | .hostVaultWrite off bs => Sys2Proof.Machine.execHostVaultWrite off bs s
  | .hostVaultRead off n => Sys2Proof.Machine.execHostVaultRead off n s
  | .hostBufferCommit => Sys2Proof.Machine.execHostBufferCommit s
  | .recordPull => Sys2Proof.Machine.execRecordPull s
  | .taskReady => Sys2Proof.Machine.execTaskReady s
  | .taskAdmission => Sys2Proof.Machine.execTaskAdmission s
  | .priorityAging => Sys2Proof.Machine.execPriorityAging s
  | .taskCompletion => Sys2Proof.Machine.execTaskCompletion s
  | .poolRefill => Sys2Proof.Machine.execPoolRefill s
  | .undoLogThreshold => Sys2Proof.Machine.execUndoLogThreshold s
  | .undoLogOverflow => Sys2Proof.Machine.execUndoLogOverflow s
  | .rollback => Sys2Proof.Machine.execRollback s
  | .fatalError ty => Sys2Proof.Machine.execFatalError ty s
  | .reset => Sys2Proof.Machine.execReset s
  | .vaultRowRepair c row => Sys2Proof.Machine.execVaultRowRepair c row s
  | .flitReceive port bs => Sys2Proof.Machine.execFlitReceive port bs s
  | .linkDown => Sys2Proof.Machine.execLinkDown s
  | .laneSpare port lane => Sys2Proof.Machine.execLaneSpare port lane s
  | .powerCap r => Sys2Proof.Machine.execPowerCap r s
  | .powerRestore r => Sys2Proof.Machine.execPowerRestore r s
  | .powerGood fw => Sys2Proof.Machine.execPowerGood fw s
  | .startStageEnd img ok => Sys2Proof.Machine.execStartStageEnd img ok s
  | .panelSleepRequest => Sys2Proof.Machine.execPanelSleepRequest s
  | .debugUnlockToken tok => Sys2Proof.Machine.execDebugUnlockToken tok s
  | .draining => Sys2Proof.Machine.execDraining s
  | .attestationRequest nonce => Sys2Proof.Machine.execAttestationRequest nonce s
  | .cappedOrClamped g st => Sys2Proof.Machine.execCappedOrClamped g st s
  | .sourceReturnsInHoldover g a b => Sys2Proof.Machine.execSourceReturnsInHoldover g a b s
  | .migrateUnmapOrRepurposeRequest kind page => Sys2Proof.Machine.execMigrateUnmapOrRepurposeRequest kind page s
  | .abortedByTheDriver => Sys2Proof.Machine.execAbortedByTheDriver s
  | .maintenanceSittingDue => Sys2Proof.Machine.execMaintenanceSittingDue s
  | .recoveryImageWrite fw => Sys2Proof.Machine.execRecoveryImageWrite fw s
  | .panelWake => Sys2Proof.Machine.execPanelWake s
  | .deviceOffEntry => Sys2Proof.Machine.execDeviceOffEntry s
  | .deviceOffExit => Sys2Proof.Machine.execDeviceOffExit s
  | .debugStateRequest st => Sys2Proof.Machine.execDebugStateRequest st s
  | .ideKeySetup key => Sys2Proof.Machine.execIdeKeySetup key s

end Sys2Proof.Machine
end

