-- ==== Sys2Proof/Machine/Step.lean ====
section
/-! DEFINITION. One step of the machine, and placing an instruction where the next step fetches it. -/
namespace Sys2Proof.Machine

/-- One step: the bundle or event the machine runs next, a job between them, or the end of a stopped device (R337; log 6). -/
def step (s : State) : Host.Outcome State Fault Refusal :=
  match nextAct s with
  | .run i s => exec i s
  | .go s => .next s
  | .dead => .fault .fatal

/-- A state in which the next step fetches and runs a table row's word (log 3). -/
def State.withFetchWord (s : State) (_nbits w : Nat) : State := placeWords (tableLayout (BitVec.ofNat 32 w)) s

end Sys2Proof.Machine
end

