-- ==== Sys2Proof/Safety.lean ====
section
/-! DEFINITION. What a safe run is: memories in canonical form, the hard-wired registers listed nowhere, and a machine that has a
next step. -/
namespace Sys2Proof.Machine

/-- The bytes and poison marks of a core, in canonical form (R24, R76). -/
def Core.memOk (x : Core) : Bool :=
  Memory.wf x.mem && Memory.wf x.vault && mwf false x.memP && mwf false x.vaultP

/-- Every memory of the part in canonical form. -/
def State.memOk (s : State) : Bool := s.cores.all (fun e => e.2.memOk) && s.saves.all (fun e => e.2.memOk) && Memory.wf s.hostMem

/-- Nothing is listed for s0 and p0, which read zero and all ones (R222). -/
def Brush.wired (y : Brush) : Bool := y.s.all (fun e => e.1 != 0) && y.p.all (fun e => e.1 != 0)

/-- The machine has a step from here: no fatal error holds it (R337), or a reset is among the inputs. -/
def State.live (s : State) : Bool :=
  !s.fatal || s.inputs.any (fun e => match e.2.2 with | .reset => true | .powerGood _ => true | _ => false)

/-- A run of `n` steps that never stops and keeps `p` along the way. -/
def safeFor (p : State → Bool) : Nat → State → Prop
  | 0, s => p s = true
  | n + 1, s => p s = true ∧ ∃ t, step s = .next t ∧ safeFor p n t

/-! ### The words of the claims about one bundle -/

/-- The core and the brush whose turn it is. -/
def State.mine (s : State) : Core := s.core s.cur.1
def State.me (s : State) : Brush := s.brush s.cur.1 s.cur.2

/-- The code a lone trigger writes, and the scalar or vector it carries (R200, R19), marked if a parity error of the bus strikes it (R341). -/
def codeOf (i : Instr) : Nat := match trigOf i with | some (_, _, c) => c | none => 0
def dataOf (i : Instr) (s : State) : Sc :=
  match trigOf i with | some (_, m, _) => hitS (s.mine.glitch == 3) (readSrcS s s.cur.1 s.cur.2 [] m.src.toNat) | none => Sc.zero
def vDataOf (i : Instr) (s : State) : Vc :=
  match trigOf i with | some (_, m, c) => hitV (s.mine.glitch == 3) (vValue s.mine c (readSrcV s s.cur.1 s.cur.2 m.src.toNat)) | none => Vc.zero

/-- What a lone trigger is told of its bundle. -/
def soloIss (v : Bool) (code : Nat) (s : State) : Iss :=
  { c := s.cur.1, b := s.cur.2, h := s.me.pc, len := if v then 4 else 2, code := code, wait := 0, pos := 1, snap := predSnap s.me, seq := s.mine.seq }

/-- A bundle meets every check made before its moves (R204, R199, R342), and is no end bundle met with a transfer pending (R245). -/
def passes (b : Bundle) (s : State) : Prop :=
  bundleTrap (issOf b s) b s = none ∧ ∀ l r, s.me.loops = l :: r → l.last = s.me.pc → s.me.xfer = none

/-- A lone trigger passes its checks and its guard holds (R15). -/
def goes (i : Instr) (s : State) : Prop :=
  ∃ v m c, trigOf i = some (v, m, c) ∧ passes (soloBundle v m c) s ∧ guardBit s.me ⟨m.neg, m.guard, m.src, BitVec.ofNat 12 c⟩ = true

/-- The same of a matrix command, which has no guard. -/
def goesMx (i : Instr) (s : State) : Prop := ∃ o f, mxOf i = some (o, f) ∧ passes (mxBundle o f) s

/-- No end bundle of a loop: a transfer may start (R245). -/
def noEnd (s : State) : Prop := ∀ l r, s.me.loops = l :: r → l.last ≠ s.me.pc

/-- The instruction answers a next state of which `p` holds. -/
def completes (i : Instr) (s : State) (p : State → Prop) : Prop := ∃ t, exec i s = .next t ∧ p t

/-- What stands still in every bundle: all of a core but its brushes, its count of operations and the places given to releases. -/
def Core.still (x : Core) : Core := { x with brushes := [], seq := 0, rels := x.rels.map (fun r => { r with seq := 0 }) }
/-- All of a brush but where it goes next. -/
def Brush.still (y : Brush) : Brush :=
  { y with pc := 0, nextAt := 0, xfer := none, loops := [], newXfer := none, jump := none, newWait := none, after := none }

/-- All of the part but its cores. -/
def State.rest (s : State) : State := { s with cores := [], busy := false }

/-- All that a bundle changed: the core and brush whose turn it was are `x` and `y` but for where the brush goes; everything else is
as before. -/
structure Changes (s t : State) (x : Core) (y : Brush) : Prop where
  rest : t.rest = s.rest
  cores : ∀ c, c ≠ s.cur.1 → t.core c = s.core c
  brushes : ∀ b, b ≠ s.cur.2 → t.brush s.cur.1 b = s.brush s.cur.1 b
  core : t.mine.still = x.still
  brush : t.me.still = y.still

/-- Nothing but where the brush goes has changed. -/
def Frame (s t : State) : Prop := Changes s t s.mine s.me

/-- A brush of a core has room for an operation: none of its latch completes in the same cycle (R230, R231), and 11 or fewer are in
flight (R313). -/
def Core.room (x : Core) (b : Nat) (dst : Option Dst) (due : Nat) : Prop :=
  (dst.isSome → ∀ f, f ∈ (x.brush b).flights ∨ ((∃ n, dst = some (.ss n) ∨ dst = some (.vs n)) ∧ ∃ z ∈ x.brushes, f ∈ z.flights) →
    ¬ (f.dst = dst ∧ f.due = due)) ∧ x.inFlight b < 12
def room (s : State) (dst : Option Dst) (due : Nat) : Prop := s.mine.room s.cur.2 dst due

/-- The core and the brush with one operation started and entered as its latch's newest (R230, R232). -/
def startedCore (s : State) (f : Flight) : Core := { s.mine with newest := newestShared f s.mine.newest }
def startedBrush (s : State) (f : Flight) : Brush :=
  { s.me with flights := s.me.flights ++ [{ f with seq := s.mine.seq + 1, pc := s.me.pc }], newest := newestOwn f s.me.newest }

/-- One operation has been started, and nothing else has changed. -/
def Starts (s t : State) (f : Flight) : Prop := Changes s t (startedCore s f) (startedBrush s f)

end Sys2Proof.Machine
end

