-- ==== Sys2Proof/Certificates/Slice0/Obligations.lean ====
section
/-! DEFINITION. The statements for the provers. The tables give the results of the spec's rules in words of their own. -/
namespace Sys2Proof.Claims
open Sys2Proof.Machine

/-! ### A0, A1, SM and PL -/

/-- An operation whose result is known at issue, as it stands among its brush's operations. -/
def known (i : Instr) (s : State) (lat : Nat) (dst : Dst) (res : Sc) (flags : BitVec 5) : Flight :=
  Flight.done s.cur.2 (codeOf i) false (s.cyc s.cur.1) (s.cyc s.cur.1 + lat) (some dst) (dataOf i s).v (scVc res) flags

/-- A trigger that starts an operation with a known result, and changes nothing else. -/
def yields (i : Instr) (s : State) (lat : Nat) (dst : Dst) (res : Sc) (flags : BitVec 5) : Prop :=
  goes i s → room s (some dst) (s.cyc s.cur.1 + lat) → completes i s (fun t => Starts s t (known i s lat dst res flags))

/-- A private scalar latch of the brush whose turn it is. -/
def latch (s : State) (n : Nat) : Sc := pLat s s.cur.1 s.cur.2 n

/-- Low bits of a doubleword, sign- or zero-extended (R234). -/
def sxt (w : Nat) (d : Word) : Word := BitVec.ofInt 64 (((d.toNat % 2 ^ w : Nat) : Int) - if 2 ^ (w - 1) ≤ d.toNat % 2 ^ w then 2 ^ w else 0)
def zxt (w : Nat) (d : Word) : Word := BitVec.ofNat 64 (d.toNat % 2 ^ w)
/-- Leading and trailing zero bits, and the number of bits that are 1 (R234). -/
def leading (d : Word) : Nat := ((List.range 64).takeWhile (fun i => !d.getLsbD (63 - i))).length
def trailing (d : Word) : Nat := ((List.range 64).takeWhile (fun i => !d.getLsbD i)).length
def ones (d : Word) : Nat := ((List.range 64).filter (fun i => d.getLsbD i)).length
/-- The result saturated to the signed doublewords (R179). -/
def saturated (x : Int) : Word := BitVec.ofInt 64 (if x < -2 ^ 63 then -2 ^ 63 else if 2 ^ 63 - 1 < x then 2 ^ 63 - 1 else x)

/-- A operations of o and d (R234). -/
def aRows2 : List ((Trig → Bool → Instr) × (Word → Word → Word)) :=
  [(.add, fun o d => o + d), (.sub, fun o d => o - d), (.rsb, fun o d => d - o), (.and, fun o d => o &&& d), (.or, fun o d => o ||| d),
   (.xor, fun o d => o ^^^ d), (.andn, fun o d => o &&& ~~~d), (.orn, fun o d => o ||| ~~~d), (.xnor, fun o d => ~~~(o ^^^ d)),
   (.shl, fun o d => o <<< (d.toNat % 64)), (.shr, fun o d => o >>> (d.toNat % 64)), (.sar, fun o d => o.sshiftRight (d.toNat % 64)),
   (.rol, fun o d => o <<< (d.toNat % 64) ||| o >>> (64 - d.toNat % 64)), (.ror, fun o d => o >>> (d.toNat % 64) ||| o <<< (64 - d.toNat % 64)),
   (.min, fun o d => if o.toInt ≤ d.toInt then o else d), (.max, fun o d => if d.toInt ≤ o.toInt then o else d),
   (.minn, fun o d => if o.toNat ≤ d.toNat then o else d), (.maxn, fun o d => if d.toNat ≤ o.toNat then o else d),
   (.addsat, fun o d => saturated (o.toInt + d.toInt)), (.subsat, fun o d => saturated (o.toInt - d.toInt))]

/-- A operations of d alone (R234). -/
def aRows1 : List ((Trig → Bool → Instr) × (Word → Word)) :=
  [(.sxb, sxt 8), (.sxh, sxt 16), (.sxw, sxt 32), (.zxb, zxt 8), (.zxh, zxt 16), (.zxw, zxt 32),
   (.clz, fun d => BitVec.ofNat 64 (leading d)), (.ctz, fun d => BitVec.ofNat 64 (trailing d)), (.popc, fun d => BitVec.ofNat 64 (ones d)),
   (.bswap, fun d => BitVec.ofNat 64 ((List.range 8).foldl (fun v i => v + d.toNat / 256 ^ i % 256 * 256 ^ (7 - i)) 0)),
   (.brev, fun d => d.reverse), (.pass, fun d => d)]

/-- The operand latches of A0 and A1: o at `a u`, c after it, p after that, the result last (R223, R224). -/
def a (u : Bool) : Nat := if u then 4 else 0

/-- A field of A.c that ext and ins take (R235): POS in bits 5:0, WID in bits 14:8, 1 to 64, within 64 bits, reserved bits 0. -/
def goodField (c : Word) (pos wid : Nat) : Prop :=
  c = BitVec.ofNat 64 (pos + wid * 256) ∧ pos < 64 ∧ 1 ≤ wid ∧ pos + wid ≤ 64

/-- A trigger that goes, and is illegal transport for a reason: no effect, and the trap with its code and the reason (R205, R312). -/
def illegalFor (i : Instr) (s : State) (reason : Nat) : Prop :=
  goes i s → exec i s = .next (trapEntry s.cur.1 s.cur.2 ⟨0x02, BitVec.ofNat 64 (codeOf i), BitVec.ofNat 64 reason, 0, 0, false, 0⟩
    (gangOf s s.cur.1 s.cur.2) s.started)

/-- SM operations of o and d without division (R236). -/
def mRows : List ((Trig → Instr) × (Word → Word → Word)) :=
  [(.mul, fun o d => o * d), (.mulhi, fun o d => BitVec.ofInt 64 ((o.toInt * d.toInt) / 2 ^ 64)),
   (.mulhn, fun o d => BitVec.ofNat 64 (o.toNat * d.toNat / 2 ^ 64))]
/-- SM divisions (R236), towards zero. -/
def dRows : List ((Trig → Instr) × (Word → Word → Word)) :=
  [(.div, fun o d => BitVec.ofInt 64 (o.toInt.tdiv d.toInt)), (.divn, fun o d => BitVec.ofNat 64 (o.toNat / d.toNat)),
   (.rem, fun o d => BitVec.ofInt 64 (o.toInt - d.toInt * o.toInt.tdiv d.toInt)), (.remn, fun o d => BitVec.ofNat 64 (o.toNat % d.toNat))]

/-- T and F (R237). -/
def truth (b : Bool) : Word := if b then 0xFFFFFFFFFFFFFFFF else 0
/-- PL operations of o and d, and of d alone (R237). -/
def pRows2 : List ((Trig → Instr) × (Word → Word → Word)) :=
  [(.eq, fun o d => truth (o = d)), (.ne, fun o d => truth (o ≠ d)), (.lt, fun o d => truth (o.toInt < d.toInt)),
   (.le, fun o d => truth (o.toInt ≤ d.toInt)), (.ltn, fun o d => truth (o.toNat < d.toNat)), (.len, fun o d => truth (o.toNat ≤ d.toNat)),
   (.tst, fun o d => truth (o &&& d ≠ 0)), (.pand, fun o d => o &&& d), (.por, fun o d => o ||| d), (.pxor, fun o d => o ^^^ d),
   (.pandn, fun o d => o &&& ~~~d)]
def pRows1 : List ((Trig → Instr) × (Word → Word)) :=
  [(.pnot, fun d => ~~~d), (.pcnt, fun d => BitVec.ofNat 64 (ones d)), (.pfirst, fun d => BitVec.ofNat 64 (trailing d)),
   (.pany, fun d => truth (d ≠ 0)), (.pall, fun d => truth (d = 0xFFFFFFFFFFFFFFFF)),
   (.plane, fun d => BitVec.ofNat 64 (if 64 ≤ d.toNat then 2 ^ 64 - 1 else 2 ^ d.toNat - 1)), (.pmov, fun d => d)]

/-! ### LS and RM -/

/-- The cycle of the core whose turn it is. -/
def tm (s : State) : Nat := s.cyc s.cur.1

/-- LS loads (R238): bytes, and the value made of them. -/
def loadRows : List ((Trig → Instr) × Nat × (Word → Word)) :=
  [(.ldb, 1, sxt 8), (.ldbn, 1, zxt 8), (.ldh, 2, sxt 16), (.ldhn, 2, zxt 16), (.ldw, 4, sxt 32), (.ldwn, 4, zxt 32), (.ldd, 8, fun v => v)]
/-- LS stores (R238). -/
def storeRows : List ((Trig → Instr) × Nat) := [(.stb, 1), (.sth, 2), (.stw, 4), (.std, 8)]

/-- An access passes the checks of R36: the space it reaches and its physical address there. -/
def reaches (i : Instr) (s : State) (cl : Client) (store : Bool) (n : Nat) (sp : Space) (ph : Nat) : Prop :=
  (dataOf i s).p = false ∧ checkAddr s s.cur.1 s.cur.2 cl store (dataOf i s).v n (codeOf i) = .ok (sp, ph)

/-- Port A is free in a bank cycle for `n` bytes (R52), a load that its brush's store forwards to being no conflict (R56). -/
def portAFree (s : State) (store : Bool) (cyc ph n : Nat) : Prop :=
  ∀ e ∈ s.mine.schA, e.cyc = cyc → (∃ g ∈ granules ph n, e.bank = g % 64) →
    store = false ∧ (granules ph n).length = 1 ∧ e.wr = true ∧ e.req = s.cur.2 ∧ e.gran ∈ granules ph n

/-- What relocation adds to a scratchpad address of the brush whose turn it is (R33). -/
def reloc (s : State) : Nat := if s.me.sys then 0 else SEGSP_BASE s.mine * 64

/-- An LS access of a space with bank cycles: performed in cycle `cyc`, complete in cycle `due` (R50, R230). -/
def lsFlight (i : Instr) (s : State) (store : Bool) (cyc due n : Nat) (sp : Space) (ph : Nat) : Flight :=
  { Flight.done s.cur.2 (codeOf i) false (tm s) due (if store then none else some (.ps 14)) (dataOf i s).v Vc.zero 0 with
    store := store, pieces := [⟨cyc, sp, ph, n, 0, 0⟩], src := ⟨BitVec.ofNat 2048 (latch s 13).v.toNat, if (latch s 13).p then 3 else 0⟩,
    base := reloc s }

/-- The core with an LS access entered in port A's schedule, if it is one of the scratchpad. -/
def lsCore (i : Instr) (s : State) (f : Flight) (store : Bool) (cyc n : Nat) (sp : Space) (ph : Nat) : Core :=
  if sp = .scratch then
    { startedCore s f with
      schA := s.mine.schA ++ bankUses cyc ph n store s.cur.2 (codeOf i) ((dataOf i s).v.toNat % 2 ^ 36) s.cur.2 (s.mine.seq + 1) }
  else startedCore s f

/-- The port is free in cycle `cyc` for a line at `ph`: no line holds that cycle, and none of the line's bank lies within 15 cycles (R67, R71). -/
def portFree (s : State) (cyc ph : Nat) : Prop :=
  ∀ e ∈ s.mine.vport, e.1 ≠ cyc ∧ (e.2.1 = ph / 64 % 256 → e.1 + 16 ≤ cyc ∨ cyc + 16 ≤ e.1)

/-- The brush may use the vault port in the present cycle for one line at `ph` (R67, R69, R71, R239). -/
def vaultFree (s : State) (ph n : Nat) : Prop :=
  ph % 64 + n ≤ 64 ∧ ownerOf s.mine.own 9 = s.cur.2 ∧ (∀ m ∈ s.mine.moving, m.1 = 9 → tm s ≤ m.2.2) ∧
  ¬ (s.vref s.cur.1 ≠ 0 ∧ (tm s - s.mine.k0) % s.vref s.cur.1 = 0) ∧
  ¬ (s.vhost s.cur.1 ≠ 0 ∧ (tm s - s.mine.k0) % s.vhost s.cur.1 = s.vhost s.cur.1 / 2) ∧
  portFree s (tm s) ph

/-- Atomics (R240), in the word and the doubleword form; acas reads RM.c too. -/
def atomRows : List ((Trig → Bool → Instr) × Bool) :=
  [(.aadd, false), (.aand, false), (.aor, false), (.axor, false), (.amin, false), (.amax, false), (.aminn, false), (.amaxn, false),
   (.aswp, false), (.acas, true)]

/-- A scalar atomic that takes slot `slot` (R58, R240). -/
def atomFlight (i : Instr) (s : State) (slot : Nat) (cas : Bool) : Flight :=
  { Flight.done s.cur.2 (codeOf i) false (tm s) (slot + 3) (some (.ps 19)) (dataOf i s).v Vc.zero 0 with
    slots := [(slot, 0)], base := reloc s,
    src := ⟨BitVec.ofNat 2048 ((latch s 17).v.toNat + (latch s 18).v.toNat * 2 ^ 64),
            (if (latch s 17).p then 1 else 0) + (if cas && (latch s 18).p then 4 else 0)⟩ }

/-- A cycle from `t` on that brush `b` owns for its atomics, and that none of its earlier ones has taken (R58). -/
def openSlot (x : Core) (b t k : Nat) : Prop := t ≤ k ∧ (k - x.k0) % 4 = b ∧ ∀ f ∈ (x.brush b).flights, ∀ e ∈ f.slots, e.1 ≠ k

/-- Port B is free of all but brushes' atomics in the cycles an operation uses it (R59, R63). -/
def portBFree (s : State) (uses : List BankE) : Prop :=
  ∀ e ∈ s.mine.schB, (e.req ≠ 8 ∨ 4 ≤ e.brush) → ∀ u ∈ uses, ¬ (u.cyc = e.cyc ∧ u.bank = e.bank)

/-! ### CU -/

/-- The bundle that follows the one at `w` in the brush's store (R197). -/
def following (s : State) (w : Nat) : Nat := w + headerWords (s.mine.iword s.cur.2 w).w

/-- A bundle of two words is followed in its brush's next cycle by the bundle after it, or by a transfer's delay bundles. -/
def goesTo (s t : State) (pc : Nat) (xfer : Option Xfer) : Prop :=
  t.me.pc = pc ∧ t.me.xfer = xfer ∧ t.me.nextAt = tm s + 1

/-- A transfer may start: its data is clean (R342) and no transfer is pending, and its bundle is no end bundle (R243, R245). -/
def mayTransfer (i : Instr) (s : State) : Prop := (dataOf i s).p = false ∧ s.me.xfer = none ∧ noEnd s

/-- Transfers (R243, R244): whether the target is relative to the bundle's header, whether CU.y takes the return point, and the returns
it counts. -/
def transferRows : List ((Trig → Instr) × Bool × Bool × Nat) :=
  [(.bra, false, false, 0), (.brai, true, false, 0), (.ret, false, false, 1), (.call, false, true, 0), (.calli, true, true, 0)]

/-- The word of a poisoned, a user's and a brush's own trap that follows its bundle (R247). -/
def trapRows : List ((Trig → Instr) × Nat) := [(.trap, 0x15), (.brk, 0x14), (.sys, 0x16), (.taskService, 0x16)]

/-- A brush that starts to wait. -/
def waitsFor (i : Instr) (s : State) (w : Wait) : Prop :=
  s.me.run = .running → completes i s (fun t => Changes s t s.mine { s.me with run := .waiting w })

/-- The system registers and their values (R253 to R255); the flag says whether user privilege reads one. -/
def sysRows (s : State) : List (Nat × Bool × Word) :=
  let c := s.cur.1
  let r := s.region (regionOf c)
  [(0x00, true, s.mine.cycle), (0x01, true, s.phaseN c), (0x02, true, s.house), (0x03, true, s.me.flags.setWidth 64),
   (0x04, true, s.me.chk.setWidth 64), (0x05, true, s.mine.syncm.setWidth 64), (0x06, true, s.mine.own.setWidth 64),
   (0x07, true, BitVec.ofNat 64 (c % 32 + 256 * (c / 32) + 65536 * (s.devOf c % 4096))),
   (0x08, true, BitVec.ofNat 64 (s.cur.2 + if s.me.sys then 256 else 0)), (0x09, true, s.mine.ctxid),
   (0x20, false, s.me.tvb.setWidth 64), (0x21, false, BitVec.ofNat 64 (0x3F0000 + 512 * s.cur.2)), (0x22, false, s.mine.segsp),
   (0x23, false, s.mine.segvt), (0x24, false, s.mine.segis), (0x28, false, r.a), (0x29, false, r.b)]
  ++ (List.range 8).map (fun j => (0x10 + j, true, mget 0 s.mine.mxc j))

/-- A write of a system register that R256 permits in the brush's privilege. -/
def mayWrite (s : State) (n : Nat) (v : Word) : Prop :=
  (0x10 ≤ n ∧ n ≤ 0x17 ∧ v.toNat < 2 ^ 48) ∨ (n = 0x03 ∧ v.toNat < 2 ^ 5) ∨ (n = 0x04 ∧ v.toNat ≤ 2) ∨
  (s.me.sys = true ∧ ((n = 0x20 ∧ v.toNat < 2 ^ 14) ∨ (n = 0x22 ∧ segspOk v = true) ∨ (n = 0x23 ∧ segvtOk v = true) ∨ (n = 0x24 ∧ segisOk v = true)))

/-- A ring of a core, and the core with a ring changed. -/
def ring (s : State) (n : Nat) : Ring := mget Ring.reset s.mine.rings n
def withRing (x : Core) (n : Nat) (r : Ring) : Core := { x with rings := mput x.rings n r }

/-! ### VA and VX -/

/-- A shared vector latch of the core whose turn it is. -/
def vlatch (s : State) (n : Nat) : Vc := vLat s s.cur.1 n

/-- What a vector result is, element by element of `es` bytes: each element's bits, the flags it raises and whether it is poisoned. The
flags are the OR of all (R188); a lane is poisoned by every poisoned element in it (R260); bytes past the elements are zero. -/
structure Holds (r : Vc) (fl : BitVec 5) (es n : Nat) (el : Nat → Nat × Nat × Bool) : Prop where
  bits : ∀ j, es * (j + 1) ≤ 256 → elBits r.v es j = if j < n then (el j).1 % 256 ^ es else 0
  flags : ∀ k < 5, (fl.getLsbD k = true ↔ ∃ j < n, (el j).2.1.testBit k = true)
  poison : ∀ l < 64, (r.p.getLsbD l = true ↔ ∃ j < n, (el j).2.2 = true ∧ (es * j / 4 = l ∨ (es = 8 ∧ es * j / 4 + 1 = l)))

/-- A V-space trigger that starts an operation with a known result after `lat` cycles, and changes nothing else. -/
def vgives (i : Instr) (s : State) (lat : Nat) (dst : Dst) (es n : Nat) (el : Nat → Nat × Nat × Bool) : Prop :=
  goes i s → room s (some dst) (tm s + lat) → completes i s (fun t => ∃ r fl, Holds r fl es n el ∧
    Starts s t (Flight.done s.cur.2 (codeOf i) true (tm s) (tm s + lat) (some dst) 0 r fl))

/-- The integer an element's bits stand for under a type (R179): signed where the type is. -/
def val (ty b : Nat) : Int := if tySigned ty ∧ 2 ^ (8 * tyBytes ty - 1) ≤ b then (b : Int) - 2 ^ (8 * tyBytes ty) else b
/-- An integer in the bits of an element, wrapped or saturated to the type (R179). -/
def wrap (ty : Nat) (v : Int) : Nat := (v % 2 ^ (8 * tyBytes ty)).toNat
def least (ty : Nat) : Int := if tySigned ty then -(2 ^ (8 * tyBytes ty - 1)) else 0
def greatest (ty : Nat) : Int := if tySigned ty then 2 ^ (8 * tyBytes ty - 1) - 1 else 2 ^ (8 * tyBytes ty) - 1
def fit (md : Mode) (v : Int) : Nat := wrap md.ty (if md.sat then max (least md.ty) (min (greatest md.ty) v) else v)

/-- The first latch of VA0 or VA1: o1, o2, m, p, y, yp follow one another (R227). -/
def va (u : Bool) : Nat := if u then 6 else 0

/-- An element of a VA operation (R259 to R261): the merge value or zero where VA.p excludes it, else what `f` makes of a, b and c; poison
of the mode, of the mask and of the operands it reads. -/
def vaEl (i : Instr) (s : State) (u cmp useA useC : Bool) (es : Nat) (f : Nat → Nat → Nat → Nat × Nat) (j : Nat) : Nat × Nat × Bool :=
  let o1 := vlatch s (va u)
  let o2 := vlatch s (va u + 1)
  let p := vlatch s (va u + 3)
  let d := vDataOf i s
  let l := es * j / 4
  let m := (vlatch s (va u + 2)).p.getLsbD 0
  if p.v.getLsbD (32 * l) then (if cmp then 0 else elBits o1.v es j, 0, m || (!cmp && elPois o1.p es j) || p.p.getLsbD l)
  else
    let r := f (elBits o1.v es j) (elBits d.v es j) (elBits o2.v es j)
    (r.1, r.2, m || p.p.getLsbD l || elPois d.p es j || (useA && elPois o1.p es j) || (useC && elPois o2.p es j))

/-- Arithmetic on integers (R262): whether it reads a and c, and the exact value. -/
def vaInts : List ((Trig → Bool → Instr) × Bool × Bool × (Int → Int → Int → Int)) :=
  [(.vadd, true, false, fun a b _ => a + b), (.vsub, true, false, fun a b _ => a - b), (.vmul, true, false, fun a b _ => a * b),
   (.vfma, true, true, fun a b c => a * b + c), (.vfms, true, true, fun a b c => a * b - c), (.vfnm, true, true, fun a b c => c - a * b),
   (.vmin, true, false, fun a b _ => min a b), (.vmax, true, false, fun a b _ => max a b), (.vabs, false, false, fun _ b _ => (b.natAbs : Int)),
   (.vneg, false, false, fun _ b _ => -b), (.vabd, true, false, fun a b _ => ((a - b).natAbs : Int))]

/-- Shifts and the high product (R262), on bits and on values. -/
def vaShifts : List ((Trig → Bool → Instr) × (Nat → Nat → Nat → Nat)) :=
  [(.vshl, fun ty a b => a * 2 ^ (b % (8 * tyBytes ty))), (.vshr, fun ty a b => a / 2 ^ (b % (8 * tyBytes ty))),
   (.vsar, fun ty a b => wrap ty ((if 2 ^ (8 * tyBytes ty - 1) ≤ a then (a : Int) - 2 ^ (8 * tyBytes ty) else (a : Int)) / 2 ^ (b % (8 * tyBytes ty)))),
   (.vmulh, fun ty a b => wrap ty (val ty a * val ty b / 2 ^ (8 * tyBytes ty)))]

/-- Arithmetic on floating values that rounds (R262): the exact value and the flags of invalid operands (R181). -/
def vaFloats : List ((Trig → Bool → Instr) × Bool × (Nat → Machine.Num → Machine.Num → Machine.Num → Machine.Num × Nat)) :=
  [(.vadd, false, fun r a b _ => a.add r b), (.vsub, false, fun r a b _ => a.add r b.neg), (.vmul, false, fun _ a b _ => a.mul b),
   (.vfma, true, fun r a b c => Machine.Num.fma r a b c), (.vfms, true, fun r a b c => Machine.Num.fma r a b c.neg),
   (.vfnm, true, fun r a b c => Machine.Num.fma r a.neg b c),
   (.vabd, false, fun r a b _ => (match (a.add r b.neg).1 with | .fin _ m e => .fin false m e | .inf _ => .inf false | .nan => .nan, (a.add r b.neg).2))]

/-- Exact operations on floating bits other than NaN (R262): whether it reads a. -/
def vaExacts : List ((Trig → Bool → Instr) × Bool × (Nat → Nat → Nat → Nat)) :=
  [(.vmin, true, fun ty a b => if (valOf ty b).below (valOf ty a) then b else a),
   (.vmax, true, fun ty a b => if (valOf ty a).below (valOf ty b) then b else a),
   (.vabs, false, fun ty _ b => b % 2 ^ (8 * tyBytes ty - 1)),
   (.vneg, false, fun ty _ b => if b < 2 ^ (8 * tyBytes ty - 1) then b + 2 ^ (8 * tyBytes ty - 1) else b - 2 ^ (8 * tyBytes ty - 1))]

/-- Bitwise operations (R263). -/
def vaBits : List ((Trig → Bool → Instr) × Bool × Bool × (Nat → Nat → Nat → Nat → Nat)) :=
  [(.vand, true, false, fun _ a b _ => a &&& b), (.vor, true, false, fun _ a b _ => a ||| b), (.vxor, true, false, fun _ a b _ => a ^^^ b),
   (.vandn, true, false, fun o a b _ => a &&& (o - b)), (.vsel, true, true, fun o a b c => (a &&& c) ||| (b &&& (o - c))),
   (.vmov, false, false, fun _ _ b _ => b)]

/-- Compares (R264): what they say of an order, and of a NaN operand. -/
def vaCompares : List ((Trig → Bool → Instr) × Bool × (Ordering → Bool)) :=
  [(.vceq, false, fun o => o = .eq), (.vcne, true, fun o => o ≠ .eq), (.vclt, false, fun o => o = .lt), (.vcle, false, fun o => o ≠ .gt)]

/-- The class of a floating pattern (R264). -/
def classIs (ty b : Nat) : Nat :=
  match valOf ty b with
  | .nan => 0
  | .inf n => if n then 1 else 8
  | .fin n m _ =>
    if m = 0 then (if n then 4 else 5)
    else if m < 2 ^ (fmtOf ty).t then (if n then 3 else 6) else (if n then 2 else 7)

/-- A VX operation's mode, and its element count. -/
def vxHas (s : State) (md : Mode) : Prop := modeOf (vlatch s 14) = .ok md
def cnt (md : Mode) : Nat := 256 / tyBytes md.ty
/-- Whether VX.m is poisoned, and a VX trigger that starts an operation with a known result, every element of it computed from VX.m too
(R260, R265). -/
def vxBad (s : State) : Bool := (vlatch s 14).p.getLsbD 0
def vxgives (i : Instr) (s : State) (lat : Nat) (dst : Dst) (es n : Nat) (el : Nat → Nat × Nat × Bool) : Prop :=
  vgives i s lat dst es n (fun j => ((el j).1, (el j).2.1, (el j).2.2 || vxBad s))
/-- The count, index, amount, half or parity of a VX trigger: lane 0 of its data (R265). -/
def dl (i : Instr) (s : State) : Nat := (vDataOf i s).v.toNat % 2 ^ 32

/-- Permutes (R270): whether lane 0 of the data is at most 1, and for element j of n the vector and the element it is taken from, with the
poison of its selector, from o1, o2 and d. -/
def permRows : List ((Trig → Instr) × Bool × (Vc → Vc → Vc → Nat → Nat → Nat → Vc × Nat × Bool)) :=
  let h (d : Vc) : Nat := d.v.toNat % 2 ^ 32
  [(.vperm, false, fun _ o2 d es n j => (d, elBits o2.v es j % n, elPois o2.p es j)),
   (.vrot, false, fun o1 _ d _ n j => (o1, (((j : Int) + (BitVec.ofNat 32 (h d)).toInt) % (n : Int)).toNat, d.p.getLsbD 0)),
   (.vbcast, false, fun o1 _ d _ n _ => (o1, h d % n, d.p.getLsbD 0)),
   (.vzip, true, fun o1 o2 d _ n j => (if j % 2 = 0 then o1 else o2, j / 2 + h d * (n / 2), d.p.getLsbD 0)),
   (.vunzip, true, fun o1 o2 d _ n j => if 2 * j + h d < n then (o1, 2 * j + h d, d.p.getLsbD 0) else (o2, 2 * j + h d - n, d.p.getLsbD 0))]

/-- Two children of a tree's node, absent ones passed by (R191). -/
def both {α : Type} (node : α → α → α) (a b : Option α) : Option α :=
  match a, b with
  | some x, some y => some (node x y)
  | some x, none => some x
  | none, y => y
/-- The tree over positions 0 to 2^k − 1: its root joins the trees over the two halves (R191). -/
def tree {α : Type} (node : α → α → α) : Nat → (Nat → Option α) → Option α
  | 0, g => g 0
  | k + 1, g => both node (tree node k g) (tree node k (fun i => g (i + 2 ^ k)))

/-- The element of d in position j, if the exclusion mask leaves it (R265). -/
def presentEl (i : Instr) (s : State) (es j : Nat) : Option (Nat × Nat × Bool) :=
  if (vlatch s 13).v.getLsbD (32 * (es * j / 4)) then none else some (elBits (vDataOf i s).v es j, 0, elPois (vDataOf i s).p es j)

/-- The node of a reduction (R191, R269): an add, the greater or the lesser of two elements. -/
def redNode (md : Mode) (op : Nat) (x y : Nat × Nat × Bool) : Nat × Nat × Bool :=
  let z : Nat × Nat :=
    if tyInt md.ty then
      (match op with
        | 0 => fit md (val md.ty x.1 + val md.ty y.1)
        | 1 => if val md.ty x.1 < val md.ty y.1 then y.1 else x.1
        | _ => if val md.ty y.1 < val md.ty x.1 then y.1 else x.1, 0)
    else if op = 0 then
      let a := (valOf md.ty x.1).add md.rnd (valOf md.ty y.1)
      let r := roundTo md.ty md.rnd md.sat a.1 0
      (r.1, a.2 ||| r.2)
    else if (valOf md.ty x.1).isNaN || (valOf md.ty y.1).isNaN then ((fmtOf md.ty).nanCode, 0)
    else if op = 1 then (if (valOf md.ty x.1).below (valOf md.ty y.1) then y.1 else x.1, 0)
    else (if (valOf md.ty y.1).below (valOf md.ty x.1) then y.1 else x.1, 0)
  (z.1, x.2.1 ||| y.2.1 ||| z.2, x.2.2 || y.2.2)

/-- A reduction's result with every element absent (R191). -/
def noneLeft (md : Mode) (op : Nat) : Nat :=
  if op = 0 then 0 else if tyInt md.ty then wrap md.ty (if op = 1 then least md.ty else greatest md.ty) else (fmtOf md.ty).infCode (op = 1)

/-- Whether one of the first `n` elements of the exclusion mask is poisoned. -/
def maskBad (s : State) (es n : Nat) : Bool := (List.range n).any (fun j => (vlatch s 13).p.getLsbD (es * j / 4))

/-- The add scan (R191, R269): an absent element takes the sum before it, or the identity in position 0. -/
def scan (md : Mode) (g : Nat → Option (Nat × Nat × Bool)) : Nat → Nat × Nat × Bool
  | 0 => (g 0).getD (0, 0, false)
  | j + 1 => match g (j + 1) with
    | none => scan md g j
    | some x => redNode md 0 (scan md g j) x

/-- The valid lanes of an MX block, and its values (R196). -/
def mxLanes (v b : Nat) : List Nat := (List.range 64).filter (fun k => k / 32 = b ∧ k < v)
def mxScale (s : State) (md : Mode) (v b : Nat) : Option Int × Nat :=
  blockScale md.ty ((mxLanes v b).map (fun k => fp32.decode (elBits (vlatch s 12).v 4 k)))

/-- The transcendentals in R190's order. -/
def transRows : List ((Trig → Instr) × Nat) :=
  [(.vexp2, 0), (.vlog2, 1), (.vrcp, 2), (.vrsq, 3), (.vsqrt, 4), (.vsint, 5), (.vcost, 6)]

/-! ### VL, vector atomics, NB -/

/-- VL's affine operations (R272): whether one stores, and its bytes for vldw's element size. -/
def vlRows : List ((Trig → Instr) × Bool × (Nat → Nat)) :=
  [(.vld, false, fun _ => 256), (.vst, true, fun _ => 256), (.vldb, false, fun _ => 64), (.vstb, true, fun _ => 64), (.vldw, false, fun es => 64 * es)]

/-- The type vldw reads in VL.m, not a 64-bit integer (R274); the others read no type, here 0. -/
def vlType (i : Instr) (s : State) (ty : Nat) : Prop :=
  match i with
  | .vldw _ => ∃ md, modeOf (vlatch s 20) = .ok md ∧ md.ty = ty ∧ ty ≠ 0x06 ∧ ty ≠ 0x26
  | _ => ty = 0

/-- The piece offset P of vld and vst (R273). -/
def pieceStep (s : State) : BitVec 32 := (vlatch s 19).v.extractLsb' 0 32
/-- Whether an operation of 256 bytes takes its four pieces P apart. -/
def strided (i : Instr) (s : State) : Prop :=
  (match i with | .vld _ => True | .vst _ => True | _ => False) ∧ pieceStep s ≠ 0 ∧ pieceStep s ≠ 64

/-- An affine access passes its checks (R36, R260, R273): its space and the physical address of each piece of 64 bytes. -/
def vlReaches (i : Instr) (s : State) (store : Bool) (n : Nat) (sp : Space) (ph : Nat → Nat) : Prop :=
  let d := (dataOf i s).v
  (dataOf i s).p = false ∧ (match i with | .vld _ => (vlatch s 19).p.getLsbD 0 = false | .vst _ => (vlatch s 19).p.getLsbD 0 = false | _ => True) ∧
  d.toNat % 4 = 0 ∧
  (¬ strided i s → checkAddr s s.cur.1 s.cur.2 .vl store d n (codeOf i) = .ok (sp, ph 0) ∧ ∀ k, ph k = ph 0 + 64 * k) ∧
  (strided i s → sp = .scratch ∧ (pieceStep s).toNat % 4 = 0 ∧ ∀ k : Nat, k < 4 →
    let a := (d + BitVec.ofInt 64 ((k : Int) * (pieceStep s).toInt)).toNat
    a + 64 ≤ 0x400000 ∧ relocScratch s.mine s.me.sys store a 64 = some (ph k))

/-- The pieces of an affine access: address, bytes and their place in the vector. -/
def vlRuns (n : Nat) (ph : Nat → Nat) : List (Nat × Nat × Nat) :=
  if n = 256 then [(ph 0, 64, 0), (ph 1, 64, 64), (ph 2, 64, 128), (ph 3, 64, 192)] else [(ph 0, n, 0)]

/-- Whether vldw's VL.m is poisoned (R260, R274): no other access reads it. -/
def vlBad (i : Instr) (s : State) : Bool := match i with | .vldw _ => (vlatch s 20).p.getLsbD 0 | _ => false
/-- A vector access under way (R272): a store takes VL.o as it stands; vldw keeps its type and whether its mode is poisoned. -/
def vlFlight (i : Instr) (s : State) (store : Bool) (ty due : Nat) (pieces : List Piece) : Flight :=
  { Flight.done s.cur.2 (codeOf i) false (tm s) due (if store then none else some (.vs 21)) (dataOf i s).v Vc.zero 0 with
    store := store, pieces := pieces, src := if store then vlatch s 17 else Vc.zero,
    idx := ⟨BitVec.ofNat 2048 ((pieceStep s).toNat + ty * 2 ^ 32 + if vlBad i s then 2 ^ 40 else 0), 0⟩, base := reloc s }

/-- Two uses of one bank in one cycle. -/
def sameBank (e f : BankE) : Prop := e.cyc = f.cyc ∧ e.bank = f.bank

/-- The vault port's rules for a brush access whose lines take the cycles from the present one on (R67, R69, R71). -/
def linesFree (s : State) (lines : List Nat) : Prop :=
  ownerOf s.mine.own 9 = s.cur.2 ∧ (∀ m ∈ s.mine.moving, m.1 = 9 → tm s ≤ m.2.2) ∧
  ∀ k, ∀ a ∈ lines[k]?,
    ¬ (s.vref s.cur.1 ≠ 0 ∧ (tm s + k - s.mine.k0) % s.vref s.cur.1 = 0) ∧
    ¬ (s.vhost s.cur.1 ≠ 0 ∧ (tm s + k - s.mine.k0) % s.vhost s.cur.1 = s.vhost s.cur.1 / 2) ∧
    portFree s (tm s + k) a

/-- A lane of vldx or vstx (R275): its address, and where it reads or writes: a scratchpad address, or bytes of a window and their poison. -/
def lane32 (v : Vec) (l : Nat) : BitVec 32 := v.extractLsb' (32 * l) 32
def laneAddr (i : Instr) (s : State) (l : Nat) : Word := (dataOf i s).v + (lane32 (vlatch s 18).v l).setWidth 64
def laneOk (i : Instr) (s : State) (store : Bool) (l : Nat) (at_ : Nat ⊕ (Nat × Bool)) : Prop :=
  let a := laneAddr i s l
  (vlatch s 18).p.getLsbD l = false ∧ a.toNat % 4 = 0 ∧
  match at_ with
  | .inl ph => a.toNat < 0x400000 ∧ checkAddr s s.cur.1 s.cur.2 .vl store a 4 (codeOf i) = .ok (.scratch, ph)
  | .inr (v, p) => store = false ∧ 0x800000000 ≤ a.toNat ∧ a.toNat + 3 < 0x1000000000 ∧ s.mine.readWindow (tm s) a.toNat 4 (codeOf i) = .ok (v, p)

/-- The active lanes of an index vector, ascending (R241, R275). -/
def active (v : Vec) : List Nat := (List.range 64).filter (fun l => !(lane32 v l).getLsbD 31)

/-- What a lane reads of a window: nothing where it is inactive or reads the scratchpad. -/
def winLane (s : State) (at_ : Nat → Nat ⊕ (Nat × Bool)) (l : Nat) : Nat × Bool :=
  if l ∈ active (vlatch s 18).v then (match at_ l with | .inr x => x | .inl _ => (0, false)) else (0, false)

/-! ### Shared units -/

/-- An operation whose result is taken of the state at the end of its cycle (R296, R301): until then it holds what it asks for. -/
def asks (s : State) (code : Nat) (dst : Dst) (sel : Word) : Flight :=
  Flight.done s.cur.2 code false (tm s) (tm s + 2) (some dst) sel (scVc ⟨sel, false⟩) 0

/-- What xst returns (R296): where the local chain is, that it runs, that a chain is armed, that it was stopped, entries done; the armed
chain's entry; its snapshot's halves. -/
def xeStatus (x : Core) (sel : Nat) : Word :=
  let bit (p : Bool) (n : Nat) : Nat := if p then 2 ^ n else 0
  match sel, x.armed with
  | 0, a => BitVec.ofNat 64 (x.lc.addr % 2 ^ 36 + bit x.lc.run 40 + bit a.isSome 41 + bit x.lc.stop 42 + x.lc.done.toNat * 2 ^ 48)
  | _, none => 0
  | 1, some a => BitVec.ofNat 64 a.1
  | 2, some a => BitVec.ofNat 64 (a.2.toNat % 2 ^ 64)
  | _, some a => BitVec.ofNat 64 (a.2.toNat / 2 ^ 64)

/-- What xcst returns of a slot (R301): bound, interpolating, the producing side, a frame or sample not yet taken, publishes. -/
def slotStatus (s : State) (g n : Nat) : Word :=
  match s.crossing g n with
  | none => 0
  | some (i, prod) =>
    let x := s.xing i
    BitVec.ofNat 64 (1 + (if x.cfg.getLsbD 30 then 2 else 0) + (if prod then 4 else 0) + (if x.fresh then 8 else 0) + x.pubs.toNat * 2 ^ 32)

/-- The bits of a snapshot of the predicates (R107). -/
def snapOf (s : State) (p : BitVec 128) : Prop := ∀ k < 128, p.getLsbD k = (readP s.me k).v.getLsbD 0

/-- A descriptor with new IOFF, ROW0 and COL0 (R80, R91). -/
def moved (d d' : BitVec 512) (ioff rc : Word) : Prop :=
  d'.extractLsb' 0 64 = d.extractLsb' 0 64 ∧ d'.extractLsb' 64 64 = ioff ∧ d'.extractLsb' 128 64 = rc ∧
  d'.extractLsb' 192 320 = d.extractLsb' 192 320

/-! ### Matrix commands -/

/-- The matrix commands and their opcodes (R207). -/
def mxRows : List ((MxF → Instr) × Nat) := [(.mnop, 0), (.mma, 1), (.mmag, 2), (.mzero, 3), (.mld, 4), (.msave, 5), (.mcmb, 6), (.mret, 7)]

/-- A command's types (R195, R281): a product of two binary8 types of precision 3 to 5, or of one floating type without scaling; a retire of
no integer type. -/
def mxTyped (op : Nat) (f : MxF) : Prop :=
  let ta := f.ta.toNat
  let tb := f.tb.toNat
  let b8 (t : Nat) : Prop := tyB8 t = true ∧ 3 ≤ t % 8 ∧ t % 8 ≤ 5
  (op = 1 ∨ op = 2 → tyImpl ta = true ∧ tyImpl tb = true ∧ ((b8 ta ∧ b8 tb) ∨ (tyFloat ta = true ∧ ta = tb ∧ f.scaled = false))) ∧
  (op = 7 → tyImpl ta = true ∧ tyInt ta = false)

/-- Its extents lie in the scratchpad and the segment, and no written one in the chain region (R33, R34, R281). -/
def mxInside (s : State) (c : MxCmd) : Prop :=
  ∀ e ∈ mxExtents c, (∃ z, accessRange e.2.1 e.2.2 = some (.scratch, z)) ∧
    (s.me.sys = true ∨ e.2.1 + e.2.2 ≤ (if e.1 then SEGSP_SIZE s.mine - SEGSP_CHAIN s.mine else SEGSP_SIZE s.mine) * 64)

/-- A retire writes no two granules of one bank in one bank cycle (R281). -/
def mxSpread (s : State) (f : MxF) : Prop :=
  let base := if s.me.sys then 0 else SEGSP_BASE s.mine * 64
  ∀ j < 4, ∀ g h, (∃ r < 8, g ∈ granules (base + f.aaddr.toNat * 64 + (8 * j + r) * retPitch f) (retRow f)) →
    (∃ r < 8, h ∈ granules (base + f.aaddr.toNat * 64 + (8 * j + r) * retPitch f) (retRow f)) → g % 64 = h % 64 → g = h

/-- A command as the queue takes it. -/
def queued (s : State) (op : Nat) (f : MxF) : MtCmd :=
  { cmd := ⟨BitVec.ofNat 8 op, f, 0, 0⟩, brush := s.cur.2, t := tm s, base := if s.me.sys then 0 else SEGSP_BASE s.mine * 64,
    lim := if s.me.sys then 0x400000 else min 0x400000 (SEGSP_SIZE s.mine * 64), pos := 1, judged := false,
    groups := if op = 1 then [(0, 32, f.baddr.toNat * 64, f.sb.toNat * 64)] else [], start := none,
    a := 0, b := 0, sc := 0, raw := 0, ap := 0, bp := 0, rp := 0, part := [], out := none, ref := [] }

/-! ### Moves and bundles -/

/-- Private and shared latches behind the S-space operand ports (R224), and vector latches behind the V-space ones (R227). -/
def privPorts : List (Nat × Nat) :=
  [(0x100, 0), (0x101, 1), (0x102, 2), (0x104, 4), (0x105, 5), (0x106, 6), (0x108, 8), (0x109, 9), (0x10C, 11), (0x110, 13), (0x114, 15),
   (0x118, 17), (0x119, 18), (0x12C, 20), (0x12D, 21)]
def sharedPorts : List (Nat × Nat) := [(0x120, 2), (0x121, 3), (0x124, 4), (0x128, 5), (0x129, 6)]
def vecPorts : List (Nat × Nat) :=
  [(0x400, 0), (0x401, 1), (0x403, 3), (0x404, 6), (0x405, 7), (0x407, 9), (0x408, 12), (0x409, 13), (0x40B, 17), (0x40C, 18), (0x40D, 19),
   (0x410, 22)]
def modePorts : List (Nat × Nat) := [(0x402, 2), (0x406, 8), (0x40A, 14), (0x40E, 20)]

/-- A lone move's word. -/
def word (m : Trig) (dst : Nat) : MoveWord := ⟨m.neg, m.guard, m.src, BitVec.ofNat 12 dst⟩
/-- Lane `l` of a V-move's guard (R15). -/
def laneOn (s : State) (m : Trig) (l : Nat) : Bool := (readP s.me m.guard.toNat).v.getLsbD l != m.neg

/-- A vector written under a guard: the lanes it leaves keep their values and their poison (R15). -/
def Masked (s : State) (m : Trig) (old new r : Vc) : Prop :=
  ∀ l < 64, lane32 r.v l = lane32 (if laneOn s m l then new else old).v l ∧ r.p.getLsbD l = (if laneOn s m l then new else old).p.getLsbD l

/-- A bundle of S-moves alone. -/
def onlyS (b : Bundle) : Prop := b.vm = [] ∧ b.mx = none

/-- An instruction's bundle passes every check but that its move is one of a privileged trigger (R204). -/
def readable (m : Trig) (code : Nat) : Prop := codeFault false 0 (word m code) = none ∧ portUnit false m.src.toNat = none

/-! ### Events -/

/-- An event of one core: nothing of the part changes but that core. -/
def CoreEvent (s t : State) (c : Nat) : Prop := t.rest = s.rest ∧ t.busy = s.busy ∧ ∀ d, d ≠ c → t.core d = s.core d
/-- An event after which core `c`, which it happens on, is `x`, and everything else as before. -/
def leaves (i : Instr) (s : State) (x : Core) : Prop := completes i s (fun t => CoreEvent s t s.here ∧ t.core s.here = x)

/-- The core an event happens on, its present cycle, and a brush of it. -/
def at_ (s : State) : Core := s.core s.here
def now_ (s : State) : Nat := s.cyc s.here

/-- An operation whose result is delivered in the present cycle (R231). -/
def ready (s : State) (f : Flight) : Prop := f.due ≤ now_ s ∧ f.pieces = [] ∧ f.slots = []
def delivered (s : State) (b : Nat) (f : Flight) : Prop := f ∈ ((at_ s).brush b).flights ∧ ready s f

/-- Bytes written from `a` up, the rest as before. -/
def Wrote (m m' : List Host.Cell) (a n v : Nat) : Prop :=
  ∀ x, rdByte m' x = if a ≤ x ∧ x < a + n then BitVec.ofNat 8 (v / 256 ^ (x - a)) else rdByte m x

/-- The only operation under way on a core, and nothing of its engines'. -/
def Alone (s : State) (b : Nat) (f : Flight) : Prop :=
  let x := at_ s
  b < 4 ∧ (x.brush b).flights = [f] ∧ (∀ j < 4, j ≠ b → (x.brush j).flights = []) ∧ x.lc.ops = [] ∧ x.lc.effs = [] ∧ x.xc.ops = [] ∧ x.xc.effs = [] ∧
  x.landing = [] ∧ x.engW = [] ∧ x.mtRun = [] ∧ x.rmwW = [] ∧ x.drains = [] ∧ x.ecc = []

/-- Byte `j` of what an access finds where it reads in the present cycle (R26, R27, R124, R155): in the vault the last write past its port, in a
data view the stored word, in the stream window the status page or the slot as a read issued when the operation was sees it. -/
def seenByte (s : State) (f : Flight) (q : Piece) (j : Nat) : Nat :=
  let x := at_ s
  let a := q.addr + j
  match q.sp with
  | .scratch => (rdByte x.mem a).toNat
  | .vault =>
    match (x.vpend.filter (fun e => decide (e.addr ≤ a ∧ a < e.addr + e.n))).getLast? with
    | some e => e.data.toNat / 256 ^ (a - e.addr) % 256
    | none => (rdByte x.vault a).toNat
  | .view => (x.iword (a / 0x10000) (a % 0x10000 / 4)).w.toNat / 256 ^ (a % 4) % 256
  | .stream =>
    if a < 0x1000 then (s.statusDw (regionOf s.here) (a / 8 * 8)).toNat / 256 ^ (a % 8) % 256
    else match s.crossing (regionOf s.here) ((a - 0x8000) / 0x1000) with
      | none => 0
      | some (i, _) => s.slotByte i f.t (a % 0x1000)
  | .window => 0
/-- Whether a lane of four bytes that is read touches a poisoned unit (R76, R77). -/
def seenPois (s : State) (q : Piece) (l : Nat) : Prop :=
  ∃ j < q.n, j / 4 = l ∧
    ((q.sp = .scratch ∧ mget false (at_ s).memP ((q.addr + j) / 8) = true) ∨
     (q.sp = .vault ∧ mget false (at_ s).vaultView.2 ((q.addr + j) / 16) = true))

/-- Byte `k` of a vector. -/
def vbyte (v : Vec) (k : Nat) : Nat := v.toNat / 256 ^ k % 256
/-- The pieces of an operation that fall in the present cycle, and those still to come. -/
def duePieces (s : State) (f : Flight) : List Piece := f.pieces.filter (fun q => q.cyc == now_ s)
def laterPieces (s : State) (f : Flight) : List Piece := f.pieces.filter (fun q => q.cyc != now_ s)
/-- A vector after the reads of the present cycle: what each piece finds stands in its bytes and lanes, the others as before. -/
def ReadInto (s : State) (f : Flight) (r : Vc) : Prop :=
  (∀ q ∈ duePieces s f, (∀ j < q.n, vbyte r.v (q.off + j) = seenByte s f q j) ∧
    ∀ l < q.n / 4, (r.p.getLsbD (q.off / 4 + l) = true ↔ seenPois s q l)) ∧
  ∀ k < 256, (∀ q ∈ duePieces s f, ¬ (q.off ≤ k ∧ k < q.off + q.n)) →
    vbyte r.v k = vbyte f.res.v k ∧ r.p.getLsbD (k / 4) = f.res.p.getLsbD (k / 4)
/-- The pieces of a vector access: whole lanes within the vector, none twice. -/
def wellPieced (f : Flight) : Prop :=
  (∀ q ∈ f.pieces, q.off % 4 = 0 ∧ q.n % 4 = 0 ∧ q.off + q.n ≤ 256) ∧
  f.pieces.Pairwise (fun p q => p.off + p.n ≤ q.off ∨ q.off + q.n ≤ p.off)

/-- The next job is the reads of the present cycle of the core at hand, where nothing lands; after it, as after an event of that core. -/
def banksNext (s : State) (l : List Job) : Prop :=
  s.fatal = false ∧ s.busy = false ∧ s.agenda = .banks s.here :: l ∧ (at_ s).landLines = []
def readsTo (s : State) (l : List Job) (b : Nat) (g : Flight) : Prop :=
  ∃ t, step s = .next t ∧ CoreEvent { s with agenda := l } t s.here ∧ (t.core s.here).mem = (at_ s).mem ∧ (t.core s.here).vault = (at_ s).vault ∧
    (t.brush s.here b).flights = [g]

/-- The next job begins a cycle of the core at hand, whose registers hold no latent error and which shares its place with no other. -/
def beginsNext (s : State) (l : List Job) : Prop :=
  s.fatal = false ∧ s.busy = false ∧ s.agenda = .beginCycle s.cur.1 :: l ∧ s.mine.ecc = [] ∧ s.pairOf s.cur.1 = none

/-- No access of the core falls in the present cycle but drained slots' writes. -/
def Quiet (s : State) : Prop :=
  let x := at_ s
  (∀ j < 4, (x.brush j).flights = []) ∧ x.lc.ops = [] ∧ x.lc.effs = [] ∧ x.xc.ops = [] ∧ x.xc.effs = [] ∧
  x.landing = [] ∧ x.engW = [] ∧ x.mtRun = [] ∧ x.rmwW = []

/-- What a reducing store's element makes of the element that stands there (R117): 0 add, 1 max, 2 min, 3 or. -/
def combined (op ty m d : Nat) : Nat := if op = 3 then m ||| d else (redNode ⟨ty, 0, false, false⟩ op (m, 0, false) (d, 0, false)).1

/-! ### Matrix results -/

/-- S_g (R192) of the 16 exact products of a group: of binary8 their exact sum, an exact zero being +0.0, rounded once after its scales; of the
other types the tree of R191 with every node rounded. -/
def groupVal (ty : Nat) (scaled : Bool) (ps : List Machine.Num) (sa sb : Nat) : Nat :=
  if tyB8 ty then
    let v : Machine.Num :=
      if .nan ∈ ps ∨ (.inf true ∈ ps ∧ .inf false ∈ ps) then .nan
      else if .inf true ∈ ps then .inf true else if .inf false ∈ ps then .inf false
      else match ps.foldl (fun (a p : Machine.Num) => (a.add 0 p).1) (.fin false 0 0) with
        | .fin _ 0 _ => .fin false 0 0
        | v => v
    if scaled then (if sa = 255 ∨ sb = 255 then xf34.nanCode else rneXf (v.scale ((sa : Int) - 127 + ((sb : Int) - 127)))) else rneXf v
  else ((tree (fun x y => xf34.decode (rneXf (x.add 0 y).1)) 4 (fun j => ps[j]?)).map rneXf).getD 0
/-- The step partial of a row of A and a column of B (R192), by their elements and the scales of their blocks. -/
def stepVal (ty : Nat) (scaled : Bool) (a b : Nat → Machine.Num) (sa sb : Nat → Nat) : Nat :=
  let part (g : Nat) : Nat := groupVal ty scaled ((List.range 16).map (fun j => ((a (16 * g + j)).mul (b (16 * g + j))).1)) (sa (g / 2)) (sb (g / 2))
  (List.range (8 / tyBytes ty - 1)).foldl (fun p g => xfAdd p (part (g + 1))) (part 0)
/-- CT (R193): the left subtree takes the largest power of two below the number of partials. An element has 34 bits. -/
def ctree : Nat → List Nat → Nat
  | 0, l => l.headD 0
  | k + 1, l =>
    if l.length ≤ 1 then l.headD 0
    else
      let m := 2 ^ Nat.log2 (l.length - 1)
      xfAdd (ctree k (l.take m)) (ctree k (l.drop m)) % 2 ^ 34

/-- Byte `k` of a tile or of the scales, and a field of `n` bytes. -/
def tbyte {w : Nat} (v : BitVec w) (k : Nat) : Nat := v.toNat / 256 ^ k % 256
def tfield {w : Nat} (v : BitVec w) (k n : Nat) : Nat := v.toNat / 256 ^ k % 256 ^ n
/-- The step partial of element (r, c) over the step tiles and scales a command has read (R283, R285). -/
def partialOf (f : MxF) (a b : BitVec 32768) (sc : BitVec 2048) (r c : Nat) : Nat :=
  let el (ty : Nat) (t : BitVec 32768) (r k : Nat) : Machine.Num := valOf ty (tfield t (128 * r + tyBytes ty * k) (tyBytes ty))
  stepVal f.ta.toNat f.scaled (el f.ta.toNat a r) (el f.tb.toNat b c) (fun i => tbyte sc (4 * r + i)) (fun i => tbyte sc (128 + 4 * c + i)) % 2 ^ 34
/-- Cycles of a command from its start to its completion (R289). -/
def mxDone (q : MtCmd) : Nat :=
  match q.cmd.op.toNat with
  | 1 | 2 => (if q.cmd.f.ta = 0x42 then 32 else if q.cmd.f.an || q.cmd.f.bw then 16 else 8) * q.cmd.f.ks.toNat * q.groups.length + 14
  | 4 => 6
  | 5 => 4
  | 6 => if q.cmd.f.sel = 8 then 7 else 5
  | 7 => 10
  | _ => 1
/-- An element of a raw tile (R287). -/
def rawEl (q : MtCmd) (i : Nat) : Nat := if tfield q.raw (8 * i) 8 < 2 ^ 34 then tfield q.raw (8 * i) 8 else xf34.nanCode
/-- What a command leaves in element i of its accumulator, and whether poisoned (R286 to R288, R291). -/
def mxLeaves (x : Core) (q : MtCmd) (i : Nat) : Nat × Bool :=
  let old := mget Acc.zero x.accs q.cmd.f.acc.toNat
  let t := q.out.getD Acc.zero
  let d := mget Acc.zero x.accs q.cmd.f.sel.toNat
  match q.cmd.op.toNat with
  | 1 | 2 => if q.cmd.f.mode = 0 then (t.el i, t.p.getLsbD i || q.rp.getLsbD i)
    else (xfAdd (old.el i) (t.el i) % 2 ^ 34, old.p.getLsbD i || t.p.getLsbD i || q.rp.getLsbD i)
  | 3 => (0, false)
  | 4 => (rawEl q i, q.rp.getLsbD i)
  | 6 => if q.cmd.f.sel = 8 then (xfAdd (old.el i) (rawEl q i) % 2 ^ 34, old.p.getLsbD i || q.rp.getLsbD i)
    else (xfAdd (old.el i) (d.el i) % 2 ^ 34, old.p.getLsbD i || d.p.getLsbD i)
  | _ => (old.el i, old.p.getLsbD i)
/-- What a retire makes of the element in column c: its epilogue, then one rounding (R288). -/
def retired (q : MtCmd) (c v : Nat) : Nat :=
  let a := xf34.decode v
  let w (o : Nat) : Machine.Num := fp32.decode (tfield q.sc o 4)
  let out : Machine.Num :=
    match q.cmd.f.sel.toNat with
    | 1 => if a.isNaN then .nan else if a.cmp (.fin false 0 0) = .gt then a else .fin false 0 0
    | 2 =>
      let m := if a.cmp (w 0) = .lt then w 0 else a
      if a.isNaN || (w 0).isNaN || (w 4).isNaN then .nan else if m.cmp (w 4) = .gt then w 4 else m
    | 3 => (a.mul (w (4 * c))).1
    | _ => a
  (roundTo q.cmd.f.ta.toNat 0 q.cmd.f.osat out 0).1
/-- The matrix command is the core's only work, and none of its accesses was refused. -/
def MatrixAlone (s : State) (q : MtCmd) : Prop :=
  let x := at_ s
  (∀ j < 4, (x.brush j).flights = []) ∧ x.lc.ops = [] ∧ x.lc.effs = [] ∧ x.xc.ops = [] ∧ x.xc.effs = [] ∧ x.landing = [] ∧ x.engW = [] ∧
  x.rmwW = [] ∧ x.drains = [] ∧ x.ecc = [] ∧ x.mtRun = [q] ∧ q.ref = [] ∧ s.frozen s.here = false
/-- The reads of the present cycle leave the one command as it should be, and nothing else changes. -/
def matrixReads (s : State) (l : List Job) (p : MtCmd → Prop) : Prop :=
  ∃ t q', step s = .next t ∧ CoreEvent { s with agenda := l } t s.here ∧ t.core s.here = { at_ s with mtRun := [q'] } ∧ p q'

/-- The new values of the atomics (R240), in the order of their codes, of words of `w` bits. -/
def atomNew (w : Nat) : List (Nat → Nat → Nat → Nat) :=
  let z (x : Nat) : Int := (BitVec.ofNat w x).toInt
  [fun m o _ => (m + o) % 2 ^ w, fun m o _ => m &&& o, fun m o _ => m ||| o, fun m o _ => m ^^^ o, fun m o _ => if z o < z m then o else m,
   fun m o _ => if z m < z o then o else m, fun m o _ => min m o, fun m o _ => max m o, fun _ o _ => o, fun m o c => if m = c then o else m]

/-- The condition a waiting brush waits for (R18, R129, R164, R248 to R250). -/
def metBy (s : State) (b : Nat) : Wait → Prop
  | .sem n => mget 0 (at_ s).sems n ≠ 0
  | .land n k => (mget 0 (at_ s).landSeen n - k).toNat < 2 ^ 31
  | .mem a v => (at_ s).rdScratch a 8 = (v.toNat, 0)
  | .ringFilled n => (mget Ring.reset (at_ s).rings n).st.getD (mget Ring.reset (at_ s).rings n).c 0 = 2
  | .ringFree n => (mget Ring.reset (at_ s).rings n).st.getD (mget Ring.reset (at_ s).rings n).p 0 = 0
  | .fence q => (at_ s).performed b q (now_ s) true = true
  | .cad due => due ≤ now_ s + 1
  | .until u => u ≤ now_ s
  | .phase _ => s.exch s.here = true
  | _ => False

/-- Whether the accesses a release waits for are performed by a cycle (R128, R300): a publish waits for those to crossing slots. -/
def mayRelease (x : Core) (r : Rel) (t : Nat) : Bool :=
  match r.kind with | .publish _ _ => x.slotsPerformed r.brush r.seq t | _ => x.performed r.brush r.seq t false

/-- What a release leaves of its core (R133, R250). -/
def releasedTo (x : Core) : RelKind → Core
  | .fill n j => { x with rels := [], rings := mput x.rings n { mget Ring.reset x.rings n with st := lset (mget Ring.reset x.rings n).st j 2 } }
  | .free n j => { x with rels := [], rings := mput x.rings n { mget Ring.reset x.rings n with st := lset (mget Ring.reset x.rings n).st j 0 } }
  | .semp n => { x with rels := [], sems := mput x.sems n (mget 0 x.sems n + 1) }
  | .publish _ _ => { x with rels := [] }

/-- The cores of the sittings that step with a domain. -/
def steps (s : State) (d : Nat) : List Nat := (s.stepping d).flatMap (fun z => z.cores)
/-- A core whose compute phase opens in its next cycle, with its parked brushes (R47, R160). -/
def Opens (s t : State) (c : Nat) : Prop :=
  (t.core c).k0 = s.cyc c + 1 ∧ (t.core c).xc = Chain.reset ∧ ∀ b < 4, (t.brush c b).arrived = false ∧
    ((s.brush c b).run = .parked → (t.brush c b).run = .running ∧ (t.brush c b).nextAt = s.cyc c + 1) ∧
    ((s.brush c b).run ≠ .parked → (t.brush c b).run = (s.brush c b).run)

/-- A boundary of these cores may go on: their clocks run, and no host write to them waits (R74, R153). -/
def mayOpen (s : State) (cs : List Nat) : Prop := ∀ c ∈ cs, (s.region (regionOf c)).stopped = false ∧ (s.core c).hbuf = []

/-- A mailbox or register request that is turned away with a status, and has no other effect. -/
def turnedAway (i : Instr) (s : State) (n : Nat) : Prop := exec i s = .next { s with hostMsg := n }

/-- A measurement register extended with the digest of some bytes (R361). -/
def Measured (s t : State) (i : Nat) (body : List (BitVec 8)) : Prop :=
  mget 0 t.meas i = sha512 (bytesOf 64 (mget 0 s.meas i).toNat ++ bytesOf 64 (sha512 body).toNat)

/-- A domain's regions, those with a source. -/
def inDom (s : State) (d g : Nat) : Prop := g < 32 ∧ s.domainOf g = d ∧ s.rsrc g ≠ 0

/-- The records of the tasks pulled, and of those in the pool. -/
def pulled (s : State) : List (List (BitVec 8)) := s.tasks.map (fun x => x.rec_)
def pooled (s : State) : List (List (BitVec 8)) := s.pool.map (fun x => x.rec_)
/-- A record is pulled at a queue's HEAD, taken modulo the queue's size (R326): it joins the tasks, or its queue is in error (R328). -/
def Pulls (s t : State) (q : Nat) : Prop :=
  let z := s.queue q
  let n := 2 ^ (z.cfg.extractLsb' 0 5).toNat
  let r := gBytes s (z.base.toNat + 128 * (z.head.toNat % n)) 128
  let k : Task := ⟨q, r, none, 0, 0, false, !z.cfg.getLsbD 14⟩
  (t.queue q).head = BitVec.ofNat 16 ((z.head.toNat % n + 1) % n) ∧ q ∉ t.pulls ∧
  (complOk s k = true → recordOk s k (z.cfg.extractLsb' 8 3).toNat = true → pulled t = pulled s ++ [r]) ∧
  (complOk s k = false → q < 64 → pulled t = pulled s ∧ (t.queue q).cfg.getLsbD 15 = true)
/-- Entries a queue of 2^n holds between its HEAD and an index (R326). -/
def used (z : Queue) (i : Nat) : Nat :=
  let n := 2 ^ (z.cfg.extractLsb' 0 5).toNat
  (i + n - z.head.toNat % n) % n
/-- A request that the Atelier or a register takes, with status 0. -/
def taken (i : Instr) (s : State) (p : State → Prop) : Prop := completes i s (fun t => t.hostMsg = 0 ∧ t.cores = s.cores ∧ p t)

end Sys2Proof.Claims

open Sys2Proof Sys2Proof.Machine Sys2Proof.Claims

/-- R234, R235, R230, R233: what every A operation of both units puts into its result latch one cycle later, and that nothing else
changes; a field of A.c that does not fit is illegal transport, reason 16. -/
def Obligations.AddressUnitResults : Prop :=
  (∀ r ∈ aRows2, ∀ m u s, yields (r.1 m u) s 1 (.ps (a u + 3)) ⟨r.2 (latch s (a u)).v (dataOf (r.1 m u) s).v, (latch s (a u)).p || (dataOf (r.1 m u) s).p⟩ 0) ∧
  (∀ r ∈ aRows1, ∀ m u s, yields (r.1 m u) s 1 (.ps (a u + 3)) ⟨r.2 (dataOf (r.1 m u) s).v, (dataOf (r.1 m u) s).p⟩ 0) ∧
  (∀ m u s, yields (.sel m u) s 1 (.ps (a u + 3))
    ⟨if (latch s (a u + 2)).v.getLsbD 0 then (latch s (a u)).v else (dataOf (.sel m u) s).v,
     (latch s (a u)).p || (latch s (a u + 2)).p || (dataOf (.sel m u) s).p⟩ 0) ∧
  (∀ m u s pos wid, goodField (latch s (a u + 1)).v pos wid → yields (.ext m u) s 1 (.ps (a u + 3))
    ⟨BitVec.ofNat 64 ((dataOf (.ext m u) s).v.toNat / 2 ^ pos % 2 ^ wid), (latch s (a u + 1)).p || (dataOf (.ext m u) s).p⟩ 0) ∧
  (∀ m u s pos wid, goodField (latch s (a u + 1)).v pos wid → yields (.ins m u) s 1 (.ps (a u + 3))
    ⟨BitVec.ofNat 64 ((latch s (a u)).v.toNat % 2 ^ pos + (dataOf (.ins m u) s).v.toNat % 2 ^ wid * 2 ^ pos
        + (latch s (a u)).v.toNat / 2 ^ (pos + wid) * 2 ^ (pos + wid)),
     (latch s (a u)).p || (latch s (a u + 1)).p || (dataOf (.ins m u) s).p⟩ 0) ∧
  (∀ m u s, (∀ pos wid, ¬ goodField (latch s (a u + 1)).v pos wid) → illegalFor (.ext m u) s 16 ∧ illegalFor (.ins m u) s 16)

/-- R236, R231: the products after three cycles; quotients and remainders after twenty, all ones with flag DZ for a zero divisor; a result
that would complete with one in flight is illegal transport, reason 14. -/
def Obligations.MultiplyResults : Prop :=
  (∀ r ∈ mRows, ∀ m s, yields (r.1 m) s 3 (.ps 10) ⟨r.2 (latch s 8).v (dataOf (r.1 m) s).v, (latch s 8).p || (dataOf (r.1 m) s).p⟩ 0) ∧
  (∀ m s, yields (.mac m) s 3 (.ps 10) ⟨(latch s 8).v * (dataOf (.mac m) s).v + (latch s 9).v,
    (latch s 8).p || (dataOf (.mac m) s).p || (latch s 9).p⟩ 0) ∧
  (∀ r ∈ dRows, ∀ m s, (dataOf (r.1 m) s).v ≠ 0 →
    yields (r.1 m) s 20 (.ps 10) ⟨r.2 (latch s 8).v (dataOf (r.1 m) s).v, (latch s 8).p || (dataOf (r.1 m) s).p⟩ 0) ∧
  (∀ r ∈ dRows, ∀ m s, (dataOf (r.1 m) s).v = 0 →
    yields (r.1 m) s 20 (.ps 10) ⟨0xFFFFFFFFFFFFFFFF, (latch s 8).p || (dataOf (r.1 m) s).p⟩ 0b10000) ∧
  (∀ m s, (∃ f ∈ s.me.flights, f.dst = some (.ps 10) ∧ f.due = tm s + 3) → ∀ i ∈ [Instr.mul m, .mulhi m, .mulhn m, .mac m], illegalFor i s 14) ∧
  (∀ m s, (∃ f ∈ s.me.flights, f.dst = some (.ps 10) ∧ f.due = tm s + 20) → ∀ i ∈ [Instr.div m, .divn m, .rem m, .remn m], illegalFor i s 14)

/-- R237: what every PL operation puts into PL.y one cycle later. -/
def Obligations.PredicateResults : Prop :=
  (∀ r ∈ pRows2, ∀ m s, yields (r.1 m) s 1 (.ps 12) ⟨r.2 (latch s 11).v (dataOf (r.1 m) s).v, (latch s 11).p || (dataOf (r.1 m) s).p⟩ 0) ∧
  (∀ r ∈ pRows1, ∀ m s, yields (r.1 m) s 1 (.ps 12) ⟨r.2 (dataOf (r.1 m) s).v, (dataOf (r.1 m) s).p⟩ 0)

/-- R238, R50, R230: a load of the scratchpad, a data view or the stream window performs its access in t + 2 and completes in t + 4. -/
def Obligations.LocalLoads : Prop :=
  ∀ r ∈ loadRows, ∀ m s sp ph, goes (r.1 m) s → reaches (r.1 m) s .ls false r.2.1 sp ph → sp = .scratch ∨ sp = .view ∨ sp = .stream →
    (sp = .scratch → portAFree s false (tm s + 2) ph r.2.1) → room s (some (.ps 14)) (tm s + 4) →
    completes (r.1 m) s (fun t =>
      let f := lsFlight (r.1 m) s false (tm s + 2) (tm s + 4) r.2.1 sp ph
      Changes s t (lsCore (r.1 m) s f false (tm s + 2) r.2.1 sp ph) (startedBrush s f))

/-- R238, R50: a store of the scratchpad, a data view or a crossing slot takes LS.o as it stands and performs its access in t + 3. -/
def Obligations.LocalStores : Prop :=
  ∀ r ∈ storeRows, ∀ m s sp ph, goes (r.1 m) s → reaches (r.1 m) s .ls true r.2 sp ph → sp = .scratch ∨ sp = .view ∨ sp = .stream →
    (sp = .scratch → portAFree s true (tm s + 3) ph r.2) → (sp = .stream → (latch s 13).p = false) → room s none (tm s + 3) →
    completes (r.1 m) s (fun t =>
      let f := lsFlight (r.1 m) s true (tm s + 3) (tm s + 3) r.2 sp ph
      Changes s t (lsCore (r.1 m) s f true (tm s + 3) r.2 sp ph) (startedBrush s f))

/-- R67, R68, R124, R238, R239: a vault load sees committed bytes under the writes past their port cycle and completes in t + 48; a vault
store is past its port cycle at once and commits in t + 24. Both hold the port and their bank (memory without latent errors). -/
def Obligations.VaultAccesses : Prop :=
  (∀ r ∈ loadRows, ∀ m s ph, goes (r.1 m) s → reaches (r.1 m) s .ls false r.2.1 .vault ph → vaultFree s ph r.2.1 → s.mine.ecc = [] →
    room s (some (.ps 14)) (tm s + 48) →
    completes (r.1 m) s (fun t =>
      let f := { known (r.1 m) s 48 (.ps 14) ⟨r.2.2 (BitVec.ofNat 64 (s.mine.rdVault ph r.2.1).1), (s.mine.rdVault ph r.2.1).2 != 0⟩ 0 with
        base := reloc s }
      Changes s t { startedCore s f with vport := s.mine.vport ++ [(tm s, ph / 64 % 256, s.cur.2)] } (startedBrush s f))) ∧
  (∀ r ∈ storeRows, ∀ m s ph, goes (r.1 m) s → reaches (r.1 m) s .ls true r.2 .vault ph → vaultFree s ph r.2 →
    completes (r.1 m) s (fun t => Changes s t
      { s.mine with vport := s.mine.vport ++ [(tm s, ph / 64 % 256, s.cur.2)],
                    vpend := s.mine.vpend ++ [⟨tm s + 24, s.cur.2, ph, r.2, BitVec.ofNat 2048 ((latch s 13).v.toNat % 256 ^ r.2),
                      if (latch s 13).p then 3 else 0, none, s.mine.seq + 1⟩] } s.me))

/-- R82, R94, R230, R238: a load of a stencil window completes in t + 12 with the bytes the window's descriptor gives; an error of the
descriptor is met at its issue. -/
def Obligations.WindowLoads : Prop :=
  ∀ r ∈ loadRows, ∀ m s ph v p, goes (r.1 m) s → reaches (r.1 m) s .ls false r.2.1 .window ph →
    s.mine.readWindow (tm s) ph r.2.1 (codeOf (r.1 m)) = .ok (v, p) → room s (some (.ps 14)) (tm s + 12) →
    completes (r.1 m) s (fun t => Starts (s.descTouch s.cur.1 (windowOf ph)) t { known (r.1 m) s 12 (.ps 14) ⟨r.2.2 (BitVec.ofNat 64 v), p⟩ 0 with base := reloc s })

/-- R57 to R59, R62, R240: a scalar atomic takes the brush's first slot not yet taken, holds port B for it and completes three cycles
after it. The slots of a brush are the cycles whose number in the phase is the brush's, modulo 4: the first of them not taken yet, in order. -/
def Obligations.ScalarAtomics : Prop :=
  (∀ x b t n, b < 4 → x.k0 ≤ t →
    let l := freeSlots x b t n
    l.length = n ∧ l.Pairwise (· < ·) ∧ (∀ k ∈ l, openSlot x b t k) ∧ ∀ k, openSlot x b t k → k ∈ l ∨ ∀ j ∈ l, j < k) ∧
  ∀ r ∈ atomRows, ∀ m w s sp ph, goes (r.1 m w) s → reaches (r.1 m w) s .rm true (if w then 8 else 4) sp ph →
    (dataOf (r.1 m w) s).v.toNat % (if w then 8 else 4) = 0 → rmwPending s.me < 4 →
    let f := atomFlight (r.1 m w) s ((freeSlots s.mine s.cur.2 (tm s) 1).headD (tm s)) r.2
    portBFree s (rmwUses f (s.mine.seq + 1)) → room s (some (.ps 19)) f.due →
    completes (r.1 m w) s (fun t => Changes s t { startedCore s f with schB := s.mine.schB ++ rmwUses f (s.mine.seq + 1) } (startedBrush s f))

/-- R243, R244: a control transfer lets the two bundles after it issue and then goes to its target; call and calli put the word index of
the bundle after those into CU.y one cycle later, and ret is counted as a return. -/
def Obligations.ControlTransfers : Prop :=
  ∀ r ∈ transferRows, ∀ m s, goes (r.1 m) s → mayTransfer (r.1 m) s →
    (r.2.2.1 = true → room s (some (.ps 16)) (tm s + 1)) →
    completes (r.1 m) s (fun t =>
      let d := (dataOf (r.1 m) s).v.toNat
      goesTo s t (s.me.pc + 2) (some ⟨if r.2.1 then (s.me.pc + d) % 2 ^ 64 else d, 2⟩) ∧
      if r.2.2.1 then Starts s t (known (r.1 m) s 1 (.ps 16) ⟨BitVec.ofNat 64 (following s (following s (s.me.pc + 2))), false⟩ 0)
      else Changes s t s.mine { s.me with rets := s.me.rets + r.2.2.2 })

/-- R245: a loop with a count pushes an entry; with CU.o bit 63 it pops the top entry; with a count of 0 the brush goes on after the
bundle at END. LOOP and LOOP_POP are the same words (log 5). -/
def Obligations.Loops : Prop :=
  ∀ i ∈ [Instr.loop, Instr.loopPop], ∀ m s, goes (i m) s →
    (∀ e, (dataOf (i m) s).p = false → (latch s 15).v = BitVec.ofNat 64 e → e < 2 ^ 14 → s.me.pc < e →
      0 < (dataOf (i m) s).v.toNat → (dataOf (i m) s).v.toNat < 2 ^ 32 → s.me.loops.length < 4 →
      completes (i m) s (fun t => Frame s t ∧ t.me.loops = ⟨s.me.pc + 2, e, (dataOf (i m) s).v.toNat⟩ :: s.me.loops)) ∧
    (∀ l r, (latch s 15).v.getLsbD 63 = true → s.me.loops = l :: r → (∀ l' r', r = l' :: r' → l'.last ≠ s.me.pc) →
      completes (i m) s (fun t => Frame s t ∧ t.me.loops = r)) ∧
    (∀ e, (dataOf (i m) s).p = false → (latch s 15).v = BitVec.ofNat 64 e → e < 2 ^ 14 → s.me.pc < e → (dataOf (i m) s).v = 0 →
      s.me.xfer = none → fetchTrap s.mine s.cur.2 e (headerWords (s.mine.iword s.cur.2 e).w) = none →
      completes (i m) s (fun t => Frame s t ∧ goesTo s t (following s e) none ∧ t.me.loops = s.me.loops))

/-- R247, R312: trap, brk, sys and the task service's system call take their trap after the whole bundle, with d as detail word 0. -/
def Obligations.TrapOperations : Prop :=
  ∀ r ∈ trapRows, ∀ m s, goes (r.1 m) s → ∃ t, Frame s t ∧
    exec (r.1 m) s = .next (trapEntry s.cur.1 s.cur.2 ⟨r.2, (dataOf (r.1 m) s).v, 0, 0, 1, false, 0⟩ (gangOf s s.cur.1 s.cur.2) t)

/-- R312, R314, R315, R318: a brush that takes a trap enters system privilege and the trapped state at TVB, its first bundle issues eight
cycles later at the earliest, and it keeps its registers; the system call 1 waits for the Atelier (R333). The brush's frame
holds CODE, FATE, PART and PRIV, the three detail words, where it resumes, the cycle and its private latches. A brush that takes a trap while
it serves one stops, with its registers and its memory as they were. -/
def Obligations.TrapEntryState : Prop :=
  (∀ c b t g s, (s.brush c b).trapped = none →
    (let y := (trapEntry c b t g s).brush c b
    y.trapped.isSome = true ∧ y.sys = true ∧ y.pc = (s.brush c b).tvb.toNat ∧ y.xfer = none ∧ s.cyc c + 8 ≤ y.nextAt ∧
    y.s = (s.brush c b).s ∧ y.p = (s.brush c b).p ∧ y.loops = (s.brush c b).loops ∧ y.flags = (s.brush c b).flags ∧ y.lat = (s.brush c b).lat ∧
    y.run = if t.code = 0x16 ∧ t.d0 = 1 ∧ t.part = false then .waiting .service else .running) ∧
    (b < 4 →
      let f := frameDw ((trapEntry c b t g s).core c) b
      (t.code < 2 ^ 16 → t.fate < 4 → f 0 % 2 ^ 32 =
        t.code + 2 ^ 17 * t.fate + 2 ^ 19 * t.part.toNat + 2 ^ 20 * (s.brush c b).sys.toNat) ∧
      f 8 = t.d0.toNat ∧ f 0x10 = t.d1.toNat ∧ f 0x18 = t.d2.toNat ∧
      f 0x20 % 2 ^ 16 = (s.brush c b).pc % 2 ^ 14 ∧
      (∀ z, (s.brush c b).xfer = some z → z.dly < 2 ^ 16 → f 0x20 / 2 ^ 16 % 2 ^ 16 = z.dly ∧ f 0x20 / 2 ^ 32 = z.tgt % 2 ^ 14 + 2 ^ 15) ∧
      f 0x28 = (s.core c).cycle.toNat ∧ f 0x38 = 0 ∧
      ∀ n < 20, f (0x40 + 8 * n) = (mget Sc.zero (s.brush c b).lat n).v.toNat)) ∧
  ∀ c b t g s, (s.brush c b).trapped.isSome = true →
    (trapEntry c b t g s).brush c b = { s.brush c b with run := .stopped } ∧ ((trapEntry c b t g s).core c).mem = (s.core c).mem

/-- R18, R129, R164, R175, R248 to R250, R319: each waiting operation holds its brush until its own condition. -/
def Obligations.WaitingOperations : Prop :=
  (∀ m s, goes (.halt m) s → waitsFor (.halt m) s .halt) ∧
  (∀ m s, goes (.fence m) s → waitsFor (.fence m) s (.fence (s.mine.seq + 1))) ∧
  (∀ m s, goes (.semw m) s → (dataOf (.semw m) s).v.toNat < 16 → waitsFor (.semw m) s (.sem (dataOf (.semw m) s).v.toNat)) ∧
  (∀ m s, goes (.waitl m) s → (dataOf (.waitl m) s).v.toNat < 32 → (latch s 15).p = false → (latch s 15).v.toNat < 2 ^ 32 →
    waitsFor (.waitl m) s (.land (dataOf (.waitl m) s).v.toNat ((latch s 15).v.setWidth 32))) ∧
  (∀ m s sp ph, goes (.waita m) s → reaches (.waita m) s .rm false 8 sp ph → (latch s 15).p = false →
    (dataOf (.waita m) s).v.toNat % 8 = 0 → (dataOf (.waita m) s).v.toNat < 0x400000 → waitsFor (.waita m) s (.mem ph (latch s 15).v)) ∧
  (∀ m s, goes (.phend m) s → (dataOf (.phend m) s).v.toNat < 2 →
    waitsFor (.phend m) s (.phend (s.mine.seq + 2) ((dataOf (.phend m) s).v = 1))) ∧
  (∀ m s, goes (.rwf m) s → (dataOf (.rwf m) s).v.toNat < 16 → (ring s (dataOf (.rwf m) s).v.toNat).slots ≠ 0 →
    waitsFor (.rwf m) s (.ringFilled (dataOf (.rwf m) s).v.toNat)) ∧
  (∀ m s, goes (.rwe m) s → (dataOf (.rwe m) s).v.toNat < 16 → (ring s (dataOf (.rwe m) s).v.toNat).slots ≠ 0 →
    waitsFor (.rwe m) s (.ringFree (dataOf (.rwe m) s).v.toNat)) ∧
  (∀ m s v, goes (.tret m) s → s.me.trapped = some v → frameOk s.mine s.cur.2 = true →
    waitsFor (.tret m) s (.gang (resumeCycle (tm s) (s.k s.cur.1) (frameDw s.mine s.cur.2 0x30) (s.vhost s.cur.1))))

/-- R250: rclm claims slot P and rtak takes slot C, giving their addresses in CU.y; rfil and rrel release the oldest one claimed or taken. -/
def Obligations.RingOperations : Prop :=
  (∀ m s n, goes (.rclm m) s → (dataOf (.rclm m) s).v = BitVec.ofNat 64 n → n < 16 → (ring s n).slots ≠ 0 →
    (ring s n).st.getD (ring s n).p 0 = 0 → room s (some (.ps 16)) (tm s + 1) →
    completes (.rclm m) s (fun t =>
      let f := known (.rclm m) s 1 (.ps 16) ⟨BitVec.ofNat 64 ((ring s n).base + (ring s n).p * (ring s n).size), (dataOf (.rclm m) s).p⟩ 0
      Changes s t (withRing (startedCore s f) n { ring s n with
        st := lset (ring s n).st (ring s n).p 1, claimed := (ring s n).claimed ++ [(ring s n).p], p := ((ring s n).p + 1) % (ring s n).slots })
        (startedBrush s f))) ∧
  (∀ m s n, goes (.rtak m) s → (dataOf (.rtak m) s).v = BitVec.ofNat 64 n → n < 16 → (ring s n).slots ≠ 0 →
    (ring s n).st.getD (ring s n).c 0 = 2 → room s (some (.ps 16)) (tm s + 1) →
    completes (.rtak m) s (fun t =>
      let f := known (.rtak m) s 1 (.ps 16) ⟨BitVec.ofNat 64 ((ring s n).base + (ring s n).c * (ring s n).size), (dataOf (.rtak m) s).p⟩ 0
      Changes s t (withRing (startedCore s f) n { ring s n with
        st := lset (ring s n).st (ring s n).c 3, taken := (ring s n).taken ++ [(ring s n).c], c := ((ring s n).c + 1) % (ring s n).slots })
        (startedBrush s f))) ∧
  (∀ m s n j l, goes (.rfil m) s → (dataOf (.rfil m) s).v = BitVec.ofNat 64 n → n < 16 → (ring s n).slots ≠ 0 → (ring s n).claimed = j :: l →
    completes (.rfil m) s (fun t => Changes s t { withRing s.mine n { ring s n with claimed := l } with
      rels := s.mine.rels ++ [⟨.fill n j, s.cur.2, 0, tm s⟩] } s.me)) ∧
  (∀ m s n j l, goes (.rrel m) s → (dataOf (.rrel m) s).v = BitVec.ofNat 64 n → n < 16 → (ring s n).slots ≠ 0 → (ring s n).taken = j :: l →
    completes (.rrel m) s (fun t => Changes s t { withRing s.mine n { ring s n with taken := l } with
      rels := s.mine.rels ++ [⟨.free n j, s.cur.2, 0, tm s⟩] } s.me))

/-- R133, R148, R149, R167, R169, R242, R248: posts, the sync mask, which stands from the next cycle on, ownership transfers, the cadence, and
xnop, which has no effect. -/
def Obligations.CoreControl : Prop :=
  (∀ s l w, beginsNext s l → s.mine.syncmWr = some w →
    ∃ t, step s = .next t ∧ CoreEvent { s with agenda := l } t s.cur.1 ∧ t.mine.syncm = w ∧ t.mine.syncmWr = none) ∧
  (∀ m s n, goes (.semp m) s → (dataOf (.semp m) s).v = BitVec.ofNat 64 n → n < 16 →
    completes (.semp m) s (fun t => Changes s t { s.mine with rels := s.mine.rels ++ [⟨.semp n, s.cur.2, 0, tm s⟩] } s.me)) ∧
  (∀ m s, goes (.syncm m) s → (dataOf (.syncm m) s).v.toNat < 16 →
    completes (.syncm m) s (fun t => Changes s t { s.mine with syncmWr := some ((dataOf (.syncm m) s).v.setWidth 4) } s.me)) ∧
  (∀ m s u o, goes (.own m) s → (dataOf (.own m) s).v = BitVec.ofNat 64 (u + 16 * o) → u ≤ 9 → o ≤ 4 → (o = 4 → u = 9) →
    ownerOf s.mine.own u = s.cur.2 ∨ (u = 9 ∧ ownerOf s.mine.own 9 = 4 ∧ ownerOf s.mine.own 6 = s.cur.2) → (∀ q ∈ s.mine.moving, q.1 ≠ u) →
    completes (.own m) s (fun t => Changes s t { s.mine with moving := s.mine.moving ++ [(u, o, tm s)] } s.me)) ∧
  (∀ m s, goes (.cadst m) s → (s.region (regionOf s.cur.1)).samples = 0 →
    2 ≤ (dataOf (.cadst m) s).v.toNat → (dataOf (.cadst m) s).v.toNat ≤ 65535 →
    completes (.cadst m) s (fun t => Changes s t s.mine { s.me with cad := some ⟨(dataOf (.cadst m) s).v.toNat, tm s + 1, 0, false, none⟩ })) ∧
  (∀ m s, goes (.cadst m) s → (s.region (regionOf s.cur.1)).samples ≠ 0 →
    (dataOf (.cadst m) s).v.toNat = (s.region (regionOf s.cur.1)).samples →
    completes (.cadst m) s (fun t => Changes s t s.mine
      { s.me with cad := some ⟨(dataOf (.cadst m) s).v.toNat, (s.region (regionOf s.cur.1)).nextGrid, 0, false,
        some (s.region (regionOf s.cur.1)).grid⟩ })) ∧
  (∀ m s z, goes (.cadtk m) s → s.me.cad = some z → (s.region (regionOf s.cur.1)).samples = 0 → z.resync = false → z.due = tm s →
    completes (.cadtk m) s (fun t => Changes s t s.mine
      { s.me with cad := some ⟨z.n, tm s + z.n, z.j + 1, false, z.grid.map (fun k => k + 1)⟩ })) ∧
  (∀ m s z k, goes (.cadtk m) s → s.me.cad = some z → (s.region (regionOf s.cur.1)).samples ≠ 0 → z.resync = false → z.grid = some k →
    (s.region (regionOf s.cur.1)).gridAt k = tm s →
    completes (.cadtk m) s (fun t => Changes s t s.mine { s.me with cad := some ⟨z.n, tm s + z.n, z.j + 1, false, some (k + 1)⟩ })) ∧
  (∀ m s z, goes (.cadtk m) s → s.me.cad = some z → (s.region (regionOf s.cur.1)).samples = 0 → z.resync = true → z.due ≤ tm s →
    (tm s - z.due) % z.n = 0 →
    completes (.cadtk m) s (fun t => Changes s t s.mine
      { s.me with cad := some ⟨z.n, tm s + z.n, z.j + (tm s - z.due) / z.n + 1, false, z.grid.map (fun k => k + 1)⟩ })) ∧
  (∀ m s, goes (.xnop m) s → completes (.xnop m) s (fun t => Frame s t))

/-- R233, R252 to R256: rdc gives a semaphore, a landing count or a ring's state and rdsr a system register, poisoned where their operand is;
wrsr leaves a permitted value for the next cycle, in which that register alone of those that rdsr reads has it. -/
def Obligations.CountersAndRegisters : Prop :=
  (∀ s l n v, beginsNext s l → s.cur.2 < 4 → s.me.regWr = some (n, v) → (∀ b < 4, b ≠ s.cur.2 → (s.mine.brush b).regWr = none) → s.mine.syncmWr = none →
    mayWrite s n v → ∃ t, step s = .next t ∧ CoreEvent { s with agenda := l } t s.cur.1 ∧ t.me.regWr = none ∧
      (∃ u, (n, u, v) ∈ sysRows t) ∧ ∀ k u z, (k, u, z) ∈ sysRows t → (k, u, z) ∈ sysRows s ∨ (k = n ∧ z = v)) ∧
  (∀ m s n, n < 16 → (dataOf (.rdc m) s).v = BitVec.ofNat 64 n → yields (.rdc m) s 1 (.ps 16) ⟨(mget 0 s.mine.sems n).setWidth 64, (dataOf (.rdc m) s).p⟩ 0) ∧
  (∀ m s n, n < 32 → (dataOf (.rdc m) s).v = BitVec.ofNat 64 (0x100 + n) →
    yields (.rdc m) s 1 (.ps 16) ⟨(mget Land.reset s.mine.lands n).count.setWidth 64, (dataOf (.rdc m) s).p⟩ 0) ∧
  (∀ m s n, n < 16 → (dataOf (.rdc m) s).v = BitVec.ofNat 64 (0x200 + n) → yields (.rdc m) s 1 (.ps 16) ⟨(ring s n).word, (dataOf (.rdc m) s).p⟩ 0) ∧
  (∀ m s, ∀ r ∈ sysRows s, (dataOf (.rdsr m) s).v = BitVec.ofNat 64 r.1 → r.2.1 = true ∨ s.me.sys = true →
    yields (.rdsr m) s 1 (.ps 16) ⟨r.2.2, (dataOf (.rdsr m) s).p⟩ 0) ∧
  (∀ m s n, goes (.wrsr m) s → (dataOf (.wrsr m) s).v = BitVec.ofNat 64 n → mayWrite s n (latch s 15).v →
    completes (.wrsr m) s (fun t => Changes s t s.mine { s.me with regWr := some (n, (latch s 15).v) }))

/-- R258 to R262: integer arithmetic of VA0 and VA1 on every element that VA.p leaves, after two cycles, without flags. -/
def Obligations.VectorIntegerArithmetic : Prop :=
  (∀ r ∈ vaInts, ∀ m u s md, modeOf (vlatch s (va u + 2)) = .ok md → tyInt md.ty = true →
    vgives (r.1 m u) s 2 (.vs (va u + 4)) (tyBytes md.ty) (256 / tyBytes md.ty)
      (vaEl (r.1 m u) s u false r.2.1 r.2.2.1 (tyBytes md.ty) (fun a b c => (fit md (r.2.2.2 (val md.ty a) (val md.ty b) (val md.ty c)), 0)))) ∧
  (∀ r ∈ vaShifts, ∀ m u s md, modeOf (vlatch s (va u + 2)) = .ok md → tyInt md.ty = true →
    vgives (r.1 m u) s 2 (.vs (va u + 4)) (tyBytes md.ty) (256 / tyBytes md.ty)
      (vaEl (r.1 m u) s u false true false (tyBytes md.ty) (fun a b _ => (r.2 md.ty a b, 0))))

/-- R181, R262: floating arithmetic of VA0 and VA1, rounded once, after four cycles; vmin, vmax, vabs and vneg are exact. -/
def Obligations.VectorFloatingArithmetic : Prop :=
  (∀ r ∈ vaFloats, ∀ m u s md, modeOf (vlatch s (va u + 2)) = .ok md → tyFloat md.ty = true → md.rnd ≠ 4 →
    vgives (r.1 m u) s 4 (.vs (va u + 4)) (tyBytes md.ty) (256 / tyBytes md.ty)
      (vaEl (r.1 m u) s u false true r.2.1 (tyBytes md.ty) (fun a b c =>
        let x := r.2.2 md.rnd (valOf md.ty a) (valOf md.ty b) (valOf md.ty c)
        let y := roundTo md.ty md.rnd md.sat x.1 0
        (y.1, x.2 ||| y.2)))) ∧
  (∀ r ∈ vaExacts, ∀ m u s md, modeOf (vlatch s (va u + 2)) = .ok md → tyFloat md.ty = true →
    vgives (r.1 m u) s 4 (.vs (va u + 4)) (tyBytes md.ty) (256 / tyBytes md.ty)
      (vaEl (r.1 m u) s u false r.2.1 false (tyBytes md.ty) (fun a b _ =>
        (if (valOf md.ty b).isNaN || (r.2.1 && (valOf md.ty a).isNaN) then (fmtOf md.ty).nanCode else r.2.2 md.ty a b, 0))))

/-- R263, R264: the bitwise class on every implemented type; the compares and vclass write VA.yp with all ones or zero. -/
def Obligations.VectorBitsAndCompares : Prop :=
  (∀ r ∈ vaBits, ∀ m u s md, modeOf (vlatch s (va u + 2)) = .ok md →
    vgives (r.1 m u) s (if tyInt md.ty then 2 else 4) (.vs (va u + 4)) (tyBytes md.ty) (256 / tyBytes md.ty)
      (vaEl (r.1 m u) s u false r.2.1 r.2.2.1 (tyBytes md.ty) (fun a b c => (r.2.2.2 (256 ^ tyBytes md.ty - 1) a b c, 0)))) ∧
  (∀ r ∈ vaCompares, ∀ m u s md, modeOf (vlatch s (va u + 2)) = .ok md → tyInt md.ty = true ∨ tyFloat md.ty = true →
    vgives (r.1 m u) s (if tyInt md.ty then 2 else 4) (.vs (va u + 5)) (tyBytes md.ty) (256 / tyBytes md.ty)
      (vaEl (r.1 m u) s u true true false (tyBytes md.ty) (fun a b _ =>
        (if (if tyInt md.ty then r.2.2 (compare (val md.ty a) (val md.ty b))
             else if (valOf md.ty a).isNaN || (valOf md.ty b).isNaN then r.2.1 else r.2.2 ((valOf md.ty a).cmp (valOf md.ty b)))
         then 256 ^ tyBytes md.ty - 1 else 0, 0)))) ∧
  (∀ m u s md, modeOf (vlatch s (va u + 2)) = .ok md → tyFloat md.ty = true →
    vgives (.vclass m u) s 4 (.vs (va u + 5)) (tyBytes md.ty) (256 / tyBytes md.ty) (fun j =>
      let e := vaEl (.vclass m u) s u true false false (tyBytes md.ty) (fun _ b _ =>
        (if (vlatch s (va u)).v.getLsbD (classIs md.ty b) then 256 ^ tyBytes md.ty - 1 else 0, 0)) j
      (e.1, e.2.1, e.2.2 || (!(vlatch s (va u + 3)).v.getLsbD (32 * (tyBytes md.ty * j / 4)) && (vlatch s (va u)).p.getLsbD 0))))

/-- R265 to R267: vcvt, vcvtsr, vpack and vunpk round each element to VX.m's type after six cycles. -/
def Obligations.VectorConversions : Prop :=
  (∀ m s md st, vxHas s md → st = (vlatch s 12).v.toNat % 256 → tyImpl st = true → md.rnd ≠ 4 →
    vxgives (.vcvt m) s 6 (.vs 15) (tyBytes md.ty) (256 / max (tyBytes st) (tyBytes md.ty)) (fun j =>
      let y := roundTo md.ty md.rnd md.sat (valOf st (elBits (vDataOf (.vcvt m) s).v (tyBytes st) j)) 0
      (y.1, y.2, elPois (vDataOf (.vcvt m) s).p (tyBytes st) j || (vlatch s 12).p.getLsbD 0))) ∧
  (∀ m s md st, vxHas s md → st = (vlatch s 12).v.toNat % 256 → tyImpl st = true →
    vxgives (.vcvtsr m) s 6 (.vs 15) (tyBytes md.ty) (256 / max (tyBytes st) (tyBytes md.ty)) (fun j =>
      let r := ((vlane (vDataOf (.vcvtsr m) s).v (j % 64)).rotateLeft (8 * (j / 64))).toNat
      let y := roundTo md.ty 4 md.sat (valOf st (elBits (vlatch s 13).v (tyBytes st) j)) r
      (y.1, y.2, elPois (vlatch s 13).p (tyBytes st) j || (vDataOf (.vcvtsr m) s).p.getLsbD (j % 64) || (vlatch s 12).p.getLsbD 0))) ∧
  (∀ m s md, vxHas s md → md.ty ∈ [0x03, 0x04, 0x05, 0x23, 0x24, 0x25] →
    vxgives (.vpack m) s 6 (.vs 15) (tyBytes md.ty) (128 / tyBytes md.ty) (fun j =>
      (fit md (val (md.ty + 1) (elBits (vDataOf (.vpack m) s).v (2 * tyBytes md.ty) j)), 0, elPois (vDataOf (.vpack m) s).p (2 * tyBytes md.ty) j))) ∧
  (∀ m s md, vxHas s md → md.ty = 0x40 ∨ md.ty = 0x41 → md.rnd ≠ 4 →
    vxgives (.vpack m) s 6 (.vs 15) 2 64 (fun j =>
      let y := roundTo md.ty md.rnd md.sat (valOf 0x42 (elBits (vDataOf (.vpack m) s).v 4 j)) 0
      (y.1, y.2, elPois (vDataOf (.vpack m) s).p 4 j))) ∧
  (∀ m s md, vxHas s md → md.ty ∈ [0x04, 0x05, 0x06, 0x24, 0x25, 0x26] → dl (.vunpk m) s < 2 →
    vxgives (.vunpk m) s 6 (.vs 15) (tyBytes md.ty) (cnt md) (fun j =>
      let q := j + dl (.vunpk m) s * cnt md
      (wrap md.ty (val (md.ty - 1) (elBits (vlatch s 12).v (tyBytes md.ty / 2) q)), 0,
       elPois (vlatch s 12).p (tyBytes md.ty / 2) q || (vDataOf (.vunpk m) s).p.getLsbD 0)))

/-- R270: the permutes move elements of every implemented type without flags. -/
def Obligations.VectorPermutes : Prop :=
  ∀ r ∈ permRows, ∀ m s md, vxHas s md → (r.2.1 = true → dl (r.1 m) s < 2) →
    vxgives (r.1 m) s 6 (.vs 15) (tyBytes md.ty) (cnt md) (fun j =>
      let e := r.2.2 (vlatch s 12) (vlatch s 13) (vDataOf (r.1 m) s) (tyBytes md.ty) (cnt md) j
      (elBits e.1.v (tyBytes md.ty) e.2.1, 0, elPois e.1.p (tyBytes md.ty) e.2.1 || e.2.2))

/-- R196, R268: vmxq scales and rounds the first V elements in two blocks and gives both scales in VX.ys; vmxd gives them back. -/
def Obligations.VectorMxBlocks : Prop :=
  (∀ m s md, vxHas s md → tyB8 md.ty = true → dl (.vmxq m) s ≤ 64 → goes (.vmxq m) s → room s (some (.vs 15)) (tm s + 6) →
    completes (.vmxq m) s (fun t => ∃ r fl,
      let v := dl (.vmxq m) s
      let d := (vDataOf (.vmxq m) s).p.getLsbD 0
      let byte (b : Nat) : Nat := match (mxScale s md v b).1 with | none => 0xFF | some e => (e + 127).toNat
      Holds r fl 1 64 (fun k =>
        let q := d || (mxLanes v (k / 32)).any (fun j => (vlatch s 12).p.getLsbD j) || (md.rnd == 4 && (vlatch s 13).p.getLsbD k) || vxBad s
        if v ≤ k then (0, 0, d || vxBad s)
        else match mxScale s md v (k / 32) with
          | (none, g) => ((fmtOf md.ty).nanCode, g, q)
          | (some e, _) =>
            let y := roundTo md.ty md.rnd md.sat ((fp32.decode (elBits (vlatch s 12).v 4 k)).scale (-e)) (elBits (vlatch s 13).v 4 k)
            (y.1, y.2, q)) ∧
      Starts s t { Flight.done s.cur.2 (codeOf (.vmxq m)) true (tm s) (tm s + 6) (some (.vs 15)) 0 r fl with
        wys := true, ys := BitVec.ofNat 64 (byte 0 + 256 * byte 1),
        ysP := d || (mxLanes v 0 ++ mxLanes v 1).any (fun j => (vlatch s 12).p.getLsbD j) || vxBad s })) ∧
  (∀ m s md, vxHas s md → tyB8 md.ty = true → md.rnd ≠ 4 → dl (.vmxd m) s ≤ 64 →
    vxgives (.vmxd m) s 6 (.vs 15) 4 64 (fun k =>
      let d := (vDataOf (.vmxd m) s).p.getLsbD 0
      let x := (fmtOf md.ty).decode (elBits (vlatch s 12).v 1 k)
      let sc := elBits (vlatch s 13).v 1 (k / 32)
      let y := if sc = 0xFF ∨ x.isNaN = true then (fp32.nanCode, 0) else roundTo 0x42 md.rnd md.sat (x.scale ((sc : Int) - 127)) 0
      if dl (.vmxd m) s ≤ k then (0, 0, d)
      else (y.1, y.2, d || (vlatch s 13).p.getLsbD 0 || (vlatch s 12).p.getLsbD (k / 4))))

/-- R191, R269: reductions by the fixed tree, and the scan in ascending position, whose flags are those of its last sum. -/
def Obligations.VectorReductions : Prop :=
  (∀ r ∈ [(Instr.vredadd, 0), (Instr.vredmax, 1), (Instr.vredmin, 2)], ∀ m s md, vxHas s md → tyInt md.ty = true ∨ tyFloat md.ty = true →
    (tyFloat md.ty = true → r.2 = 0 → md.rnd ≠ 4) →
    let z := (tree (redNode md r.2) (Nat.log2 (cnt md)) (presentEl (r.1 m) s (tyBytes md.ty))).getD (noneLeft md r.2, 0, false)
    vxgives (r.1 m) s 8 (.vs 15) (tyBytes md.ty) 1 (fun _ =>
      (if r.2 ≠ 0 ∧ tyFloat md.ty = true ∧ (valOf md.ty z.1).isNaN then (fmtOf md.ty).nanCode else z.1, z.2.1,
       z.2.2 || maskBad s (tyBytes md.ty) (cnt md)))) ∧
  (∀ m s md, vxHas s md → tyInt md.ty = true ∨ (tyFloat md.ty = true ∧ md.rnd ≠ 4) →
    goes (.vscan m) s → room s (some (.vs 15)) (tm s + 8) → completes (.vscan m) s (fun t => ∃ r,
      let y := scan md (presentEl (.vscan m) s (tyBytes md.ty))
      Holds r 0 (tyBytes md.ty) (cnt md) (fun j => ((y j).1, 0, (y j).2.2 || maskBad s (tyBytes md.ty) (j + 1) || vxBad s)) ∧
      Starts s t (Flight.done s.cur.2 (codeOf (.vscan m)) true (tm s) (tm s + 8) (some (.vs 15)) 0 r (BitVec.ofNat 5 (y (cnt md - 1)).2.1))))

/-- R190, R271: the transcendentals on 64 fp32 elements after twelve cycles; vtrunc and vround to integral values after six, without flags. The
values of the transcendentals are the model's reading of R190's exact ones: transc computes each as a fixed-point value of 160 fraction bits
with a sticky bit, which is then rounded (log 12). -/
def Obligations.VectorTranscendentals : Prop :=
  (∀ r ∈ transRows, ∀ m s md, vxHas s md → md.ty = 0x42 →
    vxgives (r.1 m) s 12 (.vs 15) 4 64 (fun j =>
      let x := transc r.2 (fp32.decode (elBits (vDataOf (r.1 m) s).v 4 j))
      let y := roundTo 0x42 0 md.sat x.1 0
      (y.1, x.2 ||| y.2, elPois (vDataOf (r.1 m) s).p 4 j))) ∧
  (∀ r ∈ [(Instr.vtrunc, true), (Instr.vround, false)], ∀ m s md, vxHas s md → tyFloat md.ty = true → (r.2 = false → md.rnd ≠ 4) →
    vxgives (r.1 m) s 6 (.vs 15) (tyBytes md.ty) (cnt md) (fun j =>
      let b := elBits (vDataOf (r.1 m) s).v (tyBytes md.ty) j
      (match valOf md.ty b with
        | .nan => (fmtOf md.ty).nanCode
        | .inf _ => b
        | .fin n k e => if k = 0 then b else (roundTo md.ty 0 false (.fin n (roundQ (if r.2 then 1 else md.rnd) n k e 0 0).1 0) 0).1,
       0, elPois (vDataOf (r.1 m) s).p (tyBytes md.ty) j)))

/-- R50, R52, R230, R272 to R274: an affine access of the scratchpad or a crossing slot enters all its banks of one cycle, t + 2 for a load
that is complete in t + 6, t + 3 for a store. -/
def Obligations.VectorAccesses : Prop :=
  ∀ r ∈ vlRows, ∀ m s ty sp ph, goes (r.1 m) s → vlType (r.1 m) s ty → vlReaches (r.1 m) s r.2.1 (r.2.2 (tyBytes ty)) sp ph →
    sp = .scratch ∨ sp = .stream →
    (sp = .stream → r.2.1 = true → (vlatch s 17).p &&& (if r.2.2 4 = 64 then 0xFFFF else BitVec.allOnes 64) = 0) →
    let pieces := (vlRuns (r.2.2 (tyBytes ty)) ph).map (fun q => (⟨if r.2.1 then tm s + 3 else tm s + 2, sp, q.1, q.2.1, q.2.2, 0⟩ : Piece))
    let f := vlFlight (r.1 m) s r.2.1 ty (if r.2.1 then tm s + 3 else tm s + 6) pieces
    let uses := portAUses f 0x04 (s.mine.seq + 1)
    (∀ u ∈ uses, (∀ e ∈ s.mine.schA, ¬ sameBank e u) ∧ ∀ w ∈ uses, sameBank w u → w.gran = u.gran) → room s f.dst f.due →
    completes (r.1 m) s (fun t => Changes s t { startedCore s f with schA := s.mine.schA ++ uses } (startedBrush s f))

/-- R67 to R71, R230, R272: in the vault the lines of the contiguous run take consecutive port cycles from issue, ascending; a load is
complete in t + 52. -/
def Obligations.VaultVectorAccesses : Prop :=
  ∀ r ∈ vlRows, ∀ m s ty ph, goes (r.1 m) s → vlType (r.1 m) s ty → vlReaches (r.1 m) s r.2.1 (r.2.2 (tyBytes ty)) .vault ph →
    let lines := cutLines (ph 0) (r.2.2 (tyBytes ty))
    let n := lines.length
    let pieces := (List.range n).map (fun k => let l := lines.getD k (0, 0, 0); (⟨tm s + k, .vault, l.1, l.2.1, l.2.2, 0⟩ : Piece))
    let f := vlFlight (r.1 m) s r.2.1 ty (if r.2.1 then tm s + n - 1 else tm s + 52) pieces
    linesFree s (lines.map (fun l => l.1)) → room s f.dst f.due →
    completes (r.1 m) s (fun t => Changes s t
      { startedCore s f with vport := s.mine.vport ++ (List.range n).map (fun k => (tm s + k, (lines.getD k (0, 0, 0)).1 / 64 % 256, s.cur.2)) }
      (startedBrush s f))

/-- R82, R83, R94, R230, R274: a vector load of a stencil window is complete in t + 12 with the window's bytes; vldw widens each element
exactly. -/
def Obligations.VectorWindowLoads : Prop :=
  (∀ r ∈ vlRows, r.2.1 = false → ∀ m s ty ph v p, goes (r.1 m) s → vlType (r.1 m) s ty → vlReaches (r.1 m) s false (r.2.2 (tyBytes ty)) .window ph →
    s.mine.readWindow (tm s) (ph 0) (r.2.2 (tyBytes ty)) (codeOf (r.1 m)) = .ok (v, p) → room s (some (.vs 21)) (tm s + 12) →
    completes (r.1 m) s (fun t =>
      let x : Vc := ⟨BitVec.ofNat 2048 v, if p then BitVec.ofNat 64 (2 ^ (r.2.2 (tyBytes ty) / 4) - 1) else 0⟩
      let f := vlFlight (r.1 m) s false ty (tm s + 12) []
      Starts (s.descTouch s.cur.1 (windowOf (ph 0))) t { f with res := match r.1 m with | .vldw _ => widen ty (vlBad (r.1 m) s) x | _ => x })) ∧
  (∀ ty q (x : Vc) j, tyImpl ty = true → ty ≠ 0x06 → ty ≠ 0x26 → j < 64 →
    let b := elBits x.v (tyBytes ty) j
    let l := lane32 (widen ty q x).v j
    ((widen ty q x).p.getLsbD j = (q || elPois x.p (tyBytes ty) j)) ∧
    (tyInt ty = true → l = BitVec.ofInt 32 (val ty b)) ∧
    (tyInt ty = false → (valOf ty b).isNaN = true → l.toNat = fp32.nanCode) ∧
    (∀ n, tyInt ty = false → valOf ty b = .inf n → l.toNat = fp32.infCode n) ∧
    (∀ n k e, tyInt ty = false → valOf ty b = .fin n k e → l.toNat = (roundF fp32 0 false (.fin n k e) 0).1))

/-- R63, R230, R260, R275: vldx and vstx use port B for active lane i in cycle t + 4 + i; vldx is complete in t + 72. A window lane is read
from the descriptor in force at issue (here one without a latent error); a lane that a poisoned index leaves out is poisoned. A vstx without
a lane starts nothing. -/
def Obligations.IndexedAccesses : Prop :=
  ∀ r ∈ [(Instr.vldx, false), (Instr.vstx, true)], ∀ m s (at_ : Nat → Nat ⊕ (Nat × Bool)) (w : Vc), goes (r.1 m) s →
    (dataOf (r.1 m) s).p = false → (∀ l, s.mine.lastIdx = some l → l + 64 ≤ tm s) →
    (∀ l ∈ active (vlatch s 18).v, laneOk (r.1 m) s r.2 l (at_ l)) →
    (∀ l < 64, lane32 w.v l = BitVec.ofNat 32 (winLane s at_ l).1 ∧
      w.p.getLsbD l = ((winLane s at_ l).2 || (!r.2 && (vlatch s 18).p.getLsbD l))) →
    let pieces := (active (vlatch s 18).v).filterMap (fun l => match at_ l with
      | .inl ph => some (⟨tm s + 4 + l, .scratch, ph, 4, 4 * l, l⟩ : Piece)
      | .inr _ => none)
    let f := { Flight.done s.cur.2 (codeOf (r.1 m)) false (tm s) (if r.2 then (pieces.getLast?.map (fun q => q.cyc)).getD (tm s) else tm s + 72)
        (if r.2 then none else some (.vs 21)) (dataOf (r.1 m) s).v w 0 with
      store := r.2, pieces := pieces, src := if r.2 then vlatch s 17 else w, idx := vlatch s 18, base := reloc s }
    let uses := idxUses f (s.mine.seq + 1)
    ((∀ k < 8, mget 0 s.mine.ecc (descKey k) = 0) ∨ ∀ l ∈ active (vlatch s 18).v, ∃ ph, at_ l = .inl ph) →
    (∀ u ∈ uses, ∀ e ∈ s.mine.schB, ¬ sameBank e u) → room s f.dst f.due →
    completes (r.1 m) s (fun t =>
      if r.2 = true ∧ pieces = [] then Changes s t { s.mine with lastIdx := some (tm s) } s.me
      else Changes s t { startedCore s f with schB := s.mine.schB ++ uses, lastIdx := some (tm s) } (startedBrush s f))

/-- R57, R58, R62, R241: a vector atomic takes one slot of its brush for each active lane, ascending, and completes seven cycles after the
last of them, or in t + 3 with none. -/
def Obligations.VectorAtomics : Prop :=
  ∀ r ∈ [Instr.vaadd, .vaor, .vamax, .vamin], ∀ m s, goes (r m) s → rmwPending s.me < 4 →
    let d := vDataOf (r m) s
    let lanes := active d.v
    (∀ l ∈ lanes, d.p.getLsbD l = false ∧ (lane32 d.v l).toNat % 4 = 0 ∧
      ∃ sp ph, checkAddr s s.cur.1 s.cur.2 .rm true ((lane32 d.v l).setWidth 64) 4 (codeOf (r m)) = .ok (sp, ph)) →
    let slots := freeSlots s.mine s.cur.2 (tm s) lanes.length
    let f := { Flight.done s.cur.2 (codeOf (r m)) true (tm s) (if lanes = [] then tm s + 3 else slots.getLastD 0 + 7) (some (.pv 1)) 0 Vc.zero 0 with
      slots := slots.zip lanes, src := mget Vc.zero s.me.vlat 0, idx := d, base := reloc s }
    portBFree s (rmwUses f (s.mine.seq + 1)) → room s (some (.pv 1)) f.due →
    completes (r m) s (fun t => Changes s t { startedCore s f with schB := s.mine.schB ++ rmwUses f (s.mine.seq + 1) } (startedBrush s f))

/-- R120 to R122, R276: on a locked link NB.o goes to the neighbour's facing port, to arrive in two cycles, where that core belongs to the
sitting; else the send is discarded. Nothing of the sending core changes. -/
def Obligations.NeighbourSends : Prop :=
  ∀ m side s, goes (.nbSend m side) s → linked s s.cur.1 side.toNat = true →
    (∀ d z, linkTo s.cur.1 side.toNat = some d → s.sittingOf s.cur.1 = some z → d ∈ z.cores → d ≠ s.cur.1 →
      completes (.nbSend m side) s (fun t => t.rest = s.rest ∧ t.mine.still = s.mine.still ∧ t.me.still = s.me.still ∧
        (∀ b, b ≠ s.cur.2 → t.brush s.cur.1 b = s.brush s.cur.1 b) ∧ (∀ c, c ≠ s.cur.1 → c ≠ d → t.core c = s.core c) ∧
        t.core d = { s.core d with nbArr := (s.core d).nbArr ++ [(s.cyc d + 2, nbPort side.toNat, vlatch s 22)] })) ∧
    ((∀ d z, linkTo s.cur.1 side.toNat = some d → s.sittingOf s.cur.1 = some z → d ∉ z.cores) →
      completes (.nbSend m side) s (fun t => Frame s t))

/-- R91, R92, R94, R297, R298: swset reads its image in t + 2 and its table from t + 3 on, and has its write cycle after them; swget writes
the descriptor in t + 3, all poisoned where its store is in error; swoff moves a descriptor at once. -/
def Obligations.StencilOperations : Prop :=
  (∀ m s n tl pi pt, goes (.swset m) s → s.mine.swset = none → n < 8 → tl < 256 → (dataOf (.swset m) s).v = BitVec.ofNat 64 (n + 256 * tl) →
    let o := sLat s s.cur.1 2
    let q := sLat s s.cur.1 3
    let g := (tl + 7) / 8
    o.p = false → o.v.toNat % 64 = 0 → (∃ sp, checkAddr s s.cur.1 s.cur.2 .sw false o.v 64 0x3D0 = .ok (sp, pi)) →
    (tl ≠ 0 → q.p = false ∧ ∃ sp, checkAddr s s.cur.1 s.cur.2 .sw false q.v (8 * tl) 0x3D0 = .ok (sp, pt)) →
    let uses := bankUses (tm s + 2) pi 64 false 0x09 0x3D0 s.cur.2 s.cur.2 (s.mine.seq + 1)
      ++ (List.range g).flatMap (fun k => bankUses (tm s + 3 + k) (pt + 64 * k) (min 64 (8 * tl - 64 * k)) false 0x09 0x3D0 s.cur.2 s.cur.2 (s.mine.seq + 1))
    (∀ u ∈ uses, ∀ e ∈ s.mine.schA, ¬ sameBank e u) →
    completes (.swset m) s (fun t => Changes s t { s.mine with
      schA := s.mine.schA ++ uses,
      swset := some ⟨s.cur.2, n, o.v.toNat, q.v.toNat, tl, tm s, tm s + 3 + g, reloc s, 0, [], false, s.mine.seq + 1⟩ } s.me)) ∧
  (∀ m s n p, goes (.swget m) s → s.mine.swset = none → n < 8 → (dataOf (.swget m) s).v = BitVec.ofNat 64 n →
    let o := sLat s s.cur.1 2
    let uses := bankUses (tm s + 3) p 64 true 0x09 0x3D1 s.cur.2 s.cur.2 (s.mine.seq + 1)
    o.p = false → o.v.toNat % 64 = 0 → (∃ sp, checkAddr s s.cur.1 s.cur.2 .sw true o.v 64 0x3D1 = .ok (sp, p)) →
    (∀ u ∈ uses, ∀ e ∈ s.mine.schA, ¬ sameBank e u) →
    completes (.swget m) s (fun t =>
      let s' := s.descTouch s.cur.1 n
      Changes s' t { s'.mine with
        schA := s.mine.schA ++ uses,
        engW := s.mine.engW ++ [⟨tm s + 3, p, 64, (s.mine.descAt n (tm s)).1.setWidth 2048, if mget 0 s.mine.ecc (descKey n) = 2 then 0xFFFF else 0,
          s.cur.2, s.mine.seq + 1⟩] } s.me)) ∧
  (∀ m s n d', goes (.swoff m) s → s.mine.swset = none → n < 8 → (dataOf (.swoff m) s).v = BitVec.ofNat 64 n → dKind (mget 0 s.mine.desc n) ≠ 0 →
    moved (mget 0 s.mine.desc n) d' (sLat s s.cur.1 2).v (sLat s s.cur.1 3).v →
    completes (.swoff m) s (fun t => Changes s t (s.mine.setDesc n (tm s) d' none) s.me))

/-- R107, R109, R293 to R296: xgo starts the local chain with a snapshot of the predicates before its bundle; its first fetch is in t + 2, in
port A's schedule if its bank is free, or the cycle after the brush's last write under way. xarm arms a walked chain. xst takes XE's status at
the end of its cycle for t + 2. xab aborts the running chain or disarms; XAB's two rows share their words (log 5). -/
def Obligations.ExchangeTriggers : Prop :=
  (∀ m s p, goes (.xgo m) s → (dataOf (.xgo m) s).p = false → (dataOf (.xgo m) s).v.toNat % 32 = 0 → (dataOf (.xgo m) s).v.toNat < 0x400000 →
    s.mine.lc.run = false → snapOf s p →
    let d := (dataOf (.xgo m) s).v
    let f := max (tm s + 2) (pendingWrite s.mine s.cur.2 s.mine.seq (tm s) + 1)
    let h : Chain := { Chain.reset with run := true, ptr := d.toNat, addr := d.toNat, snap := p, brush := s.cur.2, sysp := s.me.sys, fetchAt := some f }
    (f ≠ tm s + 2 → completes (.xgo m) s (fun t => Changes s t { s.mine with lc := h } s.me)) ∧
    (∀ ph, f = tm s + 2 → checkAddrAs s s.cur.1 s.me.sys .xe false d 32 0x3C0 = .ok (.scratch, ph) →
      (∀ e ∈ s.mine.schA ++ s.mine.shadow, ¬ (e.cyc = tm s + 2 ∧ e.bank = ph / 64 % 64)) →
      completes (.xgo m) s (fun t => Changes s t { s.mine with
        lc := { h with fetchSeq := s.mine.seq + 1 },
        schA := s.mine.schA ++ [⟨tm s + 2, ph / 64 % 64, ph / 64, false, 0x07, 0x3C0, d.toNat, s.cur.2, s.mine.seq + 1⟩] } s.me)) ∧
    (∀ tr, f = tm s + 2 → checkAddrAs s s.cur.1 s.me.sys .xe false d 32 0x3C0 = .error tr →
      completes (.xgo m) s (fun t => Changes s t { s.mine with lc := h } s.me))) ∧
  (∀ m s p, goes (.xarm m) s → (dataOf (.xarm m) s).p = false → (dataOf (.xarm m) s).v.toNat ∈ s.mine.walked → snapOf s p →
    completes (.xarm m) s (fun t => Changes s t { s.mine with armed := some ((dataOf (.xarm m) s).v.toNat, p) } s.me)) ∧
  (∀ m s, goes (.xst m) s → (dataOf (.xst m) s).v.toNat ≤ 3 → room s (some (.ss 0)) (tm s + 2) →
    completes (.xst m) s (fun t => Starts s t (asks s 0x3C2 (.ss 0) (dataOf (.xst m) s).v))) ∧
  (∀ s c b f, f ∈ (s.brush c b).flights → f.vsp = false → f.code = 0x3C2 → f.t = s.cyc c → f.d.toNat ≤ 3 →
    { f with res := scVc ⟨xeStatus (s.core c) f.d.toNat, false⟩ } ∈ ((regionEnd (regionOf c) s).brush c b).flights) ∧
  (∀ i ∈ [Instr.xabAbort, .xabDisarm], ∀ m s, goes (i m) s →
    ((dataOf (i m) s).v = 1 → completes (i m) s (fun t => Changes s t { s.mine with armed := none } s.me)) ∧
    ((dataOf (i m) s).v = 0 → s.mine.lc.run = false ∨ s.mine.lc.cut.isSome = true → completes (i m) s (fun t => Frame s t)) ∧
    ((dataOf (i m) s).v = 0 → s.mine.lc.run = true → s.mine.lc.cut = none → completes (i m) s (fun t =>
      Changes s t { s.mine with lc := t.mine.lc, schA := t.mine.schA } s.me ∧ t.mine.lc.run = true ∧ t.mine.lc.stop = true ∧
      t.mine.lc.cut = some (tm s + 2) ∧ (∀ k, t.mine.lc.fetchAt = some k ↔ s.mine.lc.fetchAt = some k ∧ k ≤ tm s + 2) ∧ t.mine.lc.ops = s.mine.lc.ops ∧
      (∀ e, e ∈ t.mine.lc.effs ↔ e ∈ s.mine.lc.effs ∧ e.at_ ≤ tm s) ∧
      (∀ u, t.mine.lc.cur = some u → s.mine.lc.cur = some u ∧ u.dk ≠ 1 ∧ u.at_ ≤ tm s + 2) ∧
      ∀ e ∈ s.mine.schA, e ∈ t.mine.schA ∨ (e.req = 7 ∧ tm s < e.cyc))))

/-- R299 to R301: on the producing side xcput leaves a publish to its earlier slot accesses; on the consuming side xcget gets in its issue
cycle; xcst takes the slot's state at the end of its cycle, after that cycle's publish and get, for t + 2. -/
def Obligations.CrossingTriggers : Prop :=
  (∀ m s n x, goes (.xcput m) s → (sLat s s.cur.1 4).v = BitVec.ofNat 64 n → n < 8 → s.crossing (regionOf s.cur.1) n = some (x, true) →
    ((s.xing x).cfg.getLsbD 30 = true → (dataOf (.xcput m) s).p = false) →
    completes (.xcput m) s (fun t => Changes s t { s.mine with
      rels := s.mine.rels ++ [⟨.publish n ((dataOf (.xcput m) s).v.setWidth 32), s.cur.2, 0, tm s⟩] } s.me)) ∧
  (∀ m s n x, goes (.xcget m) s → (sLat s s.cur.1 4).v = BitVec.ofNat 64 n → n < 8 → s.crossing (regionOf s.cur.1) n = some (x, false) →
    completes (.xcget m) s (fun t => Changes (s.modXing x (fun z => { z with getNow := true })) t s.mine s.me)) ∧
  (∀ m s n, goes (.xcst m) s → (sLat s s.cur.1 4).v = BitVec.ofNat 64 n → n < 8 → room s (some (.ss 1)) (tm s + 2) →
    completes (.xcst m) s (fun t => Starts s t (asks s 0x3E2 (.ss 1) (BitVec.ofNat 64 n)))) ∧
  (∀ s c b f, f ∈ (s.brush c b).flights → f.vsp = false → f.code = 0x3E2 → f.t = s.cyc c →
    { f with res := scVc ⟨slotStatus (xingEnd (regionOf c) s) (regionOf c) f.d.toNat, false⟩ } ∈ ((regionEnd (regionOf c) s).brush c b).flights)

/-- R303 to R307: in the boundary service ctxsv saves a context and ctxld restores a valid one of its own domain, over the brush that runs
it too unless it is the service's own (log 99); what R323 and R324 lay out of a slot holds and gives back the context; mckr reads a register of a machine-check
bank and clears it if asked; sbist runs a test and writes its record, of a failure if one has been placed (log 17); rcfg writes a configuration
register. The model's own choices: ctxld holds its brush up to 48 cycles past its last line (log 65, R304 and R305 give it no such end), and
sbist's accumulators and record (log 64). -/
def Obligations.SystemTriggers : Prop :=
  (∀ s c n (snap : Bool) (live : Word), n < 4 → (s.core c).ecc = [] → s.pairOf c = none →
    let x := s.core c
    let t := (ctxSave c n snap live s).core c
    let slot := 0x5C000000 + 0x500000 * n
    let w (k m : Nat) : Nat := rdBytes t.vault (slot + k) m
    let a := (s.region (regionOf c)).a
    let first := live.toNat % 2 ^ 17
    let cnt := live.toNat / 2 ^ 32 % 2 ^ 17
    w 0 8 = (if snap then 3 else 1) ∧ w 0x08 8 = x.ctxid.toNat ∧ w 0x10 8 = srcOf a + qOf a * 2 ^ 32 + pOf a * 2 ^ 48 ∧ w 0x18 8 = live.toNat ∧
    w 0x20 8 = (s.phaseN c).toNat ∧ w 0x28 8 = x.cycle.toNat ∧ w 0x30 8 = (if x.user then 0 else 1) ∧ w 0x38 8 = 0 ∧
    w 0x40 8 = x.own.toNat ∧ w 0x48 8 = x.syncm.toNat ∧ w 0x50 8 = x.segsp.toNat ∧ w 0x58 8 = x.segvt.toNat ∧ w 0x60 8 = x.segis.toNat ∧
    (∀ i < 16, w (0xA0 + 2 * i) 2 = (mget 0 x.sems i).toNat) ∧ (∀ i < 8, w (0xC0 + 8 * i) 8 = (mget 0 x.mxc i).toNat) ∧
    (∀ b < 4, (∀ i < 64, w (0x800 + 0xA00 * b + 8 * i) 8 = (readS (x.brush b) i).v.toNat) ∧
      ∀ i < 128, w (0x800 + 0xA00 * b + 0x200 + 8 * i) 8 = (readP (x.brush b) i).v.toNat) ∧
    (∀ d < 8, w (0x4800 + 0x440 * d) 64 = (mget 0 x.desc d).toNat ∧ ∀ i < 128, w (0x4840 + 0x440 * d + 8 * i) 8 = (mget 0 x.rot (128 * d + i)).toNat) ∧
    (∀ i < 768, w (0x7000 + 256 * i) 256 = (readV x i).v.toNat ∧ w (0x37000 + 8 * i) 8 = (readV x i).p.toNat) ∧
    (∀ k < 8, let z := mget Acc.zero x.accs k; w (0x38800 + 4480 * k) 4352 = z.v.toNat ∧ w (0x38800 + 4480 * k + 4352) 128 = z.p.toNat) ∧
    (∀ k, 0x41400 ≤ k → k < 0x44000 → w k 1 = 0) ∧
    (∀ i < cnt, w (0x44000 + 64 * i) 64 = rdBytes x.mem (SEGSP_BASE x * 64 + 64 * (first + i)) 64) ∧
    (∀ k, k < slot ∨ slot + 0x44000 + 64 * cnt ≤ k → rdByte t.vault k = rdByte x.vault k) ∧ t.mem = x.mem) ∧
  (∀ s c n, n < 4 → (s.core c).ecc = [] → (s.core c).vaultP = [] → s.pairOf c = none → (s.core c).brushes.length = 4 →
    let x := s.core c
    let t := (ctxRestore c n s).core c
    let slot := 0x5C000000 + 0x500000 * n
    let w (k m : Nat) : Nat := rdBytes x.vault (slot + k) m
    let first := w 0x18 8 % 2 ^ 17
    let cnt := w 0x18 8 / 2 ^ 32 % 2 ^ 17
    let base := SEGSP_BASE t * 64
    t.ctxid = BitVec.ofNat 64 (w 0x08 8) ∧ t.cycle = BitVec.ofNat 64 (w 0x28 8) ∧ (t.user = true ↔ w 0x30 8 % 2 = 0) ∧
    t.own = BitVec.ofNat 21 (w 0x40 8) ∧ t.syncm = BitVec.ofNat 4 (w 0x48 8) ∧ t.segsp = BitVec.ofNat 64 (w 0x50 8) ∧
    t.segvt = BitVec.ofNat 64 (w 0x58 8) ∧ t.segis = BitVec.ofNat 64 (w 0x60 8) ∧
    (∀ i < 16, mget 0 t.sems i = BitVec.ofNat 16 (w (0xA0 + 2 * i) 2)) ∧ (∀ i < 8, mget 0 t.mxc i = BitVec.ofNat 64 (w (0xC0 + 8 * i) 8)) ∧
    (∀ b < 4, (∀ i < 64, i ≠ 0 → (readS (t.brush b) i).v = BitVec.ofNat 64 (w (0x800 + 0xA00 * b + 8 * i) 8)) ∧
      ∀ i < 128, i ≠ 0 → (readP (t.brush b) i).v = BitVec.ofNat 64 (w (0x800 + 0xA00 * b + 0x200 + 8 * i) 8)) ∧
    (∀ d < 8, mget 0 t.desc d = BitVec.ofNat 512 (w (0x4800 + 0x440 * d) 64)) ∧
    (∀ i < 768, readV t i = ⟨BitVec.ofNat 2048 (w (0x7000 + 256 * i) 256), BitVec.ofNat 64 (w (0x37000 + 8 * i) 8)⟩) ∧
    (∀ k < 8, mget Acc.zero t.accs k = ⟨BitVec.ofNat 34816 (w (0x38800 + 4480 * k) 4352), BitVec.ofNat 1024 (w (0x38800 + 4480 * k + 4352) 128)⟩) ∧
    (first + cnt ≤ SEGSP_SIZE t → ∀ k, rdByte t.mem k =
      if base + 64 * first ≤ k ∧ k < base + 64 * (first + cnt) then rdByte x.vault (slot + 0x44000 + (k - (base + 64 * first)))
      else if base ≤ k ∧ k < base + SEGSP_SIZE t * 64 then 0 else rdByte x.mem k) ∧
    (w 0 8 % 2 = 1 → rdBytes t.vault slot 8 = if w 0 8 / 2 % 2 = 1 then w 0 8 else w 0 8 - 1)) ∧
  (∀ m s n (snap : Bool), goes (.ctxsv m) s → s.mine.service = true → n < 4 → (dataOf (.ctxsv m) s).v = BitVec.ofNat 64 (n + if snap then 4 else 0) →
    let o := (latch s 20).v
    let last := nthLine s s.cur.1 (tm s) (4352 + o.toNat / 2 ^ 32 % 2 ^ 17)
    o.toNat % 2 ^ 17 + o.toNat / 2 ^ 32 % 2 ^ 17 ≤ SEGSP_SIZE s.mine → s.me.run = .running →
    completes (.ctxsv m) s (fun t => Changes (ctxSave s.cur.1 n snap o s.started) t (ctxSave s.cur.1 n snap o s.started).mine
      { s.me with run := .waiting (.until (last + 24)) })) ∧
  (∀ m s n, goes (.ctxld m) s → s.mine.service = true → n < 4 → (dataOf (.ctxld m) s).v = BitVec.ofNat 64 n →
    let w (o : Nat) : Nat := rdBytes s.mine.vault (ctxSlot n + o) 8
    w 0 % 2 = 1 → w 0x10 = domWord (s.region (regionOf s.cur.1)).a → segspOk (w64 (w 0x50)) = true → segvtOk (w64 (w 0x58)) = true →
    segisOk (w64 (w 0x60)) = true →
    let last := nthLine s s.cur.1 (tm s) (4352 + w 0x18 / 2 ^ 32 % 2 ^ 17)
    completes (.ctxld m) s (fun t => Changes (ctxRestore s.cur.1 n s.started) t (ctxRestore s.cur.1 n s.started).mine
      (let y := (ctxRestore s.cur.1 n s.started).me; { y with run := if y.run = .running then .waiting (.until (last + 48)) else y.run }))) ∧
  (∀ m s b r (clr : Bool), goes (.mckr m) s → b < 32 → r < 4 →
    (dataOf (.mckr m) s).v = BitVec.ofNat 64 (b + 256 * r + if clr then 4096 else 0) → room s (some (.ps 22)) (tm s + 4) →
    completes (.mckr m) s (fun t =>
      let key := if b < 16 then panelOf s.cur.1 * 16 + b else 128 + (b - 16)
      let z := mget McBank.reset s.banks key
      let v := match r with | 0 => z.status | 1 => z.addr | 2 => z.misc | _ => z.count
      Starts (if clr then { s with banks := mput s.banks key { z with status := 0, count := 0 } } else s) t
        (known (.mckr m) s 4 (.ps 22) ⟨v, false⟩ 0))) ∧
  (∀ m s n sp p units cycles, goes (.sbist m) s → (dataOf (.sbist m) s).v = BitVec.ofNat 64 n →
    (n, units, cycles) ∈ [(0, [5], 400000), (1, [9], 1200000), (2, [4, 6], 900000)] →
    (∀ u ∈ units, mayUse s.mine s.cur.2 (tm s) u = true) → (latch s 20).v.toNat % 64 = 0 →
    checkAddr s s.cur.1 s.cur.2 .sw true (latch s 20).v 64 0x3F3 = .ok (sp, p) → s.me.run = .running →
    let y : Brush := { s.me with run := .waiting (.until (tm s + cycles)) }
    let w (k : Nat) : EngW := ⟨tm s + cycles, p, 64, BitVec.ofNat 2048 (k + cycles * 2 ^ 192), 0, s.cur.2, s.mine.seq + 1⟩
    let accs := if n = 0 then [] else s.mine.accs
    (bistFail s.mine n = none →
      completes (.sbist m) s (fun t => Changes s t { s.mine with engW := s.mine.engW ++ [w 0], accs := accs } y)) ∧
    (∀ u k, bistFail s.mine n = some (u, k) →
      completes (.sbist m) s (fun t => Changes (s.coreError s.cur.1 12 0x0D 0 0 s.cur.2 0x3F3) t
        { s.mine with engW := s.mine.engW ++ [w (1 + u * 2 ^ 64 + k * 2 ^ 128)], accs := accs, glitch := 0 } y))) ∧
  (∀ m s k x w, goes (.rcfg m) s → x < 32 → (dataOf (.rcfg m) s).v = BitVec.ofNat 64 (x + 256 * k) →
    (k, w) ∈ [(0, writeRcfga x (latch s 20).v s), (1, writeRcfgb x (latch s 20).v s)] ∨ (x < 16 ∧ (k, w) = (2, writeXcfg x (latch s 20).v s)) →
    w.1 = 0 → completes (.rcfg m) s (fun t => Changes w.2 t s.mine s.me))

/-- R195, R279, R281: a matrix command that passes its checks joins the engine's queue of 16, and changes nothing else at issue. -/
def Obligations.MatrixCommands : Prop :=
  ∀ r ∈ mxRows, ∀ f s, goesMx (r.1 f) s → mxTyped r.2 f → (f.an = true → linked s s.cur.1 0 = true) → (f.bw = true → linked s s.cur.1 3 = true) →
    mxInside s ⟨BitVec.ofNat 8 r.2, f, 0, 0⟩ → (r.2 = 7 → mxSpread s f) → s.mine.mtq.length + s.mine.mtRun.length < 16 →
    completes (r.1 f) s (fun t => Changes s t { s.mine with mtq := s.mine.mtq ++ [queued s r.2 f] } s.me)

/-- R15, R200, R222, R224: a lone S-move writes its scalar register, predicate or operand latch with its source if its guard holds (marked
where a parity error of the transport bus has struck it, R341, log 17); moves to s0 and p0 write nothing; nothing else changes. -/
def Obligations.ScalarMoves : Prop :=
  ∀ (m : Trig) (d : Nat) s, d < 0x200 → passes (soloBundle false m d) s →
    let i : Instr := .move false m (BitVec.ofNat 12 d)
    let v := hitS (s.mine.glitch == 3) (readSrcS s s.cur.1 s.cur.2 [] m.src.toNat)
    (laneOn s m 0 = false → completes i s (fun t => Frame s t)) ∧
    (laneOn s m 0 = true →
      let x : Core := { s.mine with created := s.mine.created || v.p }
      (d = 0 ∨ d = 0x40 → completes i s (fun t => Frame s t)) ∧
      (0 < d → d < 0x40 → completes i s (fun t => Changes s t x { s.me with s := mput s.me.s d v })) ∧
      (0x40 < d → d < 0xC0 → completes i s (fun t => Changes s t x { s.me with p := mput s.me.p (d - 0x40) v })) ∧
      (∀ r ∈ privPorts, d = r.1 → completes i s (fun t => Changes s t x { s.me with lat := mput s.me.lat r.2 v })) ∧
      (∀ r ∈ sharedPorts, d = r.1 → completes i s (fun t => Changes s t { x with slat := mput x.slat r.2 v } s.me)))

/-- R15, R19, R203, R226, R227, R229: a lone V-move writes the lanes its guard leaves: of a vector register, to be seen from the next cycle
on; of a vector latch; bits of a predicate; a mode latch takes lane 0. The null move writes nothing. At the end of the cycle the last value
moved to a vector register stands in it. -/
def Obligations.VectorMoves : Prop :=
  (∀ s l, s.fatal = false → s.busy = false → s.agenda = .endCycle s.cur.1 :: l →
    ∃ t, step s = .next t ∧ CoreEvent { s with agenda := l } t s.cur.1 ∧ t.mine.vwr = [] ∧
      ∀ d, readV t.mine d = match (s.mine.vwr.filter (fun e => e.1 == d)).getLast? with | some e => e.2 | none => readV s.mine d) ∧
  ∀ (m : Trig) (d : Nat) s, d < 0x800 → passes (soloBundle true m d) s →
    let i : Instr := .move true m (BitVec.ofNat 12 d)
    let v := hitV (s.mine.glitch == 3) (vValue s.mine d (readSrcV s s.cur.1 s.cur.2 m.src.toNat))
    let x : Core := { s.mine with created := s.mine.created || (List.range 64).any (fun l => laneOn s m l && v.p.getLsbD l) }
    (word m d = ⟨true, 0, 0, 0⟩ → completes i s (fun t => Frame s t)) ∧
    (word m d ≠ ⟨true, 0, 0, 0⟩ → d < 0x300 → (∀ e ∈ s.mine.vwr, e.1 ≠ d) →
      completes i s (fun t => ∃ r, Masked s m (readV s.mine d) v r ∧ Changes s t { x with vwr := s.mine.vwr ++ [(d, r)] } s.me)) ∧
    (d = 0x300 → completes i s (fun t => Frame s t)) ∧
    (0x300 < d → d < 0x380 → completes i s (fun t => ∃ r : Sc,
      (∀ l < 64, r.v.getLsbD l = if laneOn s m l then v.v.getLsbD (32 * l) else (readP s.me (d - 0x300)).v.getLsbD l) ∧
      (r.p = true ↔ (∃ l < 64, laneOn s m l = true ∧ v.p.getLsbD l = true) ∨
        ((readP s.me (d - 0x300)).p = true ∧ ∃ l < 64, laneOn s m l = false)) ∧
      Changes s t x { s.me with p := mput s.me.p (d - 0x300) r })) ∧
    (∀ q ∈ vecPorts, d = q.1 → completes i s (fun t => ∃ r, Masked s m (vlatch s q.2) v r ∧
      Changes s t { x with vlat := mput s.mine.vlat q.2 r } s.me)) ∧
    (∀ q ∈ modePorts, d = q.1 → completes i s (fun t =>
      if laneOn s m 0 then Changes s t { s.mine with created := s.mine.created || v.p.getLsbD 0,
                                                     vlat := mput s.mine.vlat q.2 ⟨(lane32 v.v 0).setWidth 2048, v.p &&& 1⟩ } s.me
      else Frame s t)) ∧
    (d = 0x40F → completes i s (fun t => ∃ r, Masked s m (mget Vc.zero s.me.vlat 0) v r ∧
      Changes s t x { s.me with vlat := mput s.me.vlat 0 r }))

/-- R16, R202, R341: every move of a bundle reads its source and its guard in the state before the bundle, and a trigger sees the operand
latches as the bundle writes them, in whichever order the two moves stand. A parity error of the transport bus poisons the value of one
move, the first that carries one (that it is the first is the model's choice, log 17). -/
def Obligations.BundlesTakeEffectAtOnce : Prop :=
  (∀ b s, passes b s → onlyS b → s.mine.glitch ≠ 3 → (∀ m ∈ b.sm, m.dst.toNat < 0x40) →
    completes (.bundleIssue b) s (fun t =>
      let p := b.sm.any (fun m => m.dst != 0 && guardBit s.me m && (readSrcS s s.cur.1 s.cur.2 b.lits m.src.toNat).p)
      Changes s t { s.mine with created := s.mine.created || p } { s.me with s := t.me.s } ∧
      ∀ n, 0 < n → n < 0x40 →
      (∀ m ∈ b.sm, m.dst.toNat = n → guardBit s.me m = true → readS t.me n = readSrcS s s.cur.1 s.cur.2 b.lits m.src.toNat) ∧
      ((∀ m ∈ b.sm, m.dst.toNat = n → guardBit s.me m = false) → readS t.me n = readS s.me n))) ∧
  (∀ b s m n, passes b s → onlyS b → s.mine.glitch ≠ 3 → (b.sm = [m, n] ∨ b.sm = [n, m]) → m.dst = 0x100 → n.dst = 0x200 →
    guardBit s.me m = true → guardBit s.me n = true → room s (some (.ps 3)) (tm s + 1) →
    completes (.bundleIssue b) s (fun t =>
      let v := readSrcS s s.cur.1 s.cur.2 b.lits m.src.toNat
      let w := readSrcS s s.cur.1 s.cur.2 b.lits n.src.toNat
      Changes s t { s.mine with created := s.mine.created || v.p } { startedBrush s (Flight.done s.cur.2 0x200 false (tm s) (tm s + 1) (some (.ps 3)) w.v (scVc ⟨v.v + w.v, v.p || w.p⟩) 0)
        with lat := mput s.me.lat 0 v })) ∧
  (∀ b s m l, passes b s → onlyS b → s.mine.glitch = 3 → b.sm = m :: l → guardBit s.me m = true → (∀ n ∈ b.sm, 0 < n.dst.toNat ∧ n.dst.toNat < 0x40) →
    completes (.bundleIssue b) s (fun t =>
      Changes s t { s.mine with created := true } { s.me with s := t.me.s } ∧
      readS t.me m.dst.toNat = ⟨(readSrcS s s.cur.1 s.cur.2 b.lits m.src.toNat).v, true⟩ ∧
      ∀ n ∈ l, guardBit s.me n = true → readS t.me n.dst.toNat = readSrcS s s.cur.1 s.cur.2 b.lits n.src.toNat))

/-- R18, R243, R245: after a bundle with Wait n its brush's next bundle issues in t + 1 + n: the delay bundle of a transfer, then its target;
at the end of a loop its start again while passes are left; else the next bundle of the store. -/
def Obligations.BundleSequence : Prop :=
  ∀ sync wait check s,
    let i : Instr := .idleBundle sync wait check
    passes { sync := sync, wait := wait, check := check, sm := [], vm := [], mx := none, lits := [] } s →
    let goesOn (pc : Nat) (x : Option Xfer) (l : List LoopE) : Prop := completes i s (fun t =>
      Frame s t ∧ t.me.nextAt = tm s + 1 + wait.toNat ∧ t.me.pc = pc ∧ t.me.xfer = x ∧ t.me.loops = l)
    (∀ z, s.me.xfer = some z → goesOn (if z.dly ≤ 1 then z.tgt else s.me.pc + 1) (if z.dly ≤ 1 then none else some ⟨z.tgt, z.dly - 1⟩) s.me.loops) ∧
    (s.me.xfer = none → noEnd s → goesOn (s.me.pc + 1) none s.me.loops) ∧
    (∀ l r, s.me.loops = l :: r → l.last = s.me.pc →
      (1 < l.rem → goesOn l.start none (⟨l.start, l.last, l.rem - 1⟩ :: r)) ∧
      (l.rem ≤ 1 → (∀ l' r', r = l' :: r' → l'.last ≠ s.me.pc) → goesOn (s.me.pc + 1) none r))

/-- R15: a trigger of either space whose guard is false in bit 0 has no effect. -/
def Obligations.GuardedTriggers : Prop :=
  ∀ i v m c s, trigOf i = some (v, m, c) → passes (soloBundle v m c) s → laneOn s m 0 = false → completes i s (fun t => Frame s t)

/-- R204, R246, R303, R312: a bundle that fails a check made before its moves has none of its effects: its brush takes the trap. With user
privilege the triggers of SYS, and tret, so take privileged operation (0x17) with their code in detail word 0. -/
def Obligations.TrappedBundles : Prop :=
  (∀ i b s t, bundleOf i = some b → bundleTrap (issOf b s) b s = some t →
    exec i s = .next (takeTrap s.cur.1 s.cur.2 t (gangOf s s.cur.1 s.cur.2) s.started)) ∧
  (∀ r ∈ [(Instr.ctxsv, 0x3F0), (.ctxld, 0x3F1), (.mckr, 0x3F2), (.sbist, 0x3F3), (.rcfg, 0x3F4), (.tret, 0x329)], ∀ m s,
    readable m r.2 → s.me.sys = false →
    exec (r.1 m) s = .next (trapEntry s.cur.1 s.cur.2 ⟨0x17, BitVec.ofNat 64 r.2, 0, 0, 0, false, 0⟩ (gangOf s s.cur.1 s.cur.2) s.started))

/-- R33, R36, R222: a user's scratchpad access is relocated by its segment, whose chain region refuses writes; a system access is not; an
address above the 36 bits is a segment trap; s0 reads 0 and p0 all ones, and neither is written. -/
def Obligations.AddressesAndConstants : Prop :=
  (∀ s c b cl wr (a : Word) n code, 0 < n → a.toNat + n ≤ 0x400000 →
    let x := s.core c
    ((s.brush c b).sys = true → checkAddr s c b cl wr a n code = .ok (.scratch, a.toNat)) ∧
    ((s.brush c b).sys = false → a.toNat + n ≤ (if wr then SEGSP_SIZE x - SEGSP_CHAIN x else SEGSP_SIZE x) * 64 →
      checkAddr s c b cl wr a n code = .ok (.scratch, SEGSP_BASE x * 64 + a.toNat)) ∧
    ((s.brush c b).sys = false → (if wr then SEGSP_SIZE x - SEGSP_CHAIN x else SEGSP_SIZE x) * 64 < a.toNat + n →
      checkAddr s c b cl wr a n code = .error ⟨0x0A, a, BitVec.ofNat 64 (n % 65536 + code * 65536), 5, 0, false, 0⟩)) ∧
  (∀ s c b cl wr (a : Word) n code, 2 ^ 36 ≤ a.toNat →
    checkAddr s c b cl wr a n code = .error ⟨0x0A, a, BitVec.ofNat 64 (n % 65536 + code * 65536), 2, 0, false, 0⟩) ∧
  (∀ y v, readS y 0 = ⟨0, false⟩ ∧ readP y 0 = ⟨0xFFFFFFFFFFFFFFFF, false⟩ ∧ writeS y 0 v = y ∧ writeP y 0 v = y)

/-- A step runs the instruction whose words stand at the program counter of the brush whose turn it is, where they may be fetched; between
bundles it runs the event next on the agenda; a device stopped by a fatal error has no step but a reset or power good (R65, R337). -/
def Obligations.WhatAStepRuns : Prop :=
  (∀ s i n, s.fatal = false → s.busy = true →
    let len := headerWords (s.mine.iword s.cur.2 s.me.pc).w
    fetchTrap s.mine s.cur.2 s.me.pc len = none → s.mine.ecc = [] →
    decode ((List.range len).map (fun j => (s.mine.iword s.cur.2 (s.me.pc + j)).w)) = .ok (i, n) → step s = exec i s) ∧
  (∀ s a i l, s.fatal = false → s.busy = false → s.agenda = .ev a i :: l → step s = exec i { s with agenda := l, here := a }) ∧
  (∀ s, s.fatal = true → (∀ e ∈ s.inputs, e.2.2 ≠ .reset ∧ ∀ fw, e.2.2 ≠ .powerGood fw) → ∀ t, step s ≠ .next t)

/-- No instruction and no event is refused or faults: each answers a next state, in every state. -/
def Obligations.EveryInstructionAnswers : Prop := ∀ i s, ∃ t, exec i s = .next t

/-- R197 to R207: decoding the words of a well-formed instruction gives it back, with every operand, whatever words follow. -/
def Obligations.EncodingRoundTrip : Prop :=
  ∀ i rest, wellFormed i = true → (bundleOf i).isSome = true → decode (encode i ++ rest) = .ok (i, (encode i).length)

/-- Words written out from the encodings of R197, R200 and R205 decode to what they stand for, and bad headers are illegal bundles by
reason. -/
def Obligations.DecodedWords : Prop :=
  decode [0x00000000] = .ok (.idleBundle false 0 false, 1) ∧
  decode [0x20000000, 0x00007200] = .ok (.add ⟨false, 0, 0x007⟩ false, 2) ∧
  decode [0x20000000, 0x870072E6] = .ok (.ldd ⟨true, 7, 0x007⟩, 2) ∧
  decode [0x10000000, 0x00005880, 0x80000000, 0x80000000] = .ok (.vadd ⟨false, 0, 0x005⟩ true, 4) ∧
  (∀ r < 16, 0 < r → decode [BitVec.ofNat 32 r] = .error (.illegalBundle 1 (BitVec.ofNat 32 r))) ∧
  decode [0xE0000000] = .error (.illegalBundle 2 0xE0000000) ∧ decode [0x06000000] = .error (.illegalBundle 3 0x06000000)

/-- R23, R99, R359: after reset nothing runs, no core holds a context, every memory is in canonical form and lists nothing (that brushes are
halted and memories list nothing is the model's choice, log 1, 2). -/
def Obligations.AfterReset : Prop :=
  State.reset.memOk = true ∧ State.reset.live = true ∧ State.reset.stage = 0 ∧ State.reset.panels = [] ∧ State.reset.sittings = [] ∧
  (∀ c, (State.reset.core c).mem = [] ∧ (State.reset.core c).vault = [] ∧ (State.reset.core c).memOk = true ∧
    ∀ b, ((State.reset.core c).brush b).run = .halted ∧ ((State.reset.core c).brush b).wired = true)

/-- R5, R76: the memory of every core, its vault and their poison marks, its saved contexts and host memory stay in canonical form through
every step. -/
def Obligations.MemoryStaysCanonical : Prop := ∀ s t, s.memOk = true → step s = .next t → t.memOk = true

/-- R231, R268: results due in the present cycle stand in their latches, the scales of a vmxq in VX.ys, raise their flags and leave their
brushes' operations; every other latch and register is as before (no residue error placed, log 17). -/
def Obligations.ResultsComplete : Prop :=
  ∀ s, (at_ s).glitch ≠ 1 → (∀ b < 4, ∀ f ∈ ((at_ s).brush b).flights, ∀ g ∈ ((at_ s).brush b).flights, f.seq = g.seq → f = g) →
    completes .resultComplete s (fun t => CoreEvent s t s.here ∧
      (∀ b < 4,
        let y := (at_ s).brush b
        let z := t.brush s.here b
        (∀ f, f ∈ z.flights ↔ f ∈ y.flights ∧ ¬ ready s f) ∧ z.s = y.s ∧ z.p = y.p ∧ z.run = y.run ∧ z.pc = y.pc ∧
        (∀ k < 5, z.flags.getLsbD k = true ↔ y.flags.getLsbD k = true ∨ ∃ f, delivered s b f ∧ f.flags.getLsbD k = true) ∧
        (∀ n, (∀ f, delivered s b f → f.dst ≠ some (.ps n)) → pLat t s.here b n = pLat s s.here b n) ∧
        (∀ n f, delivered s b f → f.dst = some (.ps n) → (∀ g, delivered s b g → g.dst = some (.ps n) → g = f) →
          pLat t s.here b n = vcSc f.res) ∧
        (∀ n, (∀ f, delivered s b f → f.dst ≠ some (.pv n)) → mget Vc.zero z.vlat n = mget Vc.zero y.vlat n) ∧
        (∀ n f, delivered s b f → f.dst = some (.pv n) → (∀ g, delivered s b g → g.dst = some (.pv n) → g = f) → mget Vc.zero z.vlat n = f.res)) ∧
      (∀ n, (∀ b < 4, ∀ f, delivered s b f → f.dst ≠ some (.ss n)) → sLat t s.here n = sLat s s.here n) ∧
      (∀ n b f, b < 4 → delivered s b f → f.dst = some (.ss n) → (∀ j < 4, ∀ g, delivered s j g → g.dst = some (.ss n) → g = f) →
        sLat t s.here n = vcSc f.res) ∧
      (∀ n b f, n ≠ 16 → b < 4 → delivered s b f → f.dst = some (.vs n) → (∀ j < 4, ∀ g, delivered s j g → g.dst = some (.vs n) → g = f) →
        vLat t s.here n = f.res) ∧
      (∀ n, (∀ b < 4, ∀ f, delivered s b f → f.dst ≠ some (.vs n) ∧ (n = 16 → f.wys = false)) → vLat t s.here n = vLat s s.here n) ∧
      (∀ b f, b < 4 → delivered s b f → f.wys = true → (∀ j < 4, ∀ g, delivered s j g → g.wys = true ∨ g.dst = some (.vs 16) → g = f) →
        vLat t s.here 16 = ⟨f.ys.setWidth 2048, if f.ysP then 1 else 0⟩) ∧
      (t.core s.here).mem = (at_ s).mem ∧ (t.core s.here).vault = (at_ s).vault ∧ (t.core s.here).v = (at_ s).v)

/-- R26, R27, R49, R58, R59, R63, R68, R124, R238, R240, R241, R272 to R274: the access of a load, a store, an atomic or an indexed lane that
falls in the present cycle, where it is the core's only work; a vault line's commit. A scalar load delivers the bytes found then, extended; a
vector load's bytes stand in its vector, which vldw widens once all have been read. Only the bytes named change. -/
def Obligations.AccessesPerformed : Prop :=
  (∀ s l b f q, ∀ r ∈ loadRows, ∀ m, banksNext s l → Alone s b f → f.store = false → f.vsp = false → f.code = codeOf (r.1 m) → f.pieces = [q] →
    q.cyc = now_ s → q.n = r.2.1 → q.sp ≠ .window →
    ∃ v p, v < 256 ^ q.n ∧ (∀ j < q.n, v / 256 ^ j % 256 = seenByte s f q j) ∧ (p = true ↔ ∃ k, seenPois s q k) ∧
      readsTo s l b { f with pieces := [], res := scVc ⟨r.2.2 (BitVec.ofNat 64 v), p⟩ }) ∧
  (∀ s l b f, banksNext s l → Alone s b f → f.store = false → f.vsp = false → f.code = 0x3B0 ∨ f.code = 0x3B4 ∨ f.code = 0x3B6 → wellPieced f →
    (∀ q ∈ f.pieces, q.sp ≠ .window) → duePieces s f ≠ [] →
    ∃ r, ReadInto s f r ∧ readsTo s l b { f with
      pieces := laterPieces s f
      res := if f.code = 0x3B6 ∧ laterPieces s f = [] then widen (f.idx.v.toNat / 2 ^ 32 % 256) (f.idx.v.getLsbD 40) r else r }) ∧
  (∀ s b f, Alone s b f → f.store = true → f.vsp = false → f.code = 0x3B1 ∨ f.code = 0x3B5 → duePieces s f ≠ [] → (∀ q ∈ f.pieces, q.sp = .scratch) →
    completes .scratchpadWrite s (fun t => CoreEvent s t s.here ∧ (t.core s.here).vault = (at_ s).vault ∧
      (t.brush s.here b).flights = [{ f with pieces := laterPieces s f }] ∧
      ∀ x, rdByte (t.core s.here).mem x = match ((duePieces s f).filter (fun q => decide (q.addr ≤ x ∧ x < q.addr + q.n))).getLast? with
        | some q => BitVec.ofNat 8 (vbyte f.src.v (q.off + (x - q.addr)))
        | none => rdByte (at_ s).mem x)) ∧
  (∀ s b f q, Alone s b f → f.store = true → f.vsp = false → f.code = 0x3B1 ∨ f.code = 0x3B5 → duePieces s f = [q] → q.sp = .vault → q.n ≤ 64 →
    completes .scratchpadWrite s (fun t => CoreEvent s t s.here ∧ (t.core s.here).vault = (at_ s).vault ∧ (t.core s.here).mem = (at_ s).mem ∧
      (t.brush s.here b).flights = [{ f with pieces := laterPieces s f }] ∧
      ∃ e, (t.core s.here).vpend = (at_ s).vpend ++ [e] ∧ e.cyc = now_ s + 24 ∧ e.brush = f.brush ∧ e.addr = q.addr ∧ e.n = q.n ∧ e.land = none ∧
        (∀ j < q.n, vbyte e.data j = vbyte f.src.v (q.off + j)) ∧ ∀ k < (q.n + 3) / 4, e.pois.getLsbD k = f.src.p.getLsbD (q.off / 4 + k))) ∧
  (∀ s b f q, Alone s b f → f.store = true → f.vsp = false → 0x2E7 ≤ f.code → f.code ≤ 0x2EA → f.pieces = [q] → q.cyc = now_ s → q.sp = .view →
    completes .scratchpadWrite s (fun t => CoreEvent s t s.here ∧ (t.core s.here).mem = (at_ s).mem ∧ (t.brush s.here b).flights = [{ f with pieces := [] }] ∧
      ∀ d w, d < 4 → w < 16384 → ((t.core s.here).iword d w).code = ((at_ s).iword d w).code ∧
        ∀ k < 4, (((t.core s.here).iword d w).w.toNat / 256 ^ k % 256 =
          let a := d * 0x10000 + 4 * w + k
          if q.addr ≤ a ∧ a < q.addr + q.n then vbyte f.src.v (q.off + (a - q.addr)) else ((at_ s).iword d w).w.toNat / 256 ^ k % 256))) ∧
  (∀ s b f i, Alone s b f → f.store = true → isIdxCode f = false → f.pieces ≠ [] →
    (∀ q ∈ f.pieces, q.cyc = now_ s ∧ q.sp = .stream ∧ 0x8000 ≤ q.addr ∧ q.addr % 0x1000 + q.n ≤ 0x1000 ∧
      s.crossing (regionOf s.here) ((q.addr - 0x8000) / 0x1000) = some (i, true)) → (s.xing i).openI < (s.xing i).frames.length →
    completes .scratchpadWrite s (fun t => (t.core s.here).mem = (at_ s).mem ∧ (∀ d, d ≠ s.here → t.core d = s.core d) ∧
      (t.brush s.here b).flights = [{ f with pieces := [] }] ∧ (∀ j, j ≠ i → t.xing j = s.xing j) ∧
      t.xing i = { s.xing i with frames := (t.xing i).frames } ∧
      ∀ n k, ((t.xing i).frames.getD n []).getD k 0 =
        match (f.pieces.filter (fun q => decide (n = (s.xing i).openI ∧ q.addr % 0x1000 ≤ k ∧ k < q.addr % 0x1000 + q.n))).getLast? with
        | some q => BitVec.ofNat 8 (vbyte f.src.v (q.off + (k - q.addr % 0x1000)))
        | none => ((s.xing i).frames.getD n []).getD k 0)) ∧
  (∀ s b f q, Alone s b f → f.store = true → f.vsp = false → 0x2E7 ≤ f.code → f.code ≤ 0x2EA → f.pieces = [q] → q.cyc = now_ s → q.sp = .scratch →
    completes .scratchpadWrite s (fun t => CoreEvent s t s.here ∧ Wrote (at_ s).mem (t.core s.here).mem q.addr q.n (f.src.v.toNat / 256 ^ q.off) ∧
      (t.brush s.here b).flights = [{ f with pieces := [] }] ∧ (t.core s.here).vault = (at_ s).vault)) ∧
  (∀ s b f k w (wide : Bool), Alone s b f → f.store = false → f.vsp = false → (atomNew (if wide then 64 else 32))[k]? = some w →
    f.code = k + (if wide then 0x390 else 0x380) → f.slots = [(now_ s, 0)] →
    let n := if wide then 8 else 4
    let a := f.d.toNat + f.base
    let m := rdBytes (at_ s).mem a n
    completes .rmwSlot s (fun t => CoreEvent s t s.here ∧ (t.core s.here).mem = (at_ s).mem ∧
      (∃ p, (t.core s.here).rmwW =
        [⟨now_ s + 2, a, n, BitVec.ofNat 64 (w m (f.src.v.toNat % 256 ^ n) (f.src.v.toNat / 2 ^ 64 % 256 ^ n)), p, b, f.seq⟩]) ∧
      ∃ r, (t.brush s.here b).flights = [{ f with slots := [], res := r }] ∧ r.v.toNat % 256 ^ n = m)) ∧
  (∀ s b f k w c l, Alone s b f → f.store = false → f.vsp = true → (k, c) ∈ [(0, 0x9C0), (2, 0x9C1), (5, 0x9C2), (4, 0x9C3)] →
    (atomNew 32)[k]? = some w → f.code = c → f.slots.filter (fun e => e.1 == now_ s) = [(now_ s, l)] → l < 64 →
    let a := (lane32 f.idx.v l).toNat + f.base
    let m := rdBytes (at_ s).mem a 4
    completes .rmwSlot s (fun t => CoreEvent s t s.here ∧ (t.core s.here).mem = (at_ s).mem ∧
      (∃ p, (t.core s.here).rmwW = [⟨now_ s + 2, a, 4, BitVec.ofNat 64 (w m (lane32 f.src.v l).toNat 0), p, b, f.seq⟩]) ∧
      ∃ r, (t.brush s.here b).flights = [{ f with slots := f.slots.filter (fun e => e.1 != now_ s), res := r }] ∧
        ∀ j < 64, lane32 r.v j = if j = l then BitVec.ofNat 32 m else lane32 f.res.v j)) ∧
  (∀ s b f q l, Alone s b f → f.store = false → f.vsp = false → f.code = 0x3B2 → f.pieces = [q] → q.cyc = now_ s → q.sp = .scratch → q.n = 4 →
    q.off = 4 * l → l < 64 → (at_ s).wrote ≠ some (now_ s) →
    completes .indexedLane s (fun t => CoreEvent s t s.here ∧ (t.core s.here).mem = (at_ s).mem ∧
      ∃ r, (t.brush s.here b).flights = [{ f with pieces := [], res := r }] ∧
        ∀ j < 64, lane32 r.v j = if j = l then BitVec.ofNat 32 (rdBytes (at_ s).mem q.addr 4) else lane32 f.res.v j)) ∧
  (∀ s b f q, Alone s b f → f.store = true → f.vsp = false → f.code = 0x3B3 → f.pieces = [q] → q.cyc = now_ s → q.sp = .scratch →
    (at_ s).wrote = some (now_ s) →
    completes .indexedLane s (fun t => CoreEvent s t s.here ∧ Wrote (at_ s).mem (t.core s.here).mem q.addr q.n (f.src.v.toNat / 256 ^ q.off))) ∧
  (∀ s e, (at_ s).vpend = [e] → e.cyc ≤ now_ s → e.land = none → (at_ s).undoOn = false →
    completes .vaultCommit s (fun t => CoreEvent s t s.here ∧ (t.core s.here).vpend = [] ∧ (t.core s.here).mem = (at_ s).mem ∧
      Wrote (at_ s).vault (t.core s.here).vault e.addr e.n e.data.toNat))

/-- R46, R69, R74, R75, R351: reserved slots, the host's vault writes through the buffer, held at the link behind a full one, and its reads;
pulls of records that lie in a vault; a row's repair. (Cores of no time-sliced pair.) The model's own choices: a read on a core without a
sitting is served at once (log 59); a row is repaired one line in each host slot without a read or a pull, and at once on a core without a
sitting (log 80); the scrub takes latent errors in ascending order of their units (log 82). -/
def Obligations.HostVaultEvents : Prop :=
  (∀ s, slotKind s s.here (now_ s) ≠ some 0 → exec .refreshSlot s = .next s) ∧
  (∀ s u, s.pairOf s.here = none → slotKind s s.here (now_ s) = some 0 → u < 2 ^ 40 → (at_ s).ecc = [(2 ^ 40 + u, 1)] →
    let row := u * 16 / Config.rowBytes
    completes .refreshSlot s (fun t => t.core s.here = { at_ s with ecc := [], rowErrs := mput (at_ s).rowErrs row (mget 0 (at_ s).rowErrs row + 1) } ∧
      (t.repairs = if mget 0 (at_ s).rowErrs row < 3 ∨ ∃ r ∈ s.repairs, r.1 = s.here ∧ r.2.1 = row then s.repairs
        else s.repairs ++ [(s.here, row, Config.rowBytes / 64)]) ∧
      ∀ d, d ≠ s.here → t.core d = s.core d)) ∧
  (∀ s off n, s.pairOf s.here = none → slotKind s s.here (now_ s) = some 1 →
    s.hostReqs.find? (fun r => s.hostOf (r.1 / Config.vaultBytes) == s.here) = some (off, n) →
    (at_ s).ecc = [] → off % Config.vaultBytes + n ≤ Config.ctxBase →
    completes .hostSlot s (fun t => t.cores = s.cores ∧ t.hostReqs = s.hostReqs.erase (off, n) ∧ t.hostRead.length = n ∧
      ∀ i < n, t.hostRead[i]? = some (rdByte (at_ s).vault (off % Config.vaultBytes + i)))) ∧
  (∀ s row left, s.pairOf s.here = none → slotKind s s.here (now_ s) = some 1 →
    s.hostReqs.find? (fun r => s.hostOf (r.1 / Config.vaultBytes) == s.here) = none → s.repairs.find? (fun r => r.1 == s.here) = some (s.here, row, left) →
    (at_ s).ecc = [] → s.pulls = [] →
    (1 < left → exec .hostSlot s = .next { s with repairs := s.repairs.map (fun q => if q = (s.here, row, left) then (s.here, row, left - 1) else q) }) ∧
    (left = 1 → completes .hostSlot s (fun t => t.repairs = s.repairs.erase (s.here, row, left) ∧ t.core s.here = at_ s))) ∧
  (∀ s q, s.pairOf s.here = none → slotKind s s.here (now_ s) = some 1 →
    s.hostReqs.find? (fun r => s.hostOf (r.1 / Config.vaultBytes) == s.here) = none → s.pulls = [q] → pullSlot s q = some s.here → canPull s q = true →
    completes .hostSlot s (fun t => Pulls s t q)) ∧
  (∀ s h l, (at_ s).hbuf = h :: l → s.pairOf s.here = none → s.sittingOf s.here = none → (at_ s).undoOn = false →
    completes .hostBufferCommit s (fun t => CoreEvent s t s.here ∧ (t.core s.here).hbuf = l ∧ (t.core s.here).mem = (at_ s).mem ∧
      ∀ x, rdByte (t.core s.here).vault x =
        if x / 64 = h.line ∧ h.mask.getLsbD (x % 64) = true then BitVec.ofNat 8 (h.data.toNat / 256 ^ (x % 64)) else rdByte (at_ s).vault x)) ∧
  (∀ s (off : Nat) (bs : List (BitVec 8)) c, bs ≠ [] → c < 1024 → off / Config.vaultBytes = c → off / 64 = (off + bs.length - 1) / 64 →
    off % Config.vaultBytes < Config.ctxBase → panelOf c ∈ s.panels → s.pairOf c = none →
    ∃ h : HostLine, h.line = off % Config.vaultBytes / 64 ∧
      (∀ j < 64, h.mask.getLsbD j = true ↔ off % 64 ≤ j ∧ j < off % 64 + bs.length) ∧
      (∀ j < bs.length, h.data.toNat / 256 ^ (off % 64 + j) % 256 = (bs.getD j 0).toNat) ∧
      ((∀ k ∈ (s.core c).hbuf, k.line ≠ h.line) → (s.core c).hbuf.length < 256 → (∀ k ∈ s.hostHeld, k.1 ≠ c) →
        completes (.hostVaultWrite off bs) s (fun t => CoreEvent s t c ∧ t.core c = { s.core c with hbuf := (s.core c).hbuf ++ [h] })) ∧
      (256 ≤ (s.core c).hbuf.length ∨ (∃ k ∈ s.hostHeld, k.1 = c) →
        exec (.hostVaultWrite off bs) s = .next { s with hostHeld := s.hostHeld ++ [(c, h)] })) ∧
  (∀ s off n c, off / Config.vaultBytes = c → off + n ≤ Config.cores * Config.vaultBytes → panelOf c ∈ s.panels → panelOf c ∉ s.asleep →
    s.rsrc (regionOf c) ≠ 0 → (s.region (regionOf c)).stopped = false →
    (s.sittingOf c ≠ none → exec (.hostVaultRead off n) s = .next { s with hostReqs := s.hostReqs ++ [(off, n)] }) ∧
    (s.sittingOf c = none → s.pairOf c = none → (s.core c).ecc = [] → off % Config.vaultBytes + n ≤ Config.ctxBase →
      completes (.hostVaultRead off n) s (fun t => t.cores = s.cores ∧ t.hostRead.length = n ∧
        ∀ i < n, t.hostRead[i]? = some (rdByte (s.core c).vault (off % Config.vaultBytes + i))))) ∧
  (∀ s c row, s.pairOf c = none →
    (s.sittingOf c ≠ none → exec (.vaultRowRepair c row) s = .next { s with repairs := s.repairs ++ [(c, row, Config.rowBytes / 64)] }) ∧
    (s.sittingOf c = none → completes (.vaultRowRepair c row) s (fun t => (∀ d, d ≠ c → t.core d = s.core d) ∧
      (t.core c).vault = (s.core c).vault ∧ (t.core c).mem = (s.core c).mem ∧
      ∀ e ∈ (t.core c).ecc, e ∈ (s.core c).ecc ∧
        ¬ (2 ^ 40 + row * Config.rowBytes / 16 ≤ e.1 ∧ e.1 < 2 ^ 40 + (row + 1) * Config.rowBytes / 16))))

/-- R18, R91, R120, R128, R133, R164, R166, R169, R175, R300, R312: what happens at its own time in a core's cycle. A brush whose condition holds
goes on, a semaphore counting down for it; one whose does not, waits on. The model's own readings: a brush arrives in the cycle after its last
access is performed, and what a halted brush leaves is drained with the core's tracker (log 47); a transfer of ownership stands at the end of
the first cycle in which its unit is done (log 25). -/
def Obligations.CoreCycleEvents : Prop :=
  (∀ s b w, s.frozen s.here = false → b < 4 → (∀ j < 4, j ≠ b → ∀ v, ((at_ s).brush j).run ≠ .waiting v) → ((at_ s).brush b).run = .waiting w →
    (∀ q, w ≠ .gang q) → ((at_ s).brush b).resumeAt ≤ now_ s → (∀ a v, w = .mem a v → (at_ s).ecc = []) →
    (¬ metBy s b w → exec .waitEnd s = .next s) ∧
    (metBy s b w → completes .waitEnd s (fun t => CoreEvent s t s.here ∧ t.brush s.here b = { (at_ s).brush b with run := .running } ∧
      (∀ j < 4, j ≠ b → t.brush s.here j = (at_ s).brush j) ∧
      ∀ n, mget 0 (t.core s.here).sems n = mget 0 (at_ s).sems n - if w = .sem n then 1 else 0))) ∧
  (∀ s r, (at_ s).rels = [r] → r.seq ≠ 0 →
    (mayRelease (at_ s) r (now_ s) = false → exec .releaseTakesEffect s = .next s) ∧
    (mayRelease (at_ s) r (now_ s) = true → (∀ n, r.kind = .semp n → mget 0 (at_ s).sems n ≠ 0xFFFF) →
      (∀ n v, r.kind = .publish n v → s.crossing (regionOf s.here) n = none) → leaves .releaseTakesEffect s (releasedTo (at_ s) r.kind)) ∧
    (∀ n v x, mayRelease (at_ s) r (now_ s) = true → r.kind = .publish n v → s.crossing (regionOf s.here) n = some (x, true) →
      (s.xing x).putNow = none →
      completes .releaseTakesEffect s (fun t => (t.core s.here).rels = [] ∧ t.xing x = { s.xing x with putNow := some (s.here * 4 + r.brush, v) }))) ∧
  (∀ s, completes .syncIssue s (fun t => CoreEvent s t s.here ∧ t.core s.here = { at_ s with syncGo := (t.core s.here).syncGo } ∧
    ((t.core s.here).syncGo = true ↔ (at_ s).syncm ≠ 0 ∧ ∀ b < 4, (at_ s).syncm.getLsbD b = true →
      canIssue s s.here b = true ∧ isSync s s.here b = true ∧ cadHolds s s.here b = false))) ∧
  (∀ s b q xact, s.frozen s.here = false → b < 4 → (∀ j < 4, j ≠ b → ∀ v a, ((at_ s).brush j).run ≠ .waiting (.phend v a)) →
    ((at_ s).brush b).run = .waiting (.phend q xact) → (∀ m ∈ (at_ s).mtq ++ (at_ s).mtRun, m.brush ≠ b) →
    ¬ ((at_ s).lc.run = true ∧ (at_ s).lc.brush = b) →
    ((at_ s).performed b q (now_ s - 1) true = false ∨ b ∈ (at_ s).commitNow ∨ now_ s < ((at_ s).brush b).resumeAt → exec .brushArrival s = .next s) ∧
    ((at_ s).performed b q (now_ s - 1) true = true → b ∉ (at_ s).commitNow → ((at_ s).brush b).resumeAt ≤ now_ s → completes .brushArrival s (fun t => CoreEvent s t s.here ∧
      t.brush s.here b = { (at_ s).brush b with arrived := true, xact := xact, run := if xact then .waiting (.phase false) else .parked } ∧
      ∀ j < 4, j ≠ b → t.brush s.here j = (at_ s).brush j))) ∧
  (∀ s b, s.frozen s.here = false → b < 4 → (∀ j < 4, j ≠ b → ((at_ s).brush j).run ≠ .waiting .halt) → ((at_ s).brush b).run = .waiting .halt →
    (at_ s).tracker = [] → ((at_ s).brush b).flights = [] → (at_ s).rmwW = [] → (at_ s).vpend = [] → (at_ s).lc.run = false →
    (at_ s).swset = none → (at_ s).engW = [] → ((at_ s).brush b).resumeAt ≤ now_ s →
    (∀ j < 4, j = b ∨ ((at_ s).brush j).run = .halted → ((at_ s).brush j).pend = [] ∧ ((at_ s).brush j).pendNew = []) →
    (∀ m ∈ (at_ s).mtq ++ (at_ s).mtRun, m.brush ≠ b) →
    completes .retirementDrain s (fun t => CoreEvent s t s.here ∧ t.brush s.here b = { (at_ s).brush b with run := .halted, loops := [] } ∧
      (t.core s.here).tracker = (if ownerOf (at_ s).own 4 = b ∧ unitDone s s.here (now_ s) 4 = false then [⟨b, 0⟩] else []) ∧ ∀ j < 4, (t.core s.here).syncm.getLsbD j = ((at_ s).syncm.getLsbD j && decide (j ≠ b)))) ∧
  (∀ s u o m, (at_ s).moving = [(u, o, m)] → unitDone s s.here (now_ s) u = true → u ≤ 9 → o < (if u = 9 then 5 else 4) →
    completes .ownTransferComplete s (fun t => CoreEvent s t s.here ∧ (t.core s.here).moving = [] ∧
      ∀ w ≤ 9, ownerOf (t.core s.here).own w = if w = u then o else ownerOf (at_ s).own w)) ∧
  (∀ s q, (at_ s).swset = some q → q.t + 3 ≤ q.w → q.w = now_ s → q.bad = false →
    completes .swsetWrite s (fun t => CoreEvent s t s.here ∧ (t.core s.here).swset = none ∧ mget 0 (t.core s.here).desc q.n = q.image ∧
      (t.core s.here).mem = (at_ s).mem)) ∧
  (∀ s a l v, (at_ s).nbArr = [(a, l, v)] → a ≤ now_ s →
    completes .nbArrival s (fun t => CoreEvent s t s.here ∧ (t.core s.here).nbArr = [] ∧ vLat t s.here l = v ∧
      ∀ k, k ≠ l → vLat t s.here k = vLat s s.here k)) ∧
  (∀ s c b t, t.code ≠ 0x10000 → t.code ≠ 0x1A → t.code ≠ 0x0E → exec (.trapEntry c b t) s = .next (trapEntry c b t (gangOf s c b) s))

/-- R47, R74, R105, R113, R143, R153, R160, R164, R171, R345, R346, R348, R362: the phases of a domain open and end on every core of the
sittings that step with it, while their clocks run, and a compute phase once no host write waits; a budget's expiry freezes its sitting; the
undo log forces a checkpoint or is a contained error; a rollback goes back to the snapshot's phase; the driver ends a sitting with status 8.
The model's own choices: an expired exchange budget stops the chains at once and lets what they had issued be performed (log 50); an undo log
that is full ends the task at once with status (7,2) (log 51); a rollback is of one sitting and takes its domain's phase counter with it
(log 52); the MSI vector 64 (log 74); a sitting placed in a domain that holds none is launched with its first compute phase (log 105). -/
def Obligations.PhaseEvents : Prop :=
  (∀ s, (s.domain s.here).exch = false → (s.domain s.here).closing = 0 → (steps s s.here).Nodup → (∀ c ∈ steps s s.here, coreArrived (s.core c) = true) →
    (∀ c ∈ steps s s.here, (s.region (regionOf c)).stopped = false) →
    completes .exchangePhaseOpen s (fun t => (t.domain s.here).exch = true ∧ (t.domain s.here).openF = s.now ∧ (t.domain s.here).n = (s.domain s.here).n ∧
      (∀ c, c ∉ steps s s.here → t.core c = s.core c) ∧
      ∀ c ∈ steps s s.here, (t.core c).x0 = s.cyc c + 1 ∧ (t.core c).armed = none ∧
        (∀ b < 4, (s.brush c b).run = .waiting (.phase false) → (t.brush c b).run = .running ∧ s.cyc c + 1 ≤ (t.brush c b).nextAt) ∧
        (∀ a p, (s.core c).armed = some (a, p) → (s.core c).alive ≠ [] →
          (t.core c).xc.run = true ∧ (t.core c).xc.ptr = a ∧ (t.core c).xc.snap = p ∧ (t.core c).xc.fetchAt = some (s.cyc c + 3)))) ∧
  (∀ s, (∃ c ∈ steps s s.here, (s.region (regionOf c)).stopped = true) → exec .exchangePhaseOpen s = .next s) ∧
  (∀ s, completes .exchangePhaseEnd s (fun t => (t.domain s.here).closing = 1 ∧
      (t.domain s.here).nextF = some (s.now + 1) ∧
      ∀ c ∈ steps s s.here, (t.core c).landedFrom = [] ∧
        ((∀ e ∈ (s.core c).lands, match e.2.target with | none => e.2.arr.getD (tagOf s c) 0 = 0 | some v => e.2.arr.getD (tagOf s c) 0 = v) →
          (t.core c).xfaults = (s.core c).xfaults))) ∧
  (∀ s z c, s.here = 4096 + c → s.sittingOf c = some z → (∀ d ∈ z.cores, s.second d = false) →
    (mayOpen s z.cores → completes .computePhaseOpen s (fun t =>
      (∃ w, t.sittingOf c = some w ∧ w.frozen = false ∧ w.openAt = none) ∧ ∀ d ∈ z.cores, Opens s t d)) ∧
    (¬ mayOpen s z.cores → exec .computePhaseOpen s = .next s)) ∧
  (∀ s, s.here < 4096 → (s.domain s.here).closing = 2 → s.offPend = false → s.newcomers s.here = [] → (∀ c ∈ steps s s.here, s.second c = false) →
    (mayOpen s (steps s s.here) → completes .computePhaseOpen s (fun t => (t.domain s.here).n = (s.domain s.here).n + 1 ∧ (t.domain s.here).exch = false ∧
      (t.domain s.here).closing = 0 ∧ (∀ c ∈ steps s s.here, Opens s t c) ∧
      (∀ g < 32, s.domainOf g = s.here → (t.region g).effA = (s.region g).a ∧ (t.region g).effB = (s.region g).b) ∧
      (s.wholeIn s.here = true → t.debugPend = [] ∧ t.capPend = none ∧ t.powerCapped = s.capPend.getD s.powerCapped ∧
        t.debug = (match s.debugPend.getLast? with | some e => e.1 | none => s.debug)))) ∧
    (¬ mayOpen s (steps s s.here) → exec .computePhaseOpen s = .next s)) ∧
  (∀ s z, s.here < 4096 → (s.domain s.here).closing = 3 → s.offPend = false → s.stepping s.here = [] → s.newcomers s.here = [z] → z.ckpt = 0 →
    z.cores ≠ [] → (∀ c ∈ z.cores, s.second c = false) → mayOpen s z.cores →
    completes .computePhaseOpen s (fun t => (t.domain s.here).n = (s.domain s.here).n ∧ (∀ c ∈ z.cores, Opens s t c) ∧
      ∃ w, t.sittingOf (z.cores.headD 0) = some w ∧ w.launched = true)) ∧
  (∀ s, s.here < 4096 → (s.domain s.here).closing = 1 → mayOpen s (steps s s.here) →
    completes .computePhaseOpen s (fun t => (t.domain s.here).n = (s.domain s.here).n ∧ (t.domain s.here).closing = 2 ∧
      (multiPart s s.here = true → (t.domain s.here).nextF = none) ∧
      (multiPart s s.here = false → ∃ f, (t.domain s.here).nextF = some f ∧ s.now + 16 ≤ f))) ∧
  (∀ s z, s.sittingOf s.here = some z → s.exch s.here = false →
    completes .budgetExpiry s (fun t => t.sittingOf s.here = some { z with frozen := true, status := z.status.orElse (fun _ => some (6, 0)) } ∧
      (∀ c, c ∉ z.cores → t.core c = s.core c) ∧ ∀ c ∈ z.cores, t.core c = { s.core c with xc := (t.core c).xc })) ∧
  (∀ s z, s.sittingOf s.here = some z → s.exch s.here = true →
    completes .budgetExpiry s (fun t => t.sittingOf s.here = some { z with frozen := true, expiry := true } ∧
      (∀ c, c ∉ z.cores → t.core c = s.core c) ∧
      ∀ c ∈ z.cores, t.core c = { s.core c with xc := (t.core c).xc, xfaults := (t.core c).xfaults } ∧
        ((t.core c).xc.ended = false → (t.core c).xc.fetchAt = none ∧ (t.core c).xc.ready = [] ∧
          ∀ o ∈ (t.core c).xc.ops, o ∈ (s.core c).xc.ops ∧ o.rd ≤ s.cyc c + 2))) ∧
  (∀ s z, s.sittingOf s.here = some z →
    completes .undoLogThreshold s (fun t => t.cores = s.cores ∧ t.sittingOf s.here = some { z with ckForce := true })) ∧
  (∀ s z, s.sittingOf s.here = some z →
    completes .undoLogOverflow s (fun t => t.cores = s.cores ∧ t.msi = s.msi ++ [64] ∧
      t.sittingOf s.here = some { z with contained := z.contained + 1, status := z.status.orElse (fun _ => some (7, 2)) })) ∧
  (∀ s z, s.sittingOf s.here = some z → z.status = none → (∀ c ∈ z.cores, (s.core c).undoFull = false) → z.snapSlot ≠ 2 → z.inRow ≠ 2 →
    completes .rollback s (fun t => (t.domain (s.coreDom s.here)).n = z.snapPhase ∧
      ∃ w, t.sittingOf s.here = some w ∧ w.frozen = true ∧ w.rollbacks = z.rollbacks + 1 ∧ w.inRow = z.inRow + 1 ∧ w.rolling = false ∧ w.expiry = false ∧
        ∃ f, w.openAt = some f ∧ s.now + 16 ≤ f)) ∧
  (∀ s z, s.sittingOf s.here = some z → z.status = none → ∀ k : Nat,
    (k = 2 ∧ ∃ c ∈ z.cores, (s.core c).undoFull = true) ∨
      ((∀ c ∈ z.cores, (s.core c).undoFull = false) ∧ ((k = 0 ∧ z.snapSlot = 2) ∨ (k = 1 ∧ z.snapSlot ≠ 2 ∧ z.inRow = 2))) →
    completes .rollback s (fun t => t.cores = s.cores ∧ t.sittingOf s.here = some { z with
      frozen := true, rolling := false, expiry := false, openAt := none, rollbacks := z.rollbacks + 1, status := some (7, k) })) ∧
  (∀ s z, s.sittingOf s.here = some z → z.frozen = true → z.status.isSome = true → exec .rollback s = .next s) ∧
  (∀ s z, s.sittingOf s.here = some z → z.status = none →
    completes .abortedByTheDriver s (fun t => t.cores = s.cores ∧ t.sittingOf s.here = some { z with
      frozen := true, saved := false, expiry := false, openAt := none, status := some (8, 0) }))

/-- R103, R110, R112, R115, R117, R208, R209: an end and a sem entry; a semaphore's effect; a station's slot goes to the lowest named lane that
is empty, and with none only a fault is recorded (log 38); one addressed to it lands, its own is judged when it returns (by SLOT_RETURN alone,
log 95); the early buffer drains through port B; a reduction begins, each element combined with what stands there; a flag is written in the
cycle after its sender's earlier bytes have landed, or at once through port B. -/
def Obligations.ExchangeEvents : Prop :=
  (∀ s p v, (at_ s).lc.fetchAt = some (now_ s) → (at_ s).lc.fetchBad = false → (at_ s).lc.cut = none → (at_ s).xc.fetchAt ≠ some (now_ s) → (at_ s).ecc = [] →
    xEntryAddr s s.here 0 = .ok p → (at_ s).rdScratch p 32 = (v, 0) →
    let e := XEnt.ofNat v
    let h := (at_ s).lc
    e.sg = false → e.dg = false → e.ok = true →
    (e.kind = 0 → completes .xeEntryFetch s (fun t => CoreEvent s t s.here ∧ (t.core s.here).lc.ended = true ∧ (t.core s.here).lc.fetchAt = none ∧
      (t.core s.here).lc.addr = h.ptr)) ∧
    (e.kind = 9 → completes .xeEntryFetch s (fun t => CoreEvent s t s.here ∧ (t.core s.here).lc.fetchAt = some (now_ s + 3) ∧
      (t.core s.here).lc.effs = h.effs ++ [⟨max (h.lastW + 1) (now_ s + 3), .sem e.ksp, h.serial + 1, false⟩] ∧
      (h.loop = none → (t.core s.here).lc.ptr = h.ptr + 32)))) ∧
  (∀ s n k z, s.frozen s.here = false → (at_ s).lc.effs = [⟨now_ s, .sem n, k, z⟩] → (at_ s).xc.effs = [] → mget 0 (at_ s).sems n ≠ 0xFFFF →
    completes .xeFlagSemEffect s (fun t => CoreEvent s t s.here ∧ (t.core s.here).lc.effs = [] ∧
      ∀ m, mget 0 (t.core s.here).sems m = mget 0 (at_ s).sems m + if m = n then 1 else 0)) ∧
  (∀ s z, (at_ s).xc.ready.find? (fun y => decide (y.ready < now_ s)) = some z →
    (∀ i, (lanesOf (s.tdmEntry s.here) 0).find? (fun j => (s.passing j (posOf s.here)).isNone) = some i →
      completes .slotInject s (fun t => (t.core s.here).xc.ready = (at_ s).xc.ready.erase z ∧ (t.core s.here).xfaults = (at_ s).xfaults ∧
        t.passing i (posOf s.here) = some { z with inj := posOf s.here, out := z.dev != s.devOf s.here })) ∧
    (lanesOf (s.tdmEntry s.here) 0 ≠ [] → (∀ i ∈ lanesOf (s.tdmEntry s.here) 0, (s.passing i (posOf s.here)).isSome = true) →
      completes .slotInject s (fun t => CoreEvent s t s.here ∧ t.core s.here = { at_ s with xfaults := (at_ s).xfaults ++ [⟨8, z.land, 0⟩] }))) ∧
  (∀ s z i, lanesOf (s.tdmEntry s.here) 8 = [i] → s.passing i (posOf s.here) = some z →
    (∀ a, z.out = false → s.here ∈ z.dsts → z.mcast = false → z.kind = 0 → z.tag = tagOf s s.here → slotPlace (at_ s) s.here z = some (false, a) →
      completes .slotEject s (fun t => t.passing i (posOf s.here) = none ∧
        ∃ w, now_ s + 1 ≤ w ∧ w ≤ now_ s + 3 ∧ (t.core s.here).landing = (at_ s).landing ++ [⟨w, { z with dsts := [s.here], places := [(false, a)], ready := w }, false, none⟩])) ∧
    (s.here ∉ z.dsts → z.inj = posOf s.here → exec .slotEject s = .next s) ∧
    (s.here ∉ z.dsts → z.inj ≠ posOf s.here → completes .slotEject s (fun t => t.passing i (posOf s.here) = none ∧
      t.core s.here = { at_ s with xfaults := (at_ s).xfaults ++ [⟨4, z.land, 0⟩] }))) ∧
  (∀ s z i, i < 8 → s.passing i (posOf s.here) = some z → z.inj = posOf s.here →
    (∀ j < 8, j ≠ i → ∀ y, s.passing j (posOf s.here) = some y → y.inj ≠ posOf s.here) →
    (z.mcast = true → z.out = false → (∀ d ∈ z.dsts, d ∈ z.marks) → completes .slotReturn s (fun t => t.passing i (posOf s.here) = none ∧
      t.cores = s.cores)) ∧
    (z.mcast = false → completes .slotReturn s (fun t => t.passing i (posOf s.here) = none ∧
      t.core s.here = { at_ s with xfaults := (at_ s).xfaults ++ [⟨5, z.land, 0⟩] }))) ∧
  (∀ s z l a, s.exch s.here = true → (at_ s).early = z :: l → z.tag = tagOf s s.here → z.kind = 0 → slotPlace (at_ s) s.here z = some (false, a) →
    (∀ g ∈ (at_ s).schB, g.req ≠ 5) →
    completes .earlyBufferDrain s (fun t => CoreEvent s t s.here ∧ (t.core s.here).early = l ∧ (t.core s.here).mem = (at_ s).mem ∧
      (t.core s.here).drains = (at_ s).drains ++ [{ z with drained := true, dsts := [s.here], places := [(false, a)], ready := now_ s }])) ∧
  (∀ s z, Quiet s → (at_ s).drains = [z] → (mget Land.reset (at_ s).lands z.land).target = none →
    completes .scratchpadWrite s (fun t => CoreEvent s t s.here ∧ (t.core s.here).drains = [] ∧ (t.core s.here).vault = (at_ s).vault ∧
      Wrote (at_ s).mem (t.core s.here).mem z.addr z.n z.data.toNat ∧
      (mget Land.reset (t.core s.here).lands z.land).count = (mget Land.reset (at_ s).lands z.land).count + BitVec.ofNat 32 z.n)) ∧
  (∀ s z, (at_ s).reduces = [z] → z.kind = 1 → z.ready ≤ now_ s → (at_ s).ecc = [] → (∀ e ∈ (at_ s).early, e.tag ≠ tagOf s s.here) →
    (at_ s).drains = [] → (at_ s).rmwW = [] → (∀ g ∈ (at_ s).schB, g.req ≠ 5) → 0 < tyBytes z.ty →
    (mget Land.reset (at_ s).lands z.land).target = none →
    completes .reduceApply s (fun t => CoreEvent s t s.here ∧ (t.core s.here).reduces = [{ z with kind := 3, ready := now_ s + 2 }] ∧
      (t.core s.here).mem = (at_ s).mem ∧ (t.core s.here).rmwW.length = z.n / tyBytes z.ty ∧
      ∀ i < z.n / tyBytes z.ty, ∃ p, (t.core s.here).rmwW[i]? = some ⟨now_ s + 2, z.addr + tyBytes z.ty * i, tyBytes z.ty,
        BitVec.ofNat 64 (combined z.op z.ty (rdBytes (at_ s).mem (z.addr + tyBytes z.ty * i) (tyBytes z.ty))
          (z.data.toNat / 256 ^ (tyBytes z.ty * i) % 256 ^ tyBytes z.ty)), p, 4, 0⟩)) ∧
  (∀ s z e, (at_ s).wrote ≠ some (now_ s) → (at_ s).landing = [⟨now_ s, z, e, none⟩] → z.kind = 2 →
    completes .flagSlotWrite s (fun t => CoreEvent s t s.here ∧ (t.core s.here).landing = [] ∧
      Wrote (at_ s).mem (t.core s.here).mem z.addr 8 z.data.toNat)) ∧
  (∀ s z, (at_ s).wrote = some (now_ s) → (at_ s).flagSlots = [z] → (at_ s).rmwW = [] →
    (mget 0 (at_ s).landedFrom z.src < z.before → completes .flagSlotWrite s (fun t => CoreEvent s t s.here ∧
      (t.core s.here).flagSlots = [z] ∧ (t.core s.here).landing = (at_ s).landing ∧ (t.core s.here).mem = (at_ s).mem)) ∧
    (z.before ≤ mget 0 (at_ s).landedFrom z.src → completes .flagSlotWrite s (fun t => CoreEvent s t s.here ∧ (t.core s.here).flagSlots = [] ∧
      (z.drained = true → Wrote (at_ s).mem (t.core s.here).mem z.addr 8 z.data.toNat) ∧
      (z.drained = false → (t.core s.here).mem = (at_ s).mem ∧
        (t.core s.here).landing = (at_ s).landing ++ [⟨max z.ready (now_ s + 1), z, false, none⟩]))))

/-- R192, R193, R279, R280, R283 to R291: the head of the matrix queue starts once the engine is free and its semaphores stand above 0, each
of which it takes; its reads fill the step tiles, scales and raw tile in their cycles; a pass joins its step partials by the canonical tree; a
command's result stands in its accumulator at completion, and its semaphore counts; msave and mret write in their cycles, where the command is
the core's only work; an mmag whose group table fails leaves the queue. -/
def Obligations.MatrixEvents : Prop :=
  (∀ s q r, (at_ s).mtq = q :: r → q.t < now_ s → q.cmd.op ≠ 2 → (at_ s).mtFree ≤ now_ s → (at_ s).mtRun = [] →
    ((∀ n < 16, q.cmd.f.wmask.getLsbD n = true → mget 0 (at_ s).sems n ≠ 0) →
      completes .matrixStart s (fun t => CoreEvent s t s.here ∧ (t.core s.here).mtq = r ∧ (t.core s.here).mtRun = [{ q with start := some (now_ s) }] ∧
        ∀ n < 16, mget 0 (t.core s.here).sems n = mget 0 (at_ s).sems n - if q.cmd.f.wmask.getLsbD n then 1 else 0)) ∧
    ((∃ n < 16, q.cmd.f.wmask.getLsbD n = true ∧ mget 0 (at_ s).sems n = 0) → exec .matrixStart s = .next s)) ∧
  (∀ s q st, (at_ s).mtRun = [q] → q.start = some st → st + mxDone q = now_ s → q.cmd.op ≠ 0 → (at_ s).glitch = 0 → mget 0 (at_ s).sems q.cmd.f.sig.toNat ≠ 0xFFFF →
    completes .matrixComplete s (fun t => CoreEvent s t s.here ∧ (t.core s.here).mtRun = [] ∧
      (∀ i < 1024, let z := mget Acc.zero (t.core s.here).accs q.cmd.f.acc.toNat; (z.el i, z.p.getLsbD i) = mxLeaves (at_ s) q i) ∧
      (q.cmd.op = 3 → mget Acc.zero (t.core s.here).accs q.cmd.f.acc.toNat = ⟨0, 0⟩) ∧
      (q.cmd.op ∈ [1, 2, 4, 6] → ((mget 0 (t.core s.here).mxc q.cmd.f.acc.toNat).extractLsb' 0 16).toNat =
        min 0xFFFF (((mget 0 (at_ s).mxc q.cmd.f.acc.toNat).extractLsb' 0 16).toNat + ((List.range 1024).filter (fun i =>
          xfNaN (mxLeaves (at_ s) q i).1 && !xfNaN ((mget Acc.zero (at_ s).accs q.cmd.f.acc.toNat).el i))).length)) ∧
      (∀ n, n ≠ q.cmd.f.acc.toNat → mget Acc.zero (t.core s.here).accs n = mget Acc.zero (at_ s).accs n) ∧
      ∀ n, mget 0 (t.core s.here).sems n = mget 0 (at_ s).sems n + if n = q.cmd.f.sig.toNat then 1 else 0)) ∧
  (∀ (q : MtCmd) p (A B : Nat → BitVec 32768) (S : Nat → BitVec 2048) (P Q : Nat → BitVec 32) row rows e d, q.part = [] → 1 ≤ q.cmd.f.ks.toNat →
    mxTyped q.cmd.op.toNat q.cmd.f → q.cmd.op = 1 ∨ q.cmd.op = 2 → q.groups.getD p (0, 0, 0, 0) = (row, rows, e, d) →
    let n := q.cmd.f.ks.toNat
    let z := (List.range n).foldl (fun (q : MtCmd) k => { q with a := A k, b := B k, sc := S k, ap := P k, bp := Q k }.endStep p k) q
    z.part = [] ∧ ∃ o, z.out = some o ∧ ∀ i < 1024,
      (row ≤ i / 32 → i / 32 < row + rows →
        o.el i = ctree n ((List.range n).map (fun k => partialOf q.cmd.f (A k) (B k) (S k) (i / 32) (i % 32))) ∧
        (o.p.getLsbD i = true ↔ ∃ k < n, (P k).getLsbD (i / 32) = true ∨ (Q k).getLsbD (i % 32) = true)) ∧
      (¬ (row ≤ i / 32 ∧ i / 32 < row + rows) → o.el i = (q.out.getD Acc.zero).el i ∧ o.p.getLsbD i = (q.out.getD Acc.zero).p.getLsbD i)) ∧
  (∀ s l q c p k o g0 g1 bb sb, banksNext s l → MatrixAlone s q → q.start = some c → q.cmd.op = 1 ∨ q.cmd.op = 2 → q.cmd.f.an = false → q.cmd.f.bw = false →
    let f := q.cmd.f
    let u := if f.ta = 0x42 then 4 else 1
    let e := o / u
    let e' := (o / u + 4) % 8
    q.groups[p]? = some (g0, g1, bb, sb) → k < f.ks.toNat → o < 8 * u → now_ s = c + 2 + 8 * u * (f.ks.toNat * p + k) + o →
    let a0 := q.base + f.aaddr.toNat * 64 + k * f.astr.toNat * 64
    let b0 := q.base + bb + k * f.bstr.toNat * 64
    matrixReads s l (fun z =>
      (∀ j < 4096, tbyte z.a j = if o % u = 0 ∧ j / 512 = e then (rdByte (at_ s).mem (a0 + j)).toNat else tbyte q.a j) ∧
      (∀ j < 4096, tbyte z.b j = if o % u = 0 ∧ j / 512 = e' then (rdByte (at_ s).mem (b0 + j)).toNat else tbyte q.b j) ∧
      (f.scaled = true → o = 0 → ∀ j < 128, tbyte z.sc j = (rdByte (at_ s).mem (q.base + f.sa.toNat * 64 + 128 * k + j)).toNat ∧
        tbyte z.sc (128 + j) = (rdByte (at_ s).mem (q.base + sb + 128 * k + j)).toNat) ∧
      (f.scaled = false ∨ o ≠ 0 → z.sc = q.sc) ∧
      (o ≠ 7 * u → z.part = q.part ∧ z.out = q.out ∧ (f.scaled = false ∨ o ≠ 0 → ∀ r < 32,
        (z.ap.getLsbD r = true ↔ q.ap.getLsbD r = true ∨ (o % u = 0 ∧ r / 4 = e ∧ ∃ j < 128, mget false (at_ s).memP ((a0 + 128 * r + j) / 8) = true)) ∧
        (z.bp.getLsbD r = true ↔ q.bp.getLsbD r = true ∨ (o % u = 0 ∧ r / 4 = e' ∧ ∃ j < 128, mget false (at_ s).memP ((b0 + 128 * r + j) / 8) = true)))) ∧
      (o = 7 * u → ∃ ap bp, z = { q with a := z.a, b := z.b, sc := z.sc, ap := ap, bp := bp }.endStep p k))) ∧
  (∀ s l q c p k o, banksNext s l → MatrixAlone s q → q.start = some c → q.cmd.op = 1 → q.cmd.f.an = true ∨ q.cmd.f.bw = true →
    let u := if q.cmd.f.ta = 0x42 then 2 else 1
    p < q.groups.length → k < q.cmd.f.ks.toNat → o < 16 * u → o % u = 0 → now_ s = c + 2 + 16 * u * (q.cmd.f.ks.toNat * p + k) + o →
    matrixReads s l (fun z =>
      (q.cmd.f.an = true → ∀ j < 256, tbyte z.a (256 * (o / u) + j) = vbyte (mget Vc.zero (at_ s).vlat 23).v j) ∧
      (q.cmd.f.bw = true → ∀ j < 256, tbyte z.b (256 * (o / u) + j) = vbyte (mget Vc.zero (at_ s).vlat 26).v j))) ∧
  (∀ s l q c h, banksNext s l → MatrixAlone s q → q.start = some c → q.cmd.op = 4 ∨ (q.cmd.op = 6 ∧ q.cmd.f.sel = 8) → h < 2 → now_ s = c + 2 + h →
    let a0 := q.base + q.cmd.f.aaddr.toNat * 64
    matrixReads s l (fun z =>
      (∀ j < 8192, tbyte z.raw j = if j / 4096 = h then (rdByte (at_ s).mem (a0 + j)).toNat else tbyte q.raw j) ∧
      ∀ i < 1024, (z.rp.getLsbD i = true ↔ q.rp.getLsbD i = true ∨ (i / 512 = h ∧ ∃ j < 8, mget false (at_ s).memP ((a0 + 8 * i + j) / 8) = true)))) ∧
  (∀ s l q c, banksNext s l → MatrixAlone s q → q.start = some c → q.cmd.op = 7 → q.cmd.f.sel = 2 ∨ q.cmd.f.sel = 3 → now_ s = c + 2 →
    matrixReads s l (fun z => ∀ j < (if q.cmd.f.sel = 2 then 8 else 128),
      tbyte z.sc j = (rdByte (at_ s).mem (q.base + q.cmd.f.sa.toNat * 64 + j)).toNat)) ∧
  (∀ s q c h, MatrixAlone s q → q.start = some c → q.cmd.op = 5 → h < 2 → now_ s = c + 2 + h →
    let a0 := q.base + q.cmd.f.aaddr.toNat * 64
    let z := mget Acc.zero (at_ s).accs q.cmd.f.acc.toNat
    completes .scratchpadWrite s (fun t => CoreEvent s t s.here ∧ (t.core s.here).accs = (at_ s).accs ∧ (t.core s.here).vault = (at_ s).vault ∧
      (∀ i < 1024, i / 512 = h → (∀ k < 8, rdByte (t.core s.here).mem (a0 + 8 * i + k) = BitVec.ofNat 8 (z.el i / 256 ^ k)) ∧
        (q.base % 8 = 0 → mget false (t.core s.here).memP (a0 / 8 + i) = z.p.getLsbD i)) ∧
      ∀ x, ¬ (a0 + 4096 * h ≤ x ∧ x < a0 + 4096 * h + 4096) → rdByte (t.core s.here).mem x = rdByte (at_ s).mem x)) ∧
  (∀ s q c j, MatrixAlone s q → q.start = some c → q.cmd.op = 7 → mxTyped 7 q.cmd.f → j < 4 → now_ s = c + 6 + j →
    let es := tyBytes q.cmd.f.ta.toNat
    let z := mget Acc.zero (at_ s).accs q.cmd.f.acc.toNat
    let at0 (r : Nat) : Nat := q.base + q.cmd.f.aaddr.toNat * 64 + r * (if q.cmd.f.astr = 0 then 32 * es else q.cmd.f.astr.toNat * 64)
    let bytes (r : Nat) : Nat := ((List.range 32).map (fun c => retired q c (z.el (32 * r + c)) * 256 ^ (es * c))).sum
    completes .scratchpadWrite s (fun t => CoreEvent s t s.here ∧ (t.core s.here).accs = (at_ s).accs ∧ (t.core s.here).vault = (at_ s).vault ∧
      ∀ x, rdByte (t.core s.here).mem x =
        match (((List.range 8).map (fun r => 8 * j + r)).filter (fun r => decide (at0 r ≤ x ∧ x < at0 r + 32 * es))).getLast? with
        | some r => BitVec.ofNat 8 (bytes r / 256 ^ (x - at0 r))
        | none => rdByte (at_ s).mem x)) ∧
  (∀ s q, (at_ s).mtq = [q] → q.cmd.op = 2 → q.t + 3 = now_ s → q.judged = false → (at_ s).ecc = [] →
    let w (i : Nat) : Nat := rdBytes (at_ s).mem (q.base + q.cmd.f.gtab.toNat * 64 + 4 * i) 4
    let n := q.cmd.f.gcnt.toNat
    let sum := ((List.range n).map (fun i => w i % 65536)).sum
    (sum ≠ 32 → tableCheck (at_ s) (now_ s) q = .error ⟨0x02, BitVec.ofNat 64 (q.cmd.f.gtab.toNat * 64), 25, BitVec.ofNat 64 (sum % 65536 * 2 ^ 32), 2, false, 0⟩) ∧
    (∀ p, tableCheck (at_ s) (now_ s) q = .ok p → p.groups = (List.range n).filterMap (fun i =>
      if w i % 65536 = 0 then none
      else some (((List.range i).map (fun k => w k % 65536)).sum, w i % 65536, w i / 65536 * 64, q.cmd.f.sb.toNat * 64 + 128 * q.cmd.f.ks.toNat * i))) ∧
    (∀ p, tableCheck (at_ s) (now_ s) q = .ok p → leaves .mmagTableCheck s { at_ s with mtq := [p] }) ∧
    (∀ e, tableCheck (at_ s) (now_ s) q = .error e → completes .mmagTableCheck s (fun t => (t.core s.here).mtq = [])))


/-- R146, R147, R151 to R154, R354, R357, R358: arrivals fill a region's latch of two; a grid cycle presents the oldest, or repeats the last
one marked stale and counts a miss, and port B reads zero without CHB; a region enters holdover, stops and restarts with its whole domain;
beats steer HOUSE and end a holdover. That a source without samples is back with an event of its own, the pace held in holdover and the way
back are the model's reading (log 66), and so are what is subtracted of a marker's stamp, where it takes effect and the job devices a marker
names (log 67). -/
def Obligations.RegionEvents : Prop :=
  (∀ s, let g := s.here; let r := s.region g; let chB := fun w : Word => if (mget 0 s.pins (s.rsrc g - 2)).getLsbD 4 then w else 0
    lapsed s g = false →
    (∀ z l, r.latch = z :: l → completes .gridCycle s (fun t => t.cores = s.cores ∧ (t.region g).latch = l ∧ (t.region g).missing = 0 ∧
      (t.region g).miss = r.miss ∧ (t.region g).grid = r.grid + 1 ∧ (t.region g).nextGrid = r.cyc + max 1 r.samples ∧
      (t.region g).state = (if r.state = 3 then s.limitState g else r.state) ∧ (t.region g).spNext = r.spNext ++
        [(r.cyc + 2, BitVec.ofNat 64 (z.num % 2 ^ 16 * 2 ^ 32 + z.a.toNat), chB (BitVec.ofNat 64 (z.num % 2 ^ 16 * 2 ^ 32 + z.b.toNat)), z.num)])) ∧
    (r.latch = [] → completes .gridCycle s (fun t => t.cores = s.cores ∧ (t.region g).miss = r.miss + 1 ∧
      (t.region g).missing = r.missing + 1 ∧ (t.region g).nextGrid = r.cyc + max 1 r.samples ∧
      (r.spNext = [] → (t.region g).spNext = [(r.cyc + 2, r.sp0 ||| BitVec.ofNat 64 (2 ^ 63), chB (r.sp1 ||| BitVec.ofNat 64 (2 ^ 63)), r.snum)]) ∧
      (∀ e, r.spNext.getLast? = some e → (t.region g).spNext =
        r.spNext ++ [(r.cyc + 2, e.2.1 ||| BitVec.ofNat 64 (2 ^ 63), chB (e.2.2.1 ||| BitVec.ofNat 64 (2 ^ 63)), e.2.2.2)]) ∧
      (r.missing = 3 → r.state ≠ 3 → t.agenda = .ev g .holdoverEntry :: s.agenda)))) ∧
  (∀ s pin a b g, pin < 4 → g < 32 → s.rsrc g = pin + 2 → (s.region g).stopped = false → (s.region g).arrivals ≠ 0 → s.pinTakes pin = true →
    ((s.region g).latch.length < 2 → completes (.sampleArrival pin a b) s (fun t => (t.region g).arrivals = (s.region g).arrivals + 1 ∧
      (t.region g).latch = (s.region g).latch ++ [⟨(s.region g).arrivals, pinIn (mget 0 s.pins pin) a,
        if (mget 0 s.pins pin).getLsbD 4 then pinIn (mget 0 s.pins pin) b else 0⟩])) ∧
    (2 ≤ (s.region g).latch.length → completes (.sampleArrival pin a b) s (fun t => (t.region g).latch = (s.region g).latch ∧
      (t.region g).ovrn = (s.region g).ovrn + 1))) ∧
  (∀ s, completes .holdoverEntry s (fun t => (t.region s.here).state = 3 ∧ (t.region s.here).holdAt = (s.region s.here).cyc ∧
    (t.region s.here).missing = 4 ∧ (t.region s.here).holdPace = s.pace s.here ∧ (t.region s.here).slew = none)) ∧
  (∀ s g, completes .regionStop s (fun t =>
    (inDom s (s.domainOf s.here) g → (t.region g).stopped = true ∧ (t.region g).stoppedAt = s.house.toNat ∧ (t.region g).cyc = (s.region g).cyc) ∧
    (g < 32 → s.domainOf g ≠ s.domainOf s.here → t.region g = s.region g))) ∧
  (∀ s g h a b, inDom s (s.domainOf g) h → (s.region h).stopped = true →
    completes (.regionRestart g a b) s (fun t => (t.region h).stopped = false ∧ (t.region h).state = s.limitState h ∧ (t.region h).missing = 0)) ∧
  (∀ s g (st : BitVec 3), st.toNat ≤ 2 → completes (.cappedOrClamped g st) s (fun t => t.cores = s.cores ∧ (t.region g).state = st ∧
    (t.region g).cyc = (s.region g).cyc ∧ ∀ h, h ≠ g → t.region h = s.region h)) ∧
  (∀ s g a b, isPin (s.rsrc g) = false → (s.region g).state = 3 →
    completes (.sourceReturnsInHoldover g a b) s (fun t => t.cores = s.cores ∧
      t.region g = { s.region g with state := s.limitState g, missing := 0 })) ∧
  (∀ s g a b, isPin (s.rsrc g) = true → s.pinTakes (s.rsrc g - 2) = true → (s.region g).latch = [] → completes (.sourceReturnsInHoldover g a b) s (fun t => t.cores = s.cores ∧
    (t.region g).latch.length = 1 ∧ (t.region g).state = (s.region g).state)) ∧
  (∀ s p h g, completes (.beatMarker p h) s (fun t => t.cores = s.cores ∧
    (s.houseSrc ≠ some p → t.house = s.house ∧ t.houseOff = s.houseOff) ∧
    (s.houseSrc = some p →
      let h' : BitVec 80 := h - BitVec.ofNat 80 (Config.roundTrip p / 2)
      t.house = h'.extractLsb' 16 64 ∧ t.tickPhase = (h'.extractLsb' 13 3).toNat) ∧
    (g < 32 → s.rsrc g = p + 8 → (t.region g).missing = 0 ∧ (t.region g).beatDue = s.now + s.beatInterval (p + 8) ∧
      (t.region g).state = if (s.region g).state = 3 then s.limitState g else (s.region g).state))) ∧
  (∀ s, (s.port s.here).up = true → s.stage ≠ 0 → s.off = false → (s.port s.here).retrain ≤ s.now →
    let q := s.port s.here
    let sent := fun (dest orig : Nat) => flitOf dest orig 1 0 q.seqOut.toNat (bytesOf 8 s.house.toNat ++ bytesOf 2 (s.tickPhase * 2 ^ 13))
    completes .beatMarkerSend s (fun t => t.cores = s.cores ∧ ∃ dest orig, t.port s.here =
      { q with marker := s.house.toNat, seqOut := q.seqOut + 1, out := q.out ++ [sent dest orig], credit := q.credit - 80 } ∧
      ((∀ z ∈ s.sittings, z.parts ≤ 1) → dest = 0 ∧ orig = 0) ∧
      (∀ z, s.sittings.find? (fun y => decide (1 < y.parts)) = some z → orig = leBytes z.task.rec_ 0x70 2 ∧
        ∀ k, k < z.parts → k ≠ orig → Config.exierPort k % 24 = s.here → (∀ j < k, j ≠ orig → Config.exierPort j % 24 ≠ s.here) → dest = k)))

/-- R40, R44, R141 to R143, R156, R325, R326, R329, R353: a write of a configuration register that its rules permit takes effect; one that
they do not is turned away; a queue's TAIL may only add entries, and one that goes backward sets ERR and keeps TAIL; a counter is added to and
read; a pinned page is busy. That RCFGA and RCFGB are judged jointly only where the other has been written is the model's reading (log 36);
so are the QCFG write that clears ERR and nothing else (log 71), the number of a queue's vector (log 74) and that reads are asked beside the
events (log 107). -/
def Obligations.RegisterWrites : Prop :=
  (∀ s g v, g < 32 → s.regionUsed g = false →
    (rcfgaOk v = true → rcfgPair v (s.region g).b = true → taken (.rcfgaWrite g v) s (fun t => (t.region g).a = v ∧ (t.region g).effA = (s.region g).effA)) ∧
    (rcfgaOk v = false → turnedAway (.rcfgaWrite g v) s 1) ∧
    (rcfgbOk v = true → rcfgPair (s.region g).a v = true → taken (.rcfgbWrite g v) s (fun t => (t.region g).b = v ∧ (t.region g).effB = (s.region g).effB)) ∧
    (rcfgbOk v = false → turnedAway (.rcfgbWrite g v) s 1)) ∧
  (∀ s g v, g < 32 → s.regionUsed g = true → rcfgaOk v = true → rcfgPair v (s.region g).b = true → srcOf v ≠ s.rsrc g →
    turnedAway (.rcfgaWrite g v) s 2) ∧
  (∀ s g v, g < 32 → s.regionUsed g = true → rcfgaOk v = true → rcfgPair v (s.region g).b = true → s.rsrc g = 1 → srcOf v = 1 →
    floorOf v = floorOf (s.region g).a → taken (.rcfgaWrite g v) s (fun t => (t.region g).pendPQ = some (v.extractLsb' 32 32) ∧
      (t.region g).a.extractLsb' 32 32 = (s.region g).a.extractLsb' 32 32)) ∧
  (∀ s x v, x < 16 → ((writeXcfg x v s).1 = 0 → taken (.xcfgWrite x v) s (fun t => (t.xing x).cfg = v.setWidth 32)) ∧
    ((writeXcfg x v s).1 ≠ 0 → turnedAway (.xcfgWrite x v) s (writeXcfg x v s).1)) ∧
  (∀ s p (v : Word), p < 4 → v.toNat < 2 ^ 6 → v.getLsbD 3 = false → v.toNat % 8 < 6 → (∀ g < 32, s.rsrc g = p + 2 → s.regionUsed g = false) →
    taken (.pincfgWrite p v) s (fun t => mget 0 t.pins p = v.setWidth 6)) ∧
  (∀ s q (v : Word), q < 64 → v.toNat % 128 = 0 → gOk v.toNat = true →
    (queueBusy (s.queue q) = false → taken (.qbaseWrite q v) s (fun t => t.queue q = { s.queue q with base := v })) ∧
    (queueBusy (s.queue q) = true → turnedAway (.qbaseWrite q v) s 2)) ∧
  (∀ s q (v : Word) mc, q < 64 → v.toNat < 2 ^ 16 → v.getLsbD 11 = false → v.extractLsb' 5 3 = 0 → 1 ≤ (v.extractLsb' 0 5).toNat →
    (v.extractLsb' 0 5).toNat ≤ 16 → v.getLsbD 14 = false → v.extractLsb' 8 3 ≠ 7 → queueBusy (s.queue q) = false →
    taken (.qcfgWrite q v mc) s (fun t => ∀ j < 64, (t.queue q).cfg.getLsbD j =
      if j = 15 then (!v.getLsbD 15 && (s.queue q).cfg.getLsbD 15) else v.getLsbD j)) ∧
  (∀ s q (v : Word) mc, q < 64 → v.toNat < 2 ^ 16 → v.getLsbD 11 = false → v.extractLsb' 5 3 = 0 → 1 ≤ (v.extractLsb' 0 5).toNat →
    (v.extractLsb' 0 5).toNat ≤ 16 → v.getLsbD 14 = false → v.extractLsb' 8 3 ≠ 7 → queueBusy (s.queue q) = true →
    v.getLsbD 15 = false ∨ (s.queue q).cfg.getLsbD 15 = false → turnedAway (.qcfgWrite q v mc) s 2) ∧
  (∀ s q (v : Word), q < 64 → (s.queue q).cfg.getLsbD 15 = false →
    let n := 2 ^ ((s.queue q).cfg.extractLsb' 0 5).toNat
    let t' := v.toNat % n
    let old := (s.queue q).tail.toNat % n
    (v.toNat < 2 ^ 16 → t' = old ∨ used (s.queue q) old < used (s.queue q) t' →
      completes (.qtailWrite q v) s (fun t => t.cores = s.cores ∧ t.queue q = { s.queue q with tail := BitVec.ofNat 16 t' })) ∧
    (2 ^ 16 ≤ v.toNat ∨ (t' ≠ old ∧ used (s.queue q) t' ≤ used (s.queue q) old) → completes (.qtailWrite q v) s (fun t => t.cores = s.cores ∧ (t.queue q).cfg.getLsbD 15 = true ∧
      (t.queue q).tail = (s.queue q).tail ∧ t.msi = s.msi ++ [q]))) ∧
  (∀ s q (v : Word), q < 64 → (s.queue q).cfg.getLsbD 15 = true → v.toNat < 2 ^ 16 → completes (.qtailWrite q v) s (fun t => t.cores = s.cores ∧
    t.queue q = { s.queue q with tail := BitVec.ofNat 16 (v.toNat % 2 ^ ((s.queue q).cfg.extractLsb' 0 5).toNat) } ∧ canPull t q = false)) ∧
  (∀ s e v, e < 4096 → completes (.eventCounterWrite e v) s (fun t => t.cores = s.cores ∧ mget 0 t.events e = mget 0 s.events e + v ∧
    ∀ k, k ≠ e → mget 0 t.events k = mget 0 s.events k)) ∧
  (∀ s q w base len rd wr, q < 64 → w < 16 → base + len ≤ 2 ^ 36 → (∀ z ∈ s.sittings, z.task.q % 64 ≠ q) →
    taken (.hostWindowRegister q w base len rd wr) s (fun t => mget Window.none_ t.windows (q * 16 + w) = ⟨base, len, rd, wr⟩)) ∧
  (∀ s v, (∀ q < 64, exec (.registerWrite (0x10000 + 8 * q) 8 v) s = exec (.qtailWrite q v) s) ∧
    (∀ e < 4096, exec (.registerWrite (0x20000 + 8 * e) 8 v) s = exec (.eventCounterWrite e v) s) ∧
    ∀ off n, n ≠ 8 ∨ off % 8 ≠ 0 → turnedAway (.registerWrite off n v) s 4) ∧
  (∀ s off n, (n ≠ 8 ∨ off % 8 ≠ 0 → runAsk (.read off n) s = { s with hostMsg := 4 }) ∧
    (∀ q < 64, runAsk (.read (0x10000 + 8 * q) 8) s = { s with answer := bytesOf 8 (s.queue q).tail.toNat }) ∧
    (∀ e < 4096, runAsk (.read (0x20000 + 8 * e) 8) s = { s with answer := bytesOf 8 (mget 0 s.events e).toNat }) ∧
    (∀ k < 144, ∀ j < 4, s.debug ≠ 1 → runAsk (.read (0x40000 + 0x20 * k + 8 * j) 8) s =
      { s with answer := bytesOf 8 ((mget McBank.reset s.banks k).reg j).toNat }) ∧
    (off % 8 = 0 → off < 2 ^ 20 → 0x1000 ≤ off → off < 0x10000 → runAsk (.read off 8) s = { s with answer := List.replicate 8 0 })) ∧
  (∀ s k p, exec (.migrateUnmapOrRepurposeRequest k p) s = .next { s with hostMsg := if (pinFind s.pinTab (k, p)).isSome then 2 else 0 })

/-- R326 to R336, R350: a record is pulled at HEAD; tasks become ready and age; the head whose turn it is is placed, or rejected with its
queue's ERR; the pool is refilled from its overflow; a task that is done leaves its record and its signal; draining; a maintenance sitting.
The model's own readings: a record judged at its pull (log 70), the order of turns (log 72), which overflow record moves (log 73), and a
maintenance sitting of 2,500,000 fabric cycles that empties its core (log 80). -/
def Obligations.AtelierEvents : Prop :=
  (∀ s, canPull s s.here = false → exec .recordPull s = .next s) ∧
  (∀ s, canPull s s.here = true → s.here ∉ s.pulls →
    (pullSlot s s.here = none → completes .recordPull s (fun t => Pulls s t s.here)) ∧
    (pullSlot s s.here ≠ none → exec .recordPull s = .next { s with pulls := s.pulls ++ [s.here] })) ∧
  (∀ s, completes .taskReady s (fun t => t.cores = s.cores ∧ pulled t = pulled s ∧
    t.tasks.map (fun x => x.ready) = s.tasks.map (fun x => x.ready || waitsMet s x) ∧
    t.pool.map (fun x => x.ready) = s.pool.map (fun x => x.ready || waitsMet s x))) ∧
  (∀ s, completes .priorityAging s (fun t => t.cores = s.cores ∧ pulled t = pulled s ∧
    t.tasks.map (fun x => x.age) = s.tasks.map (fun x => if x.ages s.now x.effPrio then x.age + 1 else x.age) ∧
    t.pool.map (fun x => x.age) = s.pool.map (fun x => if x.ages s.now x.effPrio then x.age + 1 else x.age) ∧
    t.sittings.map (fun z => z.prio) = s.sittings.map (fun z => if z.saved && z.task.ages s.now z.prio then z.prio + 1 else z.prio))) ∧
  (∀ s p k l, s.draining = false → 2 ≤ s.stage → s.off = false → turns s = (p, .inr k) :: l → k.q < 64 →
    (∀ r, checkTask s k = .error r → completes .taskAdmission s (fun t =>
      t.sittings.map (fun z => z.cores) = s.sittings.map (fun z => z.cores) ∧ pulled t = (s.tasks.erase k).map (fun x => x.rec_) ∧ (t.queue k.q).cfg.getLsbD 15 = true ∧ t.turnQ = k.q)) ∧
    (∀ a ps, checkTask s k = .ok (a, ps) → pinsBad s.pinTab ps = none →
      (∀ c ∈ a.members, mget 0 a.vt c + a.hf 0x24 4 ≤ 376832 ∧ (k.f 0x58 4 = 0 ∨
        holdsSaved s ((a.pairs.find? (fun p => p.second c || p.first == c)).elim c (fun p => p.host)) = false)) → (∀ z ∈ s.sittings, 4096 ∉ z.cores) →
      placeable s a.members a.pairs (k.f 0xD 1) (k.f 0x10 2) (k.f 0x12 2) = true →
      completes .taskAdmission s (fun t => pulled t = (s.tasks.erase k).map (fun x => x.rec_) ∧ t.turnQ = k.q ∧
        ∃ z ∈ t.sittings, z.task = k ∧ z.member = a.members ∧ z.pins = ps))) ∧
  (∀ s i k, s.overflow.find? (fun e => mayEnter s e.2) = some (i, k) →
    completes .poolRefill s (fun t => t.overflow = s.overflow.filter (fun e => e.1 != i) ∧ pooled t = pooled s ++ [(ringRecord i s).1])) ∧
  (∀ s z, s.sittings.find? (fun y => y.member.contains s.here && taskDone s y) = some z → z.status = none → gSpace z.task.compl = 1 →
    completes .taskCompletion s (fun t => z ∉ t.sittings ∧ t.pinTab = z.pins.foldl dropPin s.pinTab ∧
      t.hostMem = wrBytes s.hostMem (z.task.compl % 2 ^ 48) (sittingRecord s z) 64 ∧
      (z.task.f 0x48 8 < 2 ^ 63 → t.events = s.events) ∧
      (2 ^ 63 ≤ z.task.f 0x48 8 → mget 0 t.events (z.task.f 0x48 8 / 2 ^ 48 % 4096) =
        mget 0 s.events (z.task.f 0x48 8 / 2 ^ 48 % 4096) + BitVec.ofNat 64 (z.task.f 0x48 8 % 2 ^ 48)))) ∧
  (∀ s, exec .draining s = .next { s with draining := true }) ∧
  (∀ s, mget 0 s.maint s.here < 2 → mget 0 s.maintInt s.here = 0 → exec .maintenanceSittingDue s = .next { s with maint := mdel s.maint s.here }) ∧
  (∀ s, mget 0 s.maint s.here < 2 → mget 0 s.maintInt s.here ≠ 0 →
    let free := s.sittingOf s.here = none ∧ s.serving = true ∧ panelOf s.here ∈ s.panels
    completes .maintenanceSittingDue s (fun t => t.cores = s.cores ∧
      (¬ free → t.maint = mput s.maint s.here 1) ∧
      (free → verifies Config.maintBody Config.maintSig = true → t.maint = mput s.maint s.here (s.now + 2500000)) ∧
      (free → verifies Config.maintBody Config.maintSig = false → t.maint = mdel s.maint s.here) ∧
      (mget 0 s.maint s.here = 0 → t.maintAt = mput s.maintAt s.here (s.now + mget 0 s.maintInt s.here)))) ∧
  (∀ s, 2 ≤ mget 0 s.maint s.here → mget 0 s.maint s.here ≤ s.now →
    (testsFail (at_ s) = false → completes .maintenanceSittingDue s (fun t => t.maint = mdel s.maint s.here ∧
      t.core s.here = { emptyCore (at_ s) with glitch := 0 } ∧ t.outCores = s.outCores ∧ ∀ d, d ≠ s.here → t.core d = s.core d)) ∧
    (testsFail (at_ s) = true → completes .maintenanceSittingDue s (fun t => t.maint = mdel s.maint s.here ∧
      (s.here ∈ t.outCores ∨ mget 0 t.remap (rowKey s.here) = s.here % 16 + 1))))

/-- R159, R337, R338, R354 to R356, R361, R364: a fatal error stops the device; a reset leaves what power and fuses hold; a flit is delivered
in sequence or asked for again, and replayed; ports send at their rate, retrain and go down; the management controller lowers ratios while a
cause stands and restores them. The model's own readings: the class that stops the device and what a reset keeps (log 84), the ninth failure
that takes a port down, the link's rate, and the time a port retrains (log 83), and the measurements from outside with the order of a restore
(log 109). -/
def Obligations.PlatformEvents : Prop :=
  (∀ s (ty : BitVec 8), 0x13 ≤ ty.toNat → ty.toNat ≤ 0x16 → completes (.fatalError ty) s (fun t => t.fatal = true ∧ t.busy = false ∧ t.agenda = [] ∧
    t.cores = s.cores ∧ t.hostMem = s.hostMem ∧ ∀ e ∈ t.regions, e.2.stopped = true)) ∧
  (∀ s, completes .reset s (fun t => t.fatal = false ∧ t.stage = 0 ∧ t.cores = [] ∧ t.sittings = [] ∧ t.queues = [] ∧ t.regions = [] ∧ t.banks = [] ∧
    t.panels = [] ∧ t.ideKey = 0 ∧ t.now = s.now ∧ t.hostMem = s.hostMem ∧ t.device = s.device ∧ t.fw = s.fw ∧ t.measLog = s.measLog ∧
    t.nonce = Config.nonce s.nonces ∧ t.nonces = s.nonces + 1 ∧ (∀ i, i ≠ 0 → mget 0 t.meas i = mget 0 s.meas i) ∧
    (s.fw = none → t.held = 0 ∧ mget 0 t.meas 0 = mget 0 s.meas 0) ∧
    (∀ f, s.fw = some f → (verifies f.body f.sig = true → t.held = 0 ∧ Measured s t 0 f.body) ∧
      (verifies f.body f.sig = false → t.held = 1 ∧ mget 0 t.meas 0 = mget 0 s.meas 0)))) ∧
  (∀ s port (bs f : List (BitVec 8)) ok, port < 24 → (s.port port).up = true → s.stage ≠ 0 → s.off = false → bs.length = 256 → Config.fec bs = (f, ok) →
    (ok = true → (crc32 (f.take 0xF0)).toNat = leBytes f 0xF0 4 → leBytes f 8 4 = (s.port port).seqIn.toNat →
      completes (.flitReceive port bs) s (fun t => t.cores = s.cores ∧
        t.port port = { s.port port with seqIn := (s.port port).seqIn + 1, replays := 0, asked := none } ∧
        (flitOk f = true → leBytes f 4 1 = 0 → t.flits = s.flits ++ [flitSlot s f]))) ∧
    (ok = false ∨ (crc32 (f.take 0xF0)).toNat ≠ leBytes f 0xF0 4 →
      completes (.flitReceive port bs) s (fun t => t.cores = s.cores ∧ t.flits = s.flits ∧
        t.port port = { s.port port with replays := (s.port port).replays + 1, asked := some (s.port port).seqIn } ∧
        (8 ≤ (s.port port).replays → t.agenda = .ev port .linkDown :: s.agenda)))) ∧
  (∀ s, completes .linkDown s (fun t => t.cores = s.cores ∧ t.port s.here = { s.port s.here with up := false, queue := [], again := [], asked := none } ∧
    ∀ p, p ≠ s.here → t.port p = s.port p)) ∧
  (∀ s p l, completes (.laneSpare p l) s (fun t => t.cores = s.cores ∧
    (∃ r, s.now ≤ r ∧ r ≤ s.now + 2500000 ∧ t.port p = { s.port p with lanes := lset (s.port p).lanes l false, retrain := r }) ∧
    ((s.port p).up = true → (lset (s.port p).lanes l false).count true < 2 → t.agenda = .ev p .linkDown :: s.agenda))) ∧
  (∀ s port, let p := s.port port; let c : Int := p.credit + 7 * ((p.lanes.count true : Nat) : Int)
    (s.linkSends port = false → portStep s port = s) ∧
    (s.linkSends port = true → p.queue ≠ [] ∨ p.again ≠ [] → c < 80 → (portStep s port).port port = { p with credit := c }) ∧
    (s.linkSends port = true → 80 ≤ c →
      (∀ f l, p.again = f :: l → (portStep s port).port port = { p with again := l, out := p.out ++ [f], credit := c - 80 }) ∧
      (∀ d o k g b l, p.again = [] → p.queue = (d, o, k, g, b) :: l → (portStep s port).port port =
        { p with queue := l, out := p.out ++ [flitOf d o k g p.seqOut.toNat b], seqOut := p.seqOut + 1, credit := c - 80 }))) ∧
  (∀ s port seq, s.linkUp port = true → ∃ l, runAsk (.replay port seq) s = s.modPort port (fun q => { q with again := l }) ∧
    l.Sublist (s.port port).out ∧ l.Nodup ∧ ∀ f, f ∈ l ↔ f ∈ (s.port port).out ∧ (BitVec.ofNat 32 (leBytes f 8 4) - seq).toNat < 2 ^ 31) ∧
  (∀ s w a d, 95 ≤ d → (runAsk (.power w a d) s).agenda = .ev 0 (.fatalError 0x16) :: s.agenda) ∧
  (∀ s, let cause := s.powerLimit < s.power.1 ∨ 8500 < s.power.2.1 ∨ 90 < s.power.2.2
    (∀ r, ¬ cause → exec (.powerCap r) s = .next s) ∧
    (∀ r, cause ∨ s.now < s.coolAt + 12500000 → exec (.powerRestore r) s = .next s) ∧
    ∀ g p q, let a := (s.region g).a; let v : Word := BitVec.ofNat 16 p ++ BitVec.ofNat 16 q ++ a.extractLsb' 0 32
    let b := mget 0 s.capBase g
    s.rsrc g = 1 →
    (cause → p * qOf a ≤ pOf a * q → completes (.powerCap [(g, p, q)]) s (fun t => t.region g = (writeRcfga g v s).2.region g ∧
      (∀ h, h ≠ g → t.region h = s.region h) ∧ ((∀ z ∈ s.sittings, z.saved = true) → t.powerCapped = true) ∧
      ((∃ z ∈ s.sittings, z.saved = false) → t.powerCapped = s.powerCapped ∧ t.capPend = some true) ∧
      mget 0 t.capBase g = if b = 0 then pOf a * 65536 + qOf a else b)) ∧
    (¬ cause → s.coolAt + 12500000 ≤ s.now → pOf a * q ≤ p * qOf a → b ≠ 0 → p * (b % 65536) ≤ b / 65536 * q →
      completes (.powerRestore [(g, p, q)]) s (fun t => t.region g = (writeRcfga g v s).2.region g ∧ ∀ h, h ≠ g → t.region h = s.region h)))

/-- R352, R359 to R363: the staged start verifies and measures each image or holds the part; panels sleep and wake; the device goes off and
on at boundaries; debug states and accesses, attestation and the link key. The model's own readings: what device off drops and keeps (log
77), that a token is measured as it is entered and a nonce follows each accepted one (log 78), an event for each panel brought up, a failed
one staying out (log 79), and the debug accesses (log 108). -/
def Obligations.StartAndSecurityEvents : Prop :=
  (∀ s fw, completes (.powerGood fw) s (fun t => t.stage = 0 ∧ t.cores = [] ∧ t.fw = some fw ∧
    t.nonce = Config.nonce s.nonces ∧ t.nonces = s.nonces + 1 ∧
    (verifies fw.body fw.sig = true → t.held = 0 ∧ Measured State.reset t 0 fw.body) ∧
    (verifies fw.body fw.sig = false → t.held = 1 ∧ t.meas = []))) ∧
  (∀ s img ok, s.off = true ∨ s.held ≠ 0 ∨ s.fw = none → exec (.startStageEnd img ok) s = .next s) ∧
  (∀ s img ok, s.off = false → s.held = 0 → s.fw ≠ none →
    (s.stage = 0 → exec (.startStageEnd img ok) s = .next { s with stage := 1 }) ∧
    (s.stage = 1 → completes (.startStageEnd img ok) s (fun t =>
      (verifies img.body img.sig = true → t.stage = 2 ∧ t.held = 0 ∧ t.security = Config.security img.body % 3 ∧ Measured s t 1 img.body) ∧
      (verifies img.body img.sig = false → t.stage = 0 ∧ t.held = 2 ∧ t.meas = s.meas))) ∧
    (s.stage = 2 → completes (.startStageEnd img ok) s (fun t => t.tried = s.tried + 1 ∧ t.stage = (if s.tried + 1 = 8 then 3 else 2) ∧
      t.panels = if ok then s.panels ++ [s.tried] else s.panels))) ∧
  (∀ s fw, (s.held = 0 → exec (.recoveryImageWrite fw) s = .next s) ∧
    (s.held = 1 → verifies fw.body fw.sig = true → completes (.recoveryImageWrite fw) s (fun t => t.held = 0 ∧ t.fw = some fw ∧ Measured s t 0 fw.body)) ∧
    (s.held = 2 → verifies fw.body fw.sig = true → completes (.recoveryImageWrite fw) s (fun t => t.held = 0 ∧ t.stage = 2 ∧
      Measured s t 1 fw.body)) ∧
    (s.held = 1 ∨ s.held = 2 → verifies fw.body fw.sig = false → completes (.recoveryImageWrite fw) s (fun t => t.held = s.held ∧ t.meas = s.meas))) ∧
  (∀ s, s.here ∈ s.panels → s.here ∉ s.asleep →
    ((∀ z ∈ s.sittings, ∀ c ∈ z.cores, panelOf c ≠ s.here) → completes .panelSleepRequest s (fun t => t.hostMsg = 0 ∧ t.cores = s.cores ∧
      t.asleep = s.asleep ++ [s.here] ∧ ∀ g < 32, 2 * (g / 8) + g % 2 = s.here → (t.region g).stopped = true)) ∧
    ((∃ z ∈ s.sittings, ∃ c ∈ z.cores, panelOf c = s.here) → turnedAway .panelSleepRequest s 3)) ∧
  (∀ s, s.here ∈ s.asleep → completes .panelWake s (fun t => t.asleep = s.asleep.erase s.here ∧ t.cores = s.cores ∧
    ∀ g < 32, 2 * (g / 8) + g % 2 = s.here → (t.region g).stopped = false)) ∧
  (∀ s, ((∀ z ∈ s.sittings, z.saved = true) → completes .deviceOffEntry s (fun t => t.off = true ∧ t.cores = [] ∧ t.sittings = [] ∧ t.queues = [] ∧
      t.debug = 0 ∧ t.stage = 0 ∧ t.hostMem = s.hostMem ∧ t.meas = s.meas)) ∧
    ((∃ z ∈ s.sittings, z.saved = false) → exec .deviceOffEntry s = .next { s with offPend := true })) ∧
  (∀ s, s.off = true → exec .deviceOffExit s = .next { s with off := false, stage := 1 }) ∧
  (∀ s k, (verifies k.signed.body k.signed.sig = true → Config.tokenBody k.device k.nonce k.state k.expiry = k.signed.body → s.nonces ≠ 0 →
      k.device = s.device → k.nonce = s.nonce → s.house ≤ k.expiry → k.state = 1 ∨ k.state = 2 → s.off = false →
      completes (.debugUnlockToken k) s (fun t => t.hostMsg = 0 ∧ t.nonce = Config.nonce s.nonces ∧
        ((∀ z ∈ s.sittings, z.saved = true) → t.debug = k.state ∧ Measured s t 2 (tokenBytes k) ∧ (s.security = 2 → k.state = 2 → t.ideKey = 0)) ∧
        ((∃ z ∈ s.sittings, z.saved = false) → t.debug = s.debug ∧ t.meas = s.meas ∧ t.ideKey = s.ideKey ∧
          t.debugPend = s.debugPend ++ [(k.state, some (sha512 (tokenBytes k)))]))) ∧
    (verifies k.signed.body k.signed.sig = false ∨ Config.tokenBody k.device k.nonce k.state k.expiry ≠ k.signed.body ∨ s.nonces = 0 ∨
      k.device ≠ s.device ∨ k.nonce ≠ s.nonce ∨ k.expiry < s.house → turnedAway (.debugUnlockToken k) s 3)) ∧
  (∀ s c b r v, (s.debug ≠ 2 ∨ (s.security ≠ 0 ∧ (s.brush c b).sys = true) →
      runAsk (.readReg c b r) s = { s with hostMsg := 3 } ∧ runAsk (.writeReg c b r v) s = { s with hostMsg := 3 } ∧
      runAsk (.halt c b) s = { s with hostMsg := 3 } ∧ runAsk (.step c b) s = { s with hostMsg := 3 }) ∧
    (debugMay s c b = true → (∀ n, runAsk (.readReg c b (.s n)) s = { s with answer := bytesOf 8 (readS (s.brush c b) n).v.toNat, hostMsg := 0 }) ∧
      runAsk (.halt c b) s = { s with dbgHeld := mset 0 s.dbgHeld (4 * c + b) 1, hostMsg := 0 })) ∧
  (∀ s n, (s.security = 0 → n ≤ 2 → s.off = false →
      completes (.debugStateRequest n) s (fun t => t.hostMsg = 0 ∧ t.cores = s.cores ∧ ((∀ z ∈ s.sittings, z.saved = true) → t.debug = n) ∧
        ((∃ z ∈ s.sittings, z.saved = false) → t.debug = s.debug ∧ t.debugPend = s.debugPend ++ [(n, none)]))) ∧
    (s.security ≠ 0 → turnedAway (.debugStateRequest n) s 3)) ∧
  (∀ s n, s.off = false → completes (.attestationRequest n) s (fun t => t = { s with report := t.report } ∧
    ∃ body, t.report = body ++ Config.signReport body ∧ body.length = 32 + 16 * 64 + 8 + 3 ∧ body.take 32 = bytesOf 32 n.toNat ∧
      ∀ i < 16, (body.drop (32 + 64 * i)).take 64 = bytesOf 64 (mget 0 s.meas i).toNat)) ∧
  (∀ s k, exec (.ideKeySetup k) s = .next { s with ideKey := k })
end

