-- ==== Sys2Proof/Laws/Sparse.lean ====
section
/-! SUPPORT. Sparse maps and memories: reading after writing, and the canonical form that every write keeps. -/
namespace Sys2Proof.Machine

variable {α : Type}

/-! ### Reading after writing -/

@[simp] theorem mget_nil (d : α) (k : Nat) : mget d [] k = d := rfl

@[simp] theorem mget_mput_same (d : α) (m : Map α) (k : Nat) (v : α) : mget d (mput m k v) k = v := by
  induction m with
  | nil => simp [mput, mget]
  | cons e r ih =>
    obtain ⟨k', v'⟩ := e
    unfold mput
    split
    · simp [mget]
    · split
      · simp [mget]
      · rename_i h1 h2
        simp only [mget, if_neg h2, ih]

theorem mget_mput_ne (d : α) (m : Map α) {k j : Nat} (v : α) (h : j ≠ k) : mget d (mput m k v) j = mget d m j := by
  induction m with
  | nil => simp [mput, mget, h]
  | cons e r ih =>
    obtain ⟨k', v'⟩ := e
    unfold mput
    split
    · simp [mget, h]
    · split
      · rename_i h1 h2
        subst h2
        simp [mget, h]
      · simp only [mget, ih]

theorem mget_mput (d : α) (m : Map α) (k j : Nat) (v : α) : mget d (mput m k v) j = if j = k then v else mget d m j := by
  split
  · rename_i h; subst h; simp
  · rename_i h; exact mget_mput_ne d m v h

theorem mget_filter_key (d : α) (p : Nat → Bool) (m : Map α) (k : Nat) :
    mget d (m.filter (fun e => p e.1)) k = if p k then mget d m k else d := by
  induction m with
  | nil => simp
  | cons e r ih =>
    obtain ⟨k', v'⟩ := e
    by_cases hp : p k'
    · simp only [List.filter_cons, hp, if_true, mget, ih]
      by_cases hk : k = k'
      · subst hk; simp [hp]
      · simp [hk]
    · rw [List.filter_cons, if_neg hp]
      by_cases hk : k = k'
      · subst hk; simp [ih, hp]
      · rw [ih]; simp [mget, hk]

theorem mget_mdel (d : α) (m : Map α) (k j : Nat) : mget d (mdel m k) j = if j = k then d else mget d m j := by
  unfold mdel
  rw [mget_filter_key d (fun i => i != k)]
  by_cases h : j = k <;> simp [h]

theorem mget_mset [DecidableEq α] (d : α) (m : Map α) (k j : Nat) (v : α) :
    mget d (mset d m k v) j = if j = k then v else mget d m j := by
  unfold mset
  split
  · rename_i h; subst h; exact mget_mdel v m k j
  · exact mget_mput d m k j v

/-! ### Lists -/

theorem lset_getD {l : List α} {i : Nat} (v d : α) (h : i < l.length) (j : Nat) :
    (lset l i v).getD j d = if j = i then v else l.getD j d := by
  induction l generalizing i j with
  | nil => simp at h
  | cons a l ih =>
    cases i with
    | zero => cases j <;> simp [lset]
    | succ i =>
      cases j with
      | zero => simp [lset]
      | succ j =>
        simp only [List.length_cons] at h
        simpa [lset] using ih (by omega) j

theorem lset_length (l : List α) (i : Nat) (v : α) : (lset l i v).length = l.length := by
  induction l generalizing i with
  | nil => rfl
  | cons a l ih => cases i <;> simp [lset, ih]

/-! ### The canonical form -/

variable [DecidableEq α]

theorem mwfFrom_mono {d : α} {lo lo' : Nat} {m : Map α} (h : lo' ≤ lo) (w : mwfFrom d lo m = true) : mwfFrom d lo' m = true := by
  cases m with
  | nil => rfl
  | cons e r =>
    obtain ⟨k, v⟩ := e
    simp only [mwfFrom, Bool.and_eq_true, decide_eq_true_eq] at w ⊢
    exact ⟨⟨Nat.le_trans h w.1.1, w.1.2⟩, w.2⟩

theorem mwfFrom_mput {d : α} {m : Map α} {lo k : Nat} {v : α} (hk : lo ≤ k) (hv : v ≠ d) (w : mwfFrom d lo m = true) :
    mwfFrom d lo (mput m k v) = true := by
  induction m generalizing lo with
  | nil => simp [mput, mwfFrom, hk, hv]
  | cons e r ih =>
    obtain ⟨k', v'⟩ := e
    simp only [mwfFrom, Bool.and_eq_true, decide_eq_true_eq] at w
    obtain ⟨⟨h1, h2⟩, h3⟩ := w
    unfold mput
    split
    · rename_i h
      simp only [mwfFrom, Bool.and_eq_true, decide_eq_true_eq]
      exact ⟨⟨hk, hv⟩, ⟨by omega, h2⟩, h3⟩
    · split
      · rename_i _ h
        subst h
        simp only [mwfFrom, Bool.and_eq_true, decide_eq_true_eq]
        exact ⟨⟨hk, hv⟩, h3⟩
      · simp only [mwfFrom, Bool.and_eq_true, decide_eq_true_eq]
        exact ⟨⟨h1, h2⟩, ih (by omega) h3⟩

theorem mwfFrom_filter {d : α} {m : Map α} {lo : Nat} (p : Nat × α → Bool) (w : mwfFrom d lo m = true) :
    mwfFrom d lo (m.filter p) = true := by
  induction m generalizing lo with
  | nil => rfl
  | cons e r ih =>
    obtain ⟨k, v⟩ := e
    simp only [mwfFrom, Bool.and_eq_true, decide_eq_true_eq] at w
    rw [List.filter_cons]
    split
    · simp only [mwfFrom, Bool.and_eq_true, decide_eq_true_eq]
      exact ⟨w.1, ih w.2⟩
    · exact mwfFrom_mono (by omega) (ih w.2)

theorem mwf_mset {d : α} {m : Map α} (k : Nat) (v : α) (w : mwf d m = true) : mwf d (mset d m k v) = true := by
  unfold mset
  split
  · exact mwfFrom_filter _ w
  · rename_i h; exact mwfFrom_mput (Nat.zero_le k) h w

theorem mwf_filter {d : α} {m : Map α} (p : Nat × α → Bool) (w : mwf d m = true) : mwf d (m.filter p) = true := mwfFrom_filter p w

theorem wf_wrByte {m : List Host.Cell} (a : Nat) (v : Byte) (w : Memory.wf m = true) : Memory.wf (wrByte m a v) = true := mwf_mset a v w

theorem wf_wrBytes (n : Nat) {m : List Host.Cell} (a v : Nat) (w : Memory.wf m = true) : Memory.wf (wrBytes m a v n) = true := by
  induction n generalizing m a v with
  | zero => exact w
  | succ n ih => exact ih (a + 1) (v / 256) (wf_wrByte a _ w)

theorem wf_wrMasked (n : Nat) {m : List Host.Cell} (a v k : Nat) (w : Memory.wf m = true) : Memory.wf (wrMasked m a v k n) = true := by
  induction n generalizing m a v k with
  | zero => exact w
  | succ n ih =>
    unfold wrMasked
    apply ih
    split
    · exact wf_wrByte a _ w
    · exact w

theorem mwf_foldl {β : Type} {d : α} (f : Map α → β → Map α) (hf : ∀ m b, mwf d m = true → mwf d (f m b) = true) (l : List β) {m : Map α}
    (w : mwf d m = true) : mwf d (l.foldl f m) = true := by
  induction l generalizing m with
  | nil => exact w
  | cons b l ih => exact ih (hf m b w)

theorem wf_wrPois {m : Map Bool} (u a n p : Nat) (w : mwf false m = true) : mwf false (wrPois m u a n p) = true := by
  unfold wrPois
  split
  · exact w
  · apply mwf_foldl _ _ _ w
    intro m i hm
    dsimp only
    split
    · exact mwf_mset _ _ hm
    · split
      · exact mwf_mset _ _ hm
      · exact hm

/-! ### Bytes of a memory -/

theorem rdByte_wrByte (m : List Host.Cell) (a j : Nat) (v : Byte) : rdByte (wrByte m a v) j = if j = a then v else rdByte m j :=
  mget_mset _ m a j v

/-- A write of `n` bytes leaves every byte outside it. -/
theorem rdByte_wrBytes_out (n : Nat) (m : List Host.Cell) (a v j : Nat) (h : j < a ∨ a + n ≤ j) : rdByte (wrBytes m a v n) j = rdByte m j := by
  induction n generalizing m a v with
  | zero => rfl
  | succ n ih =>
    rw [wrBytes, ih _ _ _ (by omega), rdByte_wrByte, if_neg (by omega)]

/-- A write of `n` bytes stores byte `i` of its value at byte `i`. -/
theorem rdByte_wrBytes_in (n : Nat) (m : List Host.Cell) (a v i : Nat) (h : i < n) :
    rdByte (wrBytes m a v n) (a + i) = BitVec.ofNat 8 (v / 256 ^ i) := by
  induction n generalizing m a v i with
  | zero => omega
  | succ n ih =>
    cases i with
    | zero =>
      rw [wrBytes, rdByte_wrBytes_out n _ _ _ _ (by omega), rdByte_wrByte]
      simp
    | succ i =>
      have e : a + (i + 1) = a + 1 + i := by omega
      rw [wrBytes, e, ih _ _ _ _ (by omega), Nat.pow_succ, Nat.mul_comm, ← Nat.div_div_eq_div_mul]

/-- Reading back what was written. -/
theorem rdBytes_wrBytes (n : Nat) (m : List Host.Cell) (a v : Nat) : rdBytes (wrBytes m a v n) a n = v % 256 ^ n := by
  have gen : ∀ k j, j + k ≤ n → rdBytes (wrBytes m a v n) (a + j) k = v / 256 ^ j % 256 ^ k := by
    intro k
    induction k with
    | zero => intro j _; simp [rdBytes, Nat.mod_one]
    | succ k ih =>
      intro j hj
      rw [rdBytes, rdByte_wrBytes_in n m a v j (by omega), show a + j + 1 = a + (j + 1) by omega, ih (j + 1) (by omega)]
      have e1 : v / 256 ^ (j + 1) = v / 256 ^ j / 256 := by rw [Nat.pow_succ, Nat.div_div_eq_div_mul]
      have e2 : (256 : Nat) ^ (k + 1) = 256 * 256 ^ k := Nat.pow_succ'
      rw [BitVec.toNat_ofNat, e1, e2, Nat.mod_mul]
  simpa using gen n 0 (by omega)

end Sys2Proof.Machine
end

