-- ==== Sys2Proof/Laws/State.lean ====
section
/-! SUPPORT. What each update of the state leaves as it was, field by field, and what an accessor reads after it. -/
namespace Sys2Proof.Machine


/-! ### setCore -/

section
variable (s : State) (c : Nat) (x : Core)
@[simp] theorem State.setCore_now : (s.setCore c x).now = s.now := rfl
@[simp] theorem State.setCore_house : (s.setCore c x).house = s.house := rfl
@[simp] theorem State.setCore_agenda : (s.setCore c x).agenda = s.agenda := rfl
@[simp] theorem State.setCore_cur : (s.setCore c x).cur = s.cur := rfl
@[simp] theorem State.setCore_busy : (s.setCore c x).busy = s.busy := rfl
@[simp] theorem State.setCore_inputs : (s.setCore c x).inputs = s.inputs := rfl
@[simp] theorem State.setCore_here : (s.setCore c x).here = s.here := rfl
@[simp] theorem State.setCore_srcRate : (s.setCore c x).srcRate = s.srcRate := rfl
@[simp] theorem State.setCore_srcPlan : (s.setCore c x).srcPlan = s.srcPlan := rfl
@[simp] theorem State.setCore_regions : (s.setCore c x).regions = s.regions := rfl
@[simp] theorem State.setCore_domains : (s.setCore c x).domains = s.domains := rfl
@[simp] theorem State.setCore_lanes : (s.setCore c x).lanes = s.lanes := rfl
@[simp] theorem State.setCore_xings : (s.setCore c x).xings = s.xings := rfl
@[simp] theorem State.setCore_pins : (s.setCore c x).pins = s.pins := rfl
@[simp] theorem State.setCore_pinOut : (s.setCore c x).pinOut = s.pinOut := rfl
@[simp] theorem State.setCore_houseSrc : (s.setCore c x).houseSrc = s.houseSrc := rfl
@[simp] theorem State.setCore_queues : (s.setCore c x).queues = s.queues := rfl
@[simp] theorem State.setCore_windows : (s.setCore c x).windows = s.windows := rfl
@[simp] theorem State.setCore_events : (s.setCore c x).events = s.events := rfl
@[simp] theorem State.setCore_eventMsi : (s.setCore c x).eventMsi = s.eventMsi := rfl
@[simp] theorem State.setCore_pinTab : (s.setCore c x).pinTab = s.pinTab := rfl
@[simp] theorem State.setCore_tasks : (s.setCore c x).tasks = s.tasks := rfl
@[simp] theorem State.setCore_pool : (s.setCore c x).pool = s.pool := rfl
@[simp] theorem State.setCore_overflow : (s.setCore c x).overflow = s.overflow := rfl
@[simp] theorem State.setCore_overNext : (s.setCore c x).overNext = s.overNext := rfl
@[simp] theorem State.setCore_sittings : (s.setCore c x).sittings = s.sittings := rfl
@[simp] theorem State.setCore_turnQ : (s.setCore c x).turnQ = s.turnQ := rfl
@[simp] theorem State.setCore_hostMem : (s.setCore c x).hostMem = s.hostMem := rfl
@[simp] theorem State.setCore_banks : (s.setCore c x).banks = s.banks := rfl
@[simp] theorem State.setCore_mcNew : (s.setCore c x).mcNew = s.mcNew := rfl
@[simp] theorem State.setCore_frameErr : (s.setCore c x).frameErr = s.frameErr := rfl
@[simp] theorem State.setCore_remap : (s.setCore c x).remap = s.remap := rfl
@[simp] theorem State.setCore_outCores : (s.setCore c x).outCores = s.outCores := rfl
@[simp] theorem State.setCore_pairs : (s.setCore c x).pairs = s.pairs := rfl
@[simp] theorem State.setCore_panels : (s.setCore c x).panels = s.panels := rfl
@[simp] theorem State.setCore_asleep : (s.setCore c x).asleep = s.asleep := rfl
@[simp] theorem State.setCore_draining : (s.setCore c x).draining = s.draining := rfl
@[simp] theorem State.setCore_stage : (s.setCore c x).stage = s.stage := rfl
@[simp] theorem State.setCore_held : (s.setCore c x).held = s.held := rfl
@[simp] theorem State.setCore_tried : (s.setCore c x).tried = s.tried := rfl
@[simp] theorem State.setCore_ports : (s.setCore c x).ports = s.ports := rfl
@[simp] theorem State.setCore_flits : (s.setCore c x).flits = s.flits := rfl
@[simp] theorem State.setCore_meas : (s.setCore c x).meas = s.meas := rfl
@[simp] theorem State.setCore_measLog : (s.setCore c x).measLog = s.measLog := rfl
@[simp] theorem State.setCore_report : (s.setCore c x).report = s.report := rfl
@[simp] theorem State.setCore_device : (s.setCore c x).device = s.device := rfl
@[simp] theorem State.setCore_nonces : (s.setCore c x).nonces = s.nonces := rfl
@[simp] theorem State.setCore_nonce : (s.setCore c x).nonce = s.nonce := rfl
@[simp] theorem State.setCore_security : (s.setCore c x).security = s.security := rfl
@[simp] theorem State.setCore_debug : (s.setCore c x).debug = s.debug := rfl
@[simp] theorem State.setCore_debugPend : (s.setCore c x).debugPend = s.debugPend := rfl
@[simp] theorem State.setCore_offPend : (s.setCore c x).offPend = s.offPend := rfl
@[simp] theorem State.setCore_off : (s.setCore c x).off = s.off := rfl
@[simp] theorem State.setCore_ideKey : (s.setCore c x).ideKey = s.ideKey := rfl
@[simp] theorem State.setCore_msi : (s.setCore c x).msi = s.msi := rfl
@[simp] theorem State.setCore_fatal : (s.setCore c x).fatal = s.fatal := rfl
@[simp] theorem State.setCore_saves : (s.setCore c x).saves = s.saves := rfl
@[simp] theorem State.setCore_hostReqs : (s.setCore c x).hostReqs = s.hostReqs := rfl
@[simp] theorem State.setCore_hostHeld : (s.setCore c x).hostHeld = s.hostHeld := rfl
@[simp] theorem State.setCore_repairs : (s.setCore c x).repairs = s.repairs := rfl
@[simp] theorem State.setCore_hostRead : (s.setCore c x).hostRead = s.hostRead := rfl
@[simp] theorem State.setCore_hostReadP : (s.setCore c x).hostReadP = s.hostReadP := rfl
@[simp] theorem State.setCore_hostMsg : (s.setCore c x).hostMsg = s.hostMsg := rfl
@[simp] theorem State.setCore_maint : (s.setCore c x).maint = s.maint := rfl
@[simp] theorem State.setCore_bar : (s.setCore c x).bar = s.bar := rfl
@[simp] theorem State.setCore_powerCapped : (s.setCore c x).powerCapped = s.powerCapped := rfl
@[simp] theorem State.setCore_btdmP : (s.setCore c x).btdmP = s.btdmP := rfl
@[simp] theorem State.setCore_btdm : (s.setCore c x).btdm = s.btdm := rfl
@[simp] theorem State.setCore_btdmDom : (s.setCore c x).btdmDom = s.btdmDom := rfl
@[simp] theorem State.setCore_fv : (s.setCore c x).fv = s.fv := rfl
@[simp] theorem State.setCore_bridgeFaults : (s.setCore c x).bridgeFaults = s.bridgeFaults := rfl
@[simp] theorem State.setCore_pulls : (s.setCore c x).pulls = s.pulls := rfl
@[simp] theorem State.setCore_houseGaps : (s.setCore c x).houseGaps = s.houseGaps := rfl
@[simp] theorem State.setCore_asks : (s.setCore c x).asks = s.asks := rfl
@[simp] theorem State.setCore_answer : (s.setCore c x).answer = s.answer := rfl
@[simp] theorem State.setCore_houseOff : (s.setCore c x).houseOff = s.houseOff := rfl
@[simp] theorem State.setCore_fw : (s.setCore c x).fw = s.fw := rfl
@[simp] theorem State.setCore_dbgHeld : (s.setCore c x).dbgHeld = s.dbgHeld := rfl
@[simp] theorem State.setCore_maintInt : (s.setCore c x).maintInt = s.maintInt := rfl
@[simp] theorem State.setCore_maintAt : (s.setCore c x).maintAt = s.maintAt := rfl
@[simp] theorem State.setCore_capPend : (s.setCore c x).capPend = s.capPend := rfl
@[simp] theorem State.setCore_capBase : (s.setCore c x).capBase = s.capBase := rfl
@[simp] theorem State.setCore_powerLimit : (s.setCore c x).powerLimit = s.powerLimit := rfl
@[simp] theorem State.setCore_power : (s.setCore c x).power = s.power := rfl
@[simp] theorem State.setCore_coolAt : (s.setCore c x).coolAt = s.coolAt := rfl
end

/-! ### modCore -/

section
variable (s : State) (c : Nat) (f : Core → Core)
@[simp] theorem State.modCore_now : (s.modCore c f).now = s.now := rfl
@[simp] theorem State.modCore_house : (s.modCore c f).house = s.house := rfl
@[simp] theorem State.modCore_agenda : (s.modCore c f).agenda = s.agenda := rfl
@[simp] theorem State.modCore_cur : (s.modCore c f).cur = s.cur := rfl
@[simp] theorem State.modCore_busy : (s.modCore c f).busy = s.busy := rfl
@[simp] theorem State.modCore_inputs : (s.modCore c f).inputs = s.inputs := rfl
@[simp] theorem State.modCore_here : (s.modCore c f).here = s.here := rfl
@[simp] theorem State.modCore_srcRate : (s.modCore c f).srcRate = s.srcRate := rfl
@[simp] theorem State.modCore_srcPlan : (s.modCore c f).srcPlan = s.srcPlan := rfl
@[simp] theorem State.modCore_regions : (s.modCore c f).regions = s.regions := rfl
@[simp] theorem State.modCore_domains : (s.modCore c f).domains = s.domains := rfl
@[simp] theorem State.modCore_lanes : (s.modCore c f).lanes = s.lanes := rfl
@[simp] theorem State.modCore_xings : (s.modCore c f).xings = s.xings := rfl
@[simp] theorem State.modCore_pins : (s.modCore c f).pins = s.pins := rfl
@[simp] theorem State.modCore_pinOut : (s.modCore c f).pinOut = s.pinOut := rfl
@[simp] theorem State.modCore_houseSrc : (s.modCore c f).houseSrc = s.houseSrc := rfl
@[simp] theorem State.modCore_queues : (s.modCore c f).queues = s.queues := rfl
@[simp] theorem State.modCore_windows : (s.modCore c f).windows = s.windows := rfl
@[simp] theorem State.modCore_events : (s.modCore c f).events = s.events := rfl
@[simp] theorem State.modCore_eventMsi : (s.modCore c f).eventMsi = s.eventMsi := rfl
@[simp] theorem State.modCore_pinTab : (s.modCore c f).pinTab = s.pinTab := rfl
@[simp] theorem State.modCore_tasks : (s.modCore c f).tasks = s.tasks := rfl
@[simp] theorem State.modCore_pool : (s.modCore c f).pool = s.pool := rfl
@[simp] theorem State.modCore_overflow : (s.modCore c f).overflow = s.overflow := rfl
@[simp] theorem State.modCore_overNext : (s.modCore c f).overNext = s.overNext := rfl
@[simp] theorem State.modCore_sittings : (s.modCore c f).sittings = s.sittings := rfl
@[simp] theorem State.modCore_turnQ : (s.modCore c f).turnQ = s.turnQ := rfl
@[simp] theorem State.modCore_hostMem : (s.modCore c f).hostMem = s.hostMem := rfl
@[simp] theorem State.modCore_banks : (s.modCore c f).banks = s.banks := rfl
@[simp] theorem State.modCore_mcNew : (s.modCore c f).mcNew = s.mcNew := rfl
@[simp] theorem State.modCore_frameErr : (s.modCore c f).frameErr = s.frameErr := rfl
@[simp] theorem State.modCore_remap : (s.modCore c f).remap = s.remap := rfl
@[simp] theorem State.modCore_outCores : (s.modCore c f).outCores = s.outCores := rfl
@[simp] theorem State.modCore_pairs : (s.modCore c f).pairs = s.pairs := rfl
@[simp] theorem State.modCore_panels : (s.modCore c f).panels = s.panels := rfl
@[simp] theorem State.modCore_asleep : (s.modCore c f).asleep = s.asleep := rfl
@[simp] theorem State.modCore_draining : (s.modCore c f).draining = s.draining := rfl
@[simp] theorem State.modCore_stage : (s.modCore c f).stage = s.stage := rfl
@[simp] theorem State.modCore_held : (s.modCore c f).held = s.held := rfl
@[simp] theorem State.modCore_tried : (s.modCore c f).tried = s.tried := rfl
@[simp] theorem State.modCore_ports : (s.modCore c f).ports = s.ports := rfl
@[simp] theorem State.modCore_flits : (s.modCore c f).flits = s.flits := rfl
@[simp] theorem State.modCore_meas : (s.modCore c f).meas = s.meas := rfl
@[simp] theorem State.modCore_measLog : (s.modCore c f).measLog = s.measLog := rfl
@[simp] theorem State.modCore_report : (s.modCore c f).report = s.report := rfl
@[simp] theorem State.modCore_device : (s.modCore c f).device = s.device := rfl
@[simp] theorem State.modCore_nonces : (s.modCore c f).nonces = s.nonces := rfl
@[simp] theorem State.modCore_nonce : (s.modCore c f).nonce = s.nonce := rfl
@[simp] theorem State.modCore_security : (s.modCore c f).security = s.security := rfl
@[simp] theorem State.modCore_debug : (s.modCore c f).debug = s.debug := rfl
@[simp] theorem State.modCore_debugPend : (s.modCore c f).debugPend = s.debugPend := rfl
@[simp] theorem State.modCore_offPend : (s.modCore c f).offPend = s.offPend := rfl
@[simp] theorem State.modCore_off : (s.modCore c f).off = s.off := rfl
@[simp] theorem State.modCore_ideKey : (s.modCore c f).ideKey = s.ideKey := rfl
@[simp] theorem State.modCore_msi : (s.modCore c f).msi = s.msi := rfl
@[simp] theorem State.modCore_fatal : (s.modCore c f).fatal = s.fatal := rfl
@[simp] theorem State.modCore_saves : (s.modCore c f).saves = s.saves := rfl
@[simp] theorem State.modCore_hostReqs : (s.modCore c f).hostReqs = s.hostReqs := rfl
@[simp] theorem State.modCore_hostHeld : (s.modCore c f).hostHeld = s.hostHeld := rfl
@[simp] theorem State.modCore_repairs : (s.modCore c f).repairs = s.repairs := rfl
@[simp] theorem State.modCore_hostRead : (s.modCore c f).hostRead = s.hostRead := rfl
@[simp] theorem State.modCore_hostReadP : (s.modCore c f).hostReadP = s.hostReadP := rfl
@[simp] theorem State.modCore_hostMsg : (s.modCore c f).hostMsg = s.hostMsg := rfl
@[simp] theorem State.modCore_maint : (s.modCore c f).maint = s.maint := rfl
@[simp] theorem State.modCore_bar : (s.modCore c f).bar = s.bar := rfl
@[simp] theorem State.modCore_powerCapped : (s.modCore c f).powerCapped = s.powerCapped := rfl
@[simp] theorem State.modCore_btdmP : (s.modCore c f).btdmP = s.btdmP := rfl
@[simp] theorem State.modCore_btdm : (s.modCore c f).btdm = s.btdm := rfl
@[simp] theorem State.modCore_btdmDom : (s.modCore c f).btdmDom = s.btdmDom := rfl
@[simp] theorem State.modCore_fv : (s.modCore c f).fv = s.fv := rfl
@[simp] theorem State.modCore_bridgeFaults : (s.modCore c f).bridgeFaults = s.bridgeFaults := rfl
@[simp] theorem State.modCore_pulls : (s.modCore c f).pulls = s.pulls := rfl
@[simp] theorem State.modCore_houseGaps : (s.modCore c f).houseGaps = s.houseGaps := rfl
@[simp] theorem State.modCore_asks : (s.modCore c f).asks = s.asks := rfl
@[simp] theorem State.modCore_answer : (s.modCore c f).answer = s.answer := rfl
@[simp] theorem State.modCore_houseOff : (s.modCore c f).houseOff = s.houseOff := rfl
@[simp] theorem State.modCore_fw : (s.modCore c f).fw = s.fw := rfl
@[simp] theorem State.modCore_dbgHeld : (s.modCore c f).dbgHeld = s.dbgHeld := rfl
@[simp] theorem State.modCore_maintInt : (s.modCore c f).maintInt = s.maintInt := rfl
@[simp] theorem State.modCore_maintAt : (s.modCore c f).maintAt = s.maintAt := rfl
@[simp] theorem State.modCore_capPend : (s.modCore c f).capPend = s.capPend := rfl
@[simp] theorem State.modCore_capBase : (s.modCore c f).capBase = s.capBase := rfl
@[simp] theorem State.modCore_powerLimit : (s.modCore c f).powerLimit = s.powerLimit := rfl
@[simp] theorem State.modCore_power : (s.modCore c f).power = s.power := rfl
@[simp] theorem State.modCore_coolAt : (s.modCore c f).coolAt = s.coolAt := rfl
end

/-! ### modBrush -/

section
variable (s : State) (c b : Nat) (f : Brush → Brush)
@[simp] theorem State.modBrush_now : (s.modBrush c b f).now = s.now := rfl
@[simp] theorem State.modBrush_house : (s.modBrush c b f).house = s.house := rfl
@[simp] theorem State.modBrush_agenda : (s.modBrush c b f).agenda = s.agenda := rfl
@[simp] theorem State.modBrush_cur : (s.modBrush c b f).cur = s.cur := rfl
@[simp] theorem State.modBrush_busy : (s.modBrush c b f).busy = s.busy := rfl
@[simp] theorem State.modBrush_inputs : (s.modBrush c b f).inputs = s.inputs := rfl
@[simp] theorem State.modBrush_here : (s.modBrush c b f).here = s.here := rfl
@[simp] theorem State.modBrush_srcRate : (s.modBrush c b f).srcRate = s.srcRate := rfl
@[simp] theorem State.modBrush_srcPlan : (s.modBrush c b f).srcPlan = s.srcPlan := rfl
@[simp] theorem State.modBrush_regions : (s.modBrush c b f).regions = s.regions := rfl
@[simp] theorem State.modBrush_domains : (s.modBrush c b f).domains = s.domains := rfl
@[simp] theorem State.modBrush_lanes : (s.modBrush c b f).lanes = s.lanes := rfl
@[simp] theorem State.modBrush_xings : (s.modBrush c b f).xings = s.xings := rfl
@[simp] theorem State.modBrush_pins : (s.modBrush c b f).pins = s.pins := rfl
@[simp] theorem State.modBrush_pinOut : (s.modBrush c b f).pinOut = s.pinOut := rfl
@[simp] theorem State.modBrush_houseSrc : (s.modBrush c b f).houseSrc = s.houseSrc := rfl
@[simp] theorem State.modBrush_queues : (s.modBrush c b f).queues = s.queues := rfl
@[simp] theorem State.modBrush_windows : (s.modBrush c b f).windows = s.windows := rfl
@[simp] theorem State.modBrush_events : (s.modBrush c b f).events = s.events := rfl
@[simp] theorem State.modBrush_eventMsi : (s.modBrush c b f).eventMsi = s.eventMsi := rfl
@[simp] theorem State.modBrush_pinTab : (s.modBrush c b f).pinTab = s.pinTab := rfl
@[simp] theorem State.modBrush_tasks : (s.modBrush c b f).tasks = s.tasks := rfl
@[simp] theorem State.modBrush_pool : (s.modBrush c b f).pool = s.pool := rfl
@[simp] theorem State.modBrush_overflow : (s.modBrush c b f).overflow = s.overflow := rfl
@[simp] theorem State.modBrush_overNext : (s.modBrush c b f).overNext = s.overNext := rfl
@[simp] theorem State.modBrush_sittings : (s.modBrush c b f).sittings = s.sittings := rfl
@[simp] theorem State.modBrush_turnQ : (s.modBrush c b f).turnQ = s.turnQ := rfl
@[simp] theorem State.modBrush_hostMem : (s.modBrush c b f).hostMem = s.hostMem := rfl
@[simp] theorem State.modBrush_banks : (s.modBrush c b f).banks = s.banks := rfl
@[simp] theorem State.modBrush_mcNew : (s.modBrush c b f).mcNew = s.mcNew := rfl
@[simp] theorem State.modBrush_frameErr : (s.modBrush c b f).frameErr = s.frameErr := rfl
@[simp] theorem State.modBrush_remap : (s.modBrush c b f).remap = s.remap := rfl
@[simp] theorem State.modBrush_outCores : (s.modBrush c b f).outCores = s.outCores := rfl
@[simp] theorem State.modBrush_pairs : (s.modBrush c b f).pairs = s.pairs := rfl
@[simp] theorem State.modBrush_panels : (s.modBrush c b f).panels = s.panels := rfl
@[simp] theorem State.modBrush_asleep : (s.modBrush c b f).asleep = s.asleep := rfl
@[simp] theorem State.modBrush_draining : (s.modBrush c b f).draining = s.draining := rfl
@[simp] theorem State.modBrush_stage : (s.modBrush c b f).stage = s.stage := rfl
@[simp] theorem State.modBrush_held : (s.modBrush c b f).held = s.held := rfl
@[simp] theorem State.modBrush_tried : (s.modBrush c b f).tried = s.tried := rfl
@[simp] theorem State.modBrush_ports : (s.modBrush c b f).ports = s.ports := rfl
@[simp] theorem State.modBrush_flits : (s.modBrush c b f).flits = s.flits := rfl
@[simp] theorem State.modBrush_meas : (s.modBrush c b f).meas = s.meas := rfl
@[simp] theorem State.modBrush_measLog : (s.modBrush c b f).measLog = s.measLog := rfl
@[simp] theorem State.modBrush_report : (s.modBrush c b f).report = s.report := rfl
@[simp] theorem State.modBrush_device : (s.modBrush c b f).device = s.device := rfl
@[simp] theorem State.modBrush_nonces : (s.modBrush c b f).nonces = s.nonces := rfl
@[simp] theorem State.modBrush_nonce : (s.modBrush c b f).nonce = s.nonce := rfl
@[simp] theorem State.modBrush_security : (s.modBrush c b f).security = s.security := rfl
@[simp] theorem State.modBrush_debug : (s.modBrush c b f).debug = s.debug := rfl
@[simp] theorem State.modBrush_debugPend : (s.modBrush c b f).debugPend = s.debugPend := rfl
@[simp] theorem State.modBrush_offPend : (s.modBrush c b f).offPend = s.offPend := rfl
@[simp] theorem State.modBrush_off : (s.modBrush c b f).off = s.off := rfl
@[simp] theorem State.modBrush_ideKey : (s.modBrush c b f).ideKey = s.ideKey := rfl
@[simp] theorem State.modBrush_msi : (s.modBrush c b f).msi = s.msi := rfl
@[simp] theorem State.modBrush_fatal : (s.modBrush c b f).fatal = s.fatal := rfl
@[simp] theorem State.modBrush_saves : (s.modBrush c b f).saves = s.saves := rfl
@[simp] theorem State.modBrush_hostReqs : (s.modBrush c b f).hostReqs = s.hostReqs := rfl
@[simp] theorem State.modBrush_hostHeld : (s.modBrush c b f).hostHeld = s.hostHeld := rfl
@[simp] theorem State.modBrush_repairs : (s.modBrush c b f).repairs = s.repairs := rfl
@[simp] theorem State.modBrush_hostRead : (s.modBrush c b f).hostRead = s.hostRead := rfl
@[simp] theorem State.modBrush_hostReadP : (s.modBrush c b f).hostReadP = s.hostReadP := rfl
@[simp] theorem State.modBrush_hostMsg : (s.modBrush c b f).hostMsg = s.hostMsg := rfl
@[simp] theorem State.modBrush_maint : (s.modBrush c b f).maint = s.maint := rfl
@[simp] theorem State.modBrush_bar : (s.modBrush c b f).bar = s.bar := rfl
@[simp] theorem State.modBrush_powerCapped : (s.modBrush c b f).powerCapped = s.powerCapped := rfl
@[simp] theorem State.modBrush_btdmP : (s.modBrush c b f).btdmP = s.btdmP := rfl
@[simp] theorem State.modBrush_btdm : (s.modBrush c b f).btdm = s.btdm := rfl
@[simp] theorem State.modBrush_btdmDom : (s.modBrush c b f).btdmDom = s.btdmDom := rfl
@[simp] theorem State.modBrush_fv : (s.modBrush c b f).fv = s.fv := rfl
@[simp] theorem State.modBrush_bridgeFaults : (s.modBrush c b f).bridgeFaults = s.bridgeFaults := rfl
@[simp] theorem State.modBrush_pulls : (s.modBrush c b f).pulls = s.pulls := rfl
@[simp] theorem State.modBrush_houseGaps : (s.modBrush c b f).houseGaps = s.houseGaps := rfl
@[simp] theorem State.modBrush_asks : (s.modBrush c b f).asks = s.asks := rfl
@[simp] theorem State.modBrush_answer : (s.modBrush c b f).answer = s.answer := rfl
@[simp] theorem State.modBrush_houseOff : (s.modBrush c b f).houseOff = s.houseOff := rfl
@[simp] theorem State.modBrush_fw : (s.modBrush c b f).fw = s.fw := rfl
@[simp] theorem State.modBrush_dbgHeld : (s.modBrush c b f).dbgHeld = s.dbgHeld := rfl
@[simp] theorem State.modBrush_maintInt : (s.modBrush c b f).maintInt = s.maintInt := rfl
@[simp] theorem State.modBrush_maintAt : (s.modBrush c b f).maintAt = s.maintAt := rfl
@[simp] theorem State.modBrush_capPend : (s.modBrush c b f).capPend = s.capPend := rfl
@[simp] theorem State.modBrush_capBase : (s.modBrush c b f).capBase = s.capBase := rfl
@[simp] theorem State.modBrush_powerLimit : (s.modBrush c b f).powerLimit = s.powerLimit := rfl
@[simp] theorem State.modBrush_power : (s.modBrush c b f).power = s.power := rfl
@[simp] theorem State.modBrush_coolAt : (s.modBrush c b f).coolAt = s.coolAt := rfl
end

/-! ### modRegion -/

section
variable (s : State) (g : Nat) (f : Region → Region)
@[simp] theorem State.modRegion_now : (s.modRegion g f).now = s.now := rfl
@[simp] theorem State.modRegion_house : (s.modRegion g f).house = s.house := rfl
@[simp] theorem State.modRegion_agenda : (s.modRegion g f).agenda = s.agenda := rfl
@[simp] theorem State.modRegion_cur : (s.modRegion g f).cur = s.cur := rfl
@[simp] theorem State.modRegion_busy : (s.modRegion g f).busy = s.busy := rfl
@[simp] theorem State.modRegion_inputs : (s.modRegion g f).inputs = s.inputs := rfl
@[simp] theorem State.modRegion_here : (s.modRegion g f).here = s.here := rfl
@[simp] theorem State.modRegion_srcRate : (s.modRegion g f).srcRate = s.srcRate := rfl
@[simp] theorem State.modRegion_srcPlan : (s.modRegion g f).srcPlan = s.srcPlan := rfl
@[simp] theorem State.modRegion_cores : (s.modRegion g f).cores = s.cores := rfl
@[simp] theorem State.modRegion_domains : (s.modRegion g f).domains = s.domains := rfl
@[simp] theorem State.modRegion_lanes : (s.modRegion g f).lanes = s.lanes := rfl
@[simp] theorem State.modRegion_xings : (s.modRegion g f).xings = s.xings := rfl
@[simp] theorem State.modRegion_pins : (s.modRegion g f).pins = s.pins := rfl
@[simp] theorem State.modRegion_pinOut : (s.modRegion g f).pinOut = s.pinOut := rfl
@[simp] theorem State.modRegion_houseSrc : (s.modRegion g f).houseSrc = s.houseSrc := rfl
@[simp] theorem State.modRegion_queues : (s.modRegion g f).queues = s.queues := rfl
@[simp] theorem State.modRegion_windows : (s.modRegion g f).windows = s.windows := rfl
@[simp] theorem State.modRegion_events : (s.modRegion g f).events = s.events := rfl
@[simp] theorem State.modRegion_eventMsi : (s.modRegion g f).eventMsi = s.eventMsi := rfl
@[simp] theorem State.modRegion_pinTab : (s.modRegion g f).pinTab = s.pinTab := rfl
@[simp] theorem State.modRegion_tasks : (s.modRegion g f).tasks = s.tasks := rfl
@[simp] theorem State.modRegion_pool : (s.modRegion g f).pool = s.pool := rfl
@[simp] theorem State.modRegion_overflow : (s.modRegion g f).overflow = s.overflow := rfl
@[simp] theorem State.modRegion_overNext : (s.modRegion g f).overNext = s.overNext := rfl
@[simp] theorem State.modRegion_sittings : (s.modRegion g f).sittings = s.sittings := rfl
@[simp] theorem State.modRegion_turnQ : (s.modRegion g f).turnQ = s.turnQ := rfl
@[simp] theorem State.modRegion_hostMem : (s.modRegion g f).hostMem = s.hostMem := rfl
@[simp] theorem State.modRegion_banks : (s.modRegion g f).banks = s.banks := rfl
@[simp] theorem State.modRegion_mcNew : (s.modRegion g f).mcNew = s.mcNew := rfl
@[simp] theorem State.modRegion_frameErr : (s.modRegion g f).frameErr = s.frameErr := rfl
@[simp] theorem State.modRegion_remap : (s.modRegion g f).remap = s.remap := rfl
@[simp] theorem State.modRegion_outCores : (s.modRegion g f).outCores = s.outCores := rfl
@[simp] theorem State.modRegion_pairs : (s.modRegion g f).pairs = s.pairs := rfl
@[simp] theorem State.modRegion_panels : (s.modRegion g f).panels = s.panels := rfl
@[simp] theorem State.modRegion_asleep : (s.modRegion g f).asleep = s.asleep := rfl
@[simp] theorem State.modRegion_draining : (s.modRegion g f).draining = s.draining := rfl
@[simp] theorem State.modRegion_stage : (s.modRegion g f).stage = s.stage := rfl
@[simp] theorem State.modRegion_held : (s.modRegion g f).held = s.held := rfl
@[simp] theorem State.modRegion_tried : (s.modRegion g f).tried = s.tried := rfl
@[simp] theorem State.modRegion_ports : (s.modRegion g f).ports = s.ports := rfl
@[simp] theorem State.modRegion_flits : (s.modRegion g f).flits = s.flits := rfl
@[simp] theorem State.modRegion_meas : (s.modRegion g f).meas = s.meas := rfl
@[simp] theorem State.modRegion_measLog : (s.modRegion g f).measLog = s.measLog := rfl
@[simp] theorem State.modRegion_report : (s.modRegion g f).report = s.report := rfl
@[simp] theorem State.modRegion_device : (s.modRegion g f).device = s.device := rfl
@[simp] theorem State.modRegion_nonces : (s.modRegion g f).nonces = s.nonces := rfl
@[simp] theorem State.modRegion_nonce : (s.modRegion g f).nonce = s.nonce := rfl
@[simp] theorem State.modRegion_security : (s.modRegion g f).security = s.security := rfl
@[simp] theorem State.modRegion_debug : (s.modRegion g f).debug = s.debug := rfl
@[simp] theorem State.modRegion_debugPend : (s.modRegion g f).debugPend = s.debugPend := rfl
@[simp] theorem State.modRegion_offPend : (s.modRegion g f).offPend = s.offPend := rfl
@[simp] theorem State.modRegion_off : (s.modRegion g f).off = s.off := rfl
@[simp] theorem State.modRegion_ideKey : (s.modRegion g f).ideKey = s.ideKey := rfl
@[simp] theorem State.modRegion_msi : (s.modRegion g f).msi = s.msi := rfl
@[simp] theorem State.modRegion_fatal : (s.modRegion g f).fatal = s.fatal := rfl
@[simp] theorem State.modRegion_saves : (s.modRegion g f).saves = s.saves := rfl
@[simp] theorem State.modRegion_hostReqs : (s.modRegion g f).hostReqs = s.hostReqs := rfl
@[simp] theorem State.modRegion_hostHeld : (s.modRegion g f).hostHeld = s.hostHeld := rfl
@[simp] theorem State.modRegion_repairs : (s.modRegion g f).repairs = s.repairs := rfl
@[simp] theorem State.modRegion_hostRead : (s.modRegion g f).hostRead = s.hostRead := rfl
@[simp] theorem State.modRegion_hostReadP : (s.modRegion g f).hostReadP = s.hostReadP := rfl
@[simp] theorem State.modRegion_hostMsg : (s.modRegion g f).hostMsg = s.hostMsg := rfl
@[simp] theorem State.modRegion_maint : (s.modRegion g f).maint = s.maint := rfl
@[simp] theorem State.modRegion_bar : (s.modRegion g f).bar = s.bar := rfl
@[simp] theorem State.modRegion_powerCapped : (s.modRegion g f).powerCapped = s.powerCapped := rfl
@[simp] theorem State.modRegion_btdmP : (s.modRegion g f).btdmP = s.btdmP := rfl
@[simp] theorem State.modRegion_btdm : (s.modRegion g f).btdm = s.btdm := rfl
@[simp] theorem State.modRegion_btdmDom : (s.modRegion g f).btdmDom = s.btdmDom := rfl
@[simp] theorem State.modRegion_fv : (s.modRegion g f).fv = s.fv := rfl
@[simp] theorem State.modRegion_bridgeFaults : (s.modRegion g f).bridgeFaults = s.bridgeFaults := rfl
@[simp] theorem State.modRegion_pulls : (s.modRegion g f).pulls = s.pulls := rfl
@[simp] theorem State.modRegion_houseGaps : (s.modRegion g f).houseGaps = s.houseGaps := rfl
@[simp] theorem State.modRegion_asks : (s.modRegion g f).asks = s.asks := rfl
@[simp] theorem State.modRegion_answer : (s.modRegion g f).answer = s.answer := rfl
@[simp] theorem State.modRegion_houseOff : (s.modRegion g f).houseOff = s.houseOff := rfl
@[simp] theorem State.modRegion_fw : (s.modRegion g f).fw = s.fw := rfl
@[simp] theorem State.modRegion_dbgHeld : (s.modRegion g f).dbgHeld = s.dbgHeld := rfl
@[simp] theorem State.modRegion_maintInt : (s.modRegion g f).maintInt = s.maintInt := rfl
@[simp] theorem State.modRegion_maintAt : (s.modRegion g f).maintAt = s.maintAt := rfl
@[simp] theorem State.modRegion_capPend : (s.modRegion g f).capPend = s.capPend := rfl
@[simp] theorem State.modRegion_capBase : (s.modRegion g f).capBase = s.capBase := rfl
@[simp] theorem State.modRegion_powerLimit : (s.modRegion g f).powerLimit = s.powerLimit := rfl
@[simp] theorem State.modRegion_power : (s.modRegion g f).power = s.power := rfl
@[simp] theorem State.modRegion_coolAt : (s.modRegion g f).coolAt = s.coolAt := rfl
end

/-! ### modDomain -/

section
variable (s : State) (d : Nat) (f : Domain → Domain)
@[simp] theorem State.modDomain_now : (s.modDomain d f).now = s.now := rfl
@[simp] theorem State.modDomain_house : (s.modDomain d f).house = s.house := rfl
@[simp] theorem State.modDomain_agenda : (s.modDomain d f).agenda = s.agenda := rfl
@[simp] theorem State.modDomain_cur : (s.modDomain d f).cur = s.cur := rfl
@[simp] theorem State.modDomain_busy : (s.modDomain d f).busy = s.busy := rfl
@[simp] theorem State.modDomain_inputs : (s.modDomain d f).inputs = s.inputs := rfl
@[simp] theorem State.modDomain_here : (s.modDomain d f).here = s.here := rfl
@[simp] theorem State.modDomain_srcRate : (s.modDomain d f).srcRate = s.srcRate := rfl
@[simp] theorem State.modDomain_srcPlan : (s.modDomain d f).srcPlan = s.srcPlan := rfl
@[simp] theorem State.modDomain_cores : (s.modDomain d f).cores = s.cores := rfl
@[simp] theorem State.modDomain_regions : (s.modDomain d f).regions = s.regions := rfl
@[simp] theorem State.modDomain_lanes : (s.modDomain d f).lanes = s.lanes := rfl
@[simp] theorem State.modDomain_xings : (s.modDomain d f).xings = s.xings := rfl
@[simp] theorem State.modDomain_pins : (s.modDomain d f).pins = s.pins := rfl
@[simp] theorem State.modDomain_pinOut : (s.modDomain d f).pinOut = s.pinOut := rfl
@[simp] theorem State.modDomain_houseSrc : (s.modDomain d f).houseSrc = s.houseSrc := rfl
@[simp] theorem State.modDomain_queues : (s.modDomain d f).queues = s.queues := rfl
@[simp] theorem State.modDomain_windows : (s.modDomain d f).windows = s.windows := rfl
@[simp] theorem State.modDomain_events : (s.modDomain d f).events = s.events := rfl
@[simp] theorem State.modDomain_eventMsi : (s.modDomain d f).eventMsi = s.eventMsi := rfl
@[simp] theorem State.modDomain_pinTab : (s.modDomain d f).pinTab = s.pinTab := rfl
@[simp] theorem State.modDomain_tasks : (s.modDomain d f).tasks = s.tasks := rfl
@[simp] theorem State.modDomain_pool : (s.modDomain d f).pool = s.pool := rfl
@[simp] theorem State.modDomain_overflow : (s.modDomain d f).overflow = s.overflow := rfl
@[simp] theorem State.modDomain_overNext : (s.modDomain d f).overNext = s.overNext := rfl
@[simp] theorem State.modDomain_sittings : (s.modDomain d f).sittings = s.sittings := rfl
@[simp] theorem State.modDomain_turnQ : (s.modDomain d f).turnQ = s.turnQ := rfl
@[simp] theorem State.modDomain_hostMem : (s.modDomain d f).hostMem = s.hostMem := rfl
@[simp] theorem State.modDomain_banks : (s.modDomain d f).banks = s.banks := rfl
@[simp] theorem State.modDomain_mcNew : (s.modDomain d f).mcNew = s.mcNew := rfl
@[simp] theorem State.modDomain_frameErr : (s.modDomain d f).frameErr = s.frameErr := rfl
@[simp] theorem State.modDomain_remap : (s.modDomain d f).remap = s.remap := rfl
@[simp] theorem State.modDomain_outCores : (s.modDomain d f).outCores = s.outCores := rfl
@[simp] theorem State.modDomain_pairs : (s.modDomain d f).pairs = s.pairs := rfl
@[simp] theorem State.modDomain_panels : (s.modDomain d f).panels = s.panels := rfl
@[simp] theorem State.modDomain_asleep : (s.modDomain d f).asleep = s.asleep := rfl
@[simp] theorem State.modDomain_draining : (s.modDomain d f).draining = s.draining := rfl
@[simp] theorem State.modDomain_stage : (s.modDomain d f).stage = s.stage := rfl
@[simp] theorem State.modDomain_held : (s.modDomain d f).held = s.held := rfl
@[simp] theorem State.modDomain_tried : (s.modDomain d f).tried = s.tried := rfl
@[simp] theorem State.modDomain_ports : (s.modDomain d f).ports = s.ports := rfl
@[simp] theorem State.modDomain_flits : (s.modDomain d f).flits = s.flits := rfl
@[simp] theorem State.modDomain_meas : (s.modDomain d f).meas = s.meas := rfl
@[simp] theorem State.modDomain_measLog : (s.modDomain d f).measLog = s.measLog := rfl
@[simp] theorem State.modDomain_report : (s.modDomain d f).report = s.report := rfl
@[simp] theorem State.modDomain_device : (s.modDomain d f).device = s.device := rfl
@[simp] theorem State.modDomain_nonces : (s.modDomain d f).nonces = s.nonces := rfl
@[simp] theorem State.modDomain_nonce : (s.modDomain d f).nonce = s.nonce := rfl
@[simp] theorem State.modDomain_security : (s.modDomain d f).security = s.security := rfl
@[simp] theorem State.modDomain_debug : (s.modDomain d f).debug = s.debug := rfl
@[simp] theorem State.modDomain_debugPend : (s.modDomain d f).debugPend = s.debugPend := rfl
@[simp] theorem State.modDomain_offPend : (s.modDomain d f).offPend = s.offPend := rfl
@[simp] theorem State.modDomain_off : (s.modDomain d f).off = s.off := rfl
@[simp] theorem State.modDomain_ideKey : (s.modDomain d f).ideKey = s.ideKey := rfl
@[simp] theorem State.modDomain_msi : (s.modDomain d f).msi = s.msi := rfl
@[simp] theorem State.modDomain_fatal : (s.modDomain d f).fatal = s.fatal := rfl
@[simp] theorem State.modDomain_saves : (s.modDomain d f).saves = s.saves := rfl
@[simp] theorem State.modDomain_hostReqs : (s.modDomain d f).hostReqs = s.hostReqs := rfl
@[simp] theorem State.modDomain_hostHeld : (s.modDomain d f).hostHeld = s.hostHeld := rfl
@[simp] theorem State.modDomain_repairs : (s.modDomain d f).repairs = s.repairs := rfl
@[simp] theorem State.modDomain_hostRead : (s.modDomain d f).hostRead = s.hostRead := rfl
@[simp] theorem State.modDomain_hostReadP : (s.modDomain d f).hostReadP = s.hostReadP := rfl
@[simp] theorem State.modDomain_hostMsg : (s.modDomain d f).hostMsg = s.hostMsg := rfl
@[simp] theorem State.modDomain_maint : (s.modDomain d f).maint = s.maint := rfl
@[simp] theorem State.modDomain_bar : (s.modDomain d f).bar = s.bar := rfl
@[simp] theorem State.modDomain_powerCapped : (s.modDomain d f).powerCapped = s.powerCapped := rfl
@[simp] theorem State.modDomain_btdmP : (s.modDomain d f).btdmP = s.btdmP := rfl
@[simp] theorem State.modDomain_btdm : (s.modDomain d f).btdm = s.btdm := rfl
@[simp] theorem State.modDomain_btdmDom : (s.modDomain d f).btdmDom = s.btdmDom := rfl
@[simp] theorem State.modDomain_fv : (s.modDomain d f).fv = s.fv := rfl
@[simp] theorem State.modDomain_bridgeFaults : (s.modDomain d f).bridgeFaults = s.bridgeFaults := rfl
@[simp] theorem State.modDomain_pulls : (s.modDomain d f).pulls = s.pulls := rfl
@[simp] theorem State.modDomain_houseGaps : (s.modDomain d f).houseGaps = s.houseGaps := rfl
@[simp] theorem State.modDomain_asks : (s.modDomain d f).asks = s.asks := rfl
@[simp] theorem State.modDomain_answer : (s.modDomain d f).answer = s.answer := rfl
@[simp] theorem State.modDomain_houseOff : (s.modDomain d f).houseOff = s.houseOff := rfl
@[simp] theorem State.modDomain_fw : (s.modDomain d f).fw = s.fw := rfl
@[simp] theorem State.modDomain_dbgHeld : (s.modDomain d f).dbgHeld = s.dbgHeld := rfl
@[simp] theorem State.modDomain_maintInt : (s.modDomain d f).maintInt = s.maintInt := rfl
@[simp] theorem State.modDomain_maintAt : (s.modDomain d f).maintAt = s.maintAt := rfl
@[simp] theorem State.modDomain_capPend : (s.modDomain d f).capPend = s.capPend := rfl
@[simp] theorem State.modDomain_capBase : (s.modDomain d f).capBase = s.capBase := rfl
@[simp] theorem State.modDomain_powerLimit : (s.modDomain d f).powerLimit = s.powerLimit := rfl
@[simp] theorem State.modDomain_power : (s.modDomain d f).power = s.power := rfl
@[simp] theorem State.modDomain_coolAt : (s.modDomain d f).coolAt = s.coolAt := rfl
end

/-! ### modXing -/

section
variable (s : State) (i : Nat) (f : Crossing → Crossing)
@[simp] theorem State.modXing_now : (s.modXing i f).now = s.now := rfl
@[simp] theorem State.modXing_house : (s.modXing i f).house = s.house := rfl
@[simp] theorem State.modXing_agenda : (s.modXing i f).agenda = s.agenda := rfl
@[simp] theorem State.modXing_cur : (s.modXing i f).cur = s.cur := rfl
@[simp] theorem State.modXing_busy : (s.modXing i f).busy = s.busy := rfl
@[simp] theorem State.modXing_inputs : (s.modXing i f).inputs = s.inputs := rfl
@[simp] theorem State.modXing_here : (s.modXing i f).here = s.here := rfl
@[simp] theorem State.modXing_srcRate : (s.modXing i f).srcRate = s.srcRate := rfl
@[simp] theorem State.modXing_srcPlan : (s.modXing i f).srcPlan = s.srcPlan := rfl
@[simp] theorem State.modXing_cores : (s.modXing i f).cores = s.cores := rfl
@[simp] theorem State.modXing_regions : (s.modXing i f).regions = s.regions := rfl
@[simp] theorem State.modXing_domains : (s.modXing i f).domains = s.domains := rfl
@[simp] theorem State.modXing_lanes : (s.modXing i f).lanes = s.lanes := rfl
@[simp] theorem State.modXing_pins : (s.modXing i f).pins = s.pins := rfl
@[simp] theorem State.modXing_pinOut : (s.modXing i f).pinOut = s.pinOut := rfl
@[simp] theorem State.modXing_houseSrc : (s.modXing i f).houseSrc = s.houseSrc := rfl
@[simp] theorem State.modXing_queues : (s.modXing i f).queues = s.queues := rfl
@[simp] theorem State.modXing_windows : (s.modXing i f).windows = s.windows := rfl
@[simp] theorem State.modXing_events : (s.modXing i f).events = s.events := rfl
@[simp] theorem State.modXing_eventMsi : (s.modXing i f).eventMsi = s.eventMsi := rfl
@[simp] theorem State.modXing_pinTab : (s.modXing i f).pinTab = s.pinTab := rfl
@[simp] theorem State.modXing_tasks : (s.modXing i f).tasks = s.tasks := rfl
@[simp] theorem State.modXing_pool : (s.modXing i f).pool = s.pool := rfl
@[simp] theorem State.modXing_overflow : (s.modXing i f).overflow = s.overflow := rfl
@[simp] theorem State.modXing_overNext : (s.modXing i f).overNext = s.overNext := rfl
@[simp] theorem State.modXing_sittings : (s.modXing i f).sittings = s.sittings := rfl
@[simp] theorem State.modXing_turnQ : (s.modXing i f).turnQ = s.turnQ := rfl
@[simp] theorem State.modXing_hostMem : (s.modXing i f).hostMem = s.hostMem := rfl
@[simp] theorem State.modXing_banks : (s.modXing i f).banks = s.banks := rfl
@[simp] theorem State.modXing_mcNew : (s.modXing i f).mcNew = s.mcNew := rfl
@[simp] theorem State.modXing_frameErr : (s.modXing i f).frameErr = s.frameErr := rfl
@[simp] theorem State.modXing_remap : (s.modXing i f).remap = s.remap := rfl
@[simp] theorem State.modXing_outCores : (s.modXing i f).outCores = s.outCores := rfl
@[simp] theorem State.modXing_pairs : (s.modXing i f).pairs = s.pairs := rfl
@[simp] theorem State.modXing_panels : (s.modXing i f).panels = s.panels := rfl
@[simp] theorem State.modXing_asleep : (s.modXing i f).asleep = s.asleep := rfl
@[simp] theorem State.modXing_draining : (s.modXing i f).draining = s.draining := rfl
@[simp] theorem State.modXing_stage : (s.modXing i f).stage = s.stage := rfl
@[simp] theorem State.modXing_held : (s.modXing i f).held = s.held := rfl
@[simp] theorem State.modXing_tried : (s.modXing i f).tried = s.tried := rfl
@[simp] theorem State.modXing_ports : (s.modXing i f).ports = s.ports := rfl
@[simp] theorem State.modXing_flits : (s.modXing i f).flits = s.flits := rfl
@[simp] theorem State.modXing_meas : (s.modXing i f).meas = s.meas := rfl
@[simp] theorem State.modXing_measLog : (s.modXing i f).measLog = s.measLog := rfl
@[simp] theorem State.modXing_report : (s.modXing i f).report = s.report := rfl
@[simp] theorem State.modXing_device : (s.modXing i f).device = s.device := rfl
@[simp] theorem State.modXing_nonces : (s.modXing i f).nonces = s.nonces := rfl
@[simp] theorem State.modXing_nonce : (s.modXing i f).nonce = s.nonce := rfl
@[simp] theorem State.modXing_security : (s.modXing i f).security = s.security := rfl
@[simp] theorem State.modXing_debug : (s.modXing i f).debug = s.debug := rfl
@[simp] theorem State.modXing_debugPend : (s.modXing i f).debugPend = s.debugPend := rfl
@[simp] theorem State.modXing_offPend : (s.modXing i f).offPend = s.offPend := rfl
@[simp] theorem State.modXing_off : (s.modXing i f).off = s.off := rfl
@[simp] theorem State.modXing_ideKey : (s.modXing i f).ideKey = s.ideKey := rfl
@[simp] theorem State.modXing_msi : (s.modXing i f).msi = s.msi := rfl
@[simp] theorem State.modXing_fatal : (s.modXing i f).fatal = s.fatal := rfl
@[simp] theorem State.modXing_saves : (s.modXing i f).saves = s.saves := rfl
@[simp] theorem State.modXing_hostReqs : (s.modXing i f).hostReqs = s.hostReqs := rfl
@[simp] theorem State.modXing_hostHeld : (s.modXing i f).hostHeld = s.hostHeld := rfl
@[simp] theorem State.modXing_repairs : (s.modXing i f).repairs = s.repairs := rfl
@[simp] theorem State.modXing_hostRead : (s.modXing i f).hostRead = s.hostRead := rfl
@[simp] theorem State.modXing_hostReadP : (s.modXing i f).hostReadP = s.hostReadP := rfl
@[simp] theorem State.modXing_hostMsg : (s.modXing i f).hostMsg = s.hostMsg := rfl
@[simp] theorem State.modXing_maint : (s.modXing i f).maint = s.maint := rfl
@[simp] theorem State.modXing_bar : (s.modXing i f).bar = s.bar := rfl
@[simp] theorem State.modXing_powerCapped : (s.modXing i f).powerCapped = s.powerCapped := rfl
@[simp] theorem State.modXing_btdmP : (s.modXing i f).btdmP = s.btdmP := rfl
@[simp] theorem State.modXing_btdm : (s.modXing i f).btdm = s.btdm := rfl
@[simp] theorem State.modXing_btdmDom : (s.modXing i f).btdmDom = s.btdmDom := rfl
@[simp] theorem State.modXing_fv : (s.modXing i f).fv = s.fv := rfl
@[simp] theorem State.modXing_bridgeFaults : (s.modXing i f).bridgeFaults = s.bridgeFaults := rfl
@[simp] theorem State.modXing_pulls : (s.modXing i f).pulls = s.pulls := rfl
@[simp] theorem State.modXing_houseGaps : (s.modXing i f).houseGaps = s.houseGaps := rfl
@[simp] theorem State.modXing_asks : (s.modXing i f).asks = s.asks := rfl
@[simp] theorem State.modXing_answer : (s.modXing i f).answer = s.answer := rfl
@[simp] theorem State.modXing_houseOff : (s.modXing i f).houseOff = s.houseOff := rfl
@[simp] theorem State.modXing_fw : (s.modXing i f).fw = s.fw := rfl
@[simp] theorem State.modXing_dbgHeld : (s.modXing i f).dbgHeld = s.dbgHeld := rfl
@[simp] theorem State.modXing_maintInt : (s.modXing i f).maintInt = s.maintInt := rfl
@[simp] theorem State.modXing_maintAt : (s.modXing i f).maintAt = s.maintAt := rfl
@[simp] theorem State.modXing_capPend : (s.modXing i f).capPend = s.capPend := rfl
@[simp] theorem State.modXing_capBase : (s.modXing i f).capBase = s.capBase := rfl
@[simp] theorem State.modXing_powerLimit : (s.modXing i f).powerLimit = s.powerLimit := rfl
@[simp] theorem State.modXing_power : (s.modXing i f).power = s.power := rfl
@[simp] theorem State.modXing_coolAt : (s.modXing i f).coolAt = s.coolAt := rfl
end

/-! ### modQueue -/

section
variable (s : State) (q : Nat) (f : Queue → Queue)
@[simp] theorem State.modQueue_now : (s.modQueue q f).now = s.now := rfl
@[simp] theorem State.modQueue_house : (s.modQueue q f).house = s.house := rfl
@[simp] theorem State.modQueue_agenda : (s.modQueue q f).agenda = s.agenda := rfl
@[simp] theorem State.modQueue_cur : (s.modQueue q f).cur = s.cur := rfl
@[simp] theorem State.modQueue_busy : (s.modQueue q f).busy = s.busy := rfl
@[simp] theorem State.modQueue_inputs : (s.modQueue q f).inputs = s.inputs := rfl
@[simp] theorem State.modQueue_here : (s.modQueue q f).here = s.here := rfl
@[simp] theorem State.modQueue_srcRate : (s.modQueue q f).srcRate = s.srcRate := rfl
@[simp] theorem State.modQueue_srcPlan : (s.modQueue q f).srcPlan = s.srcPlan := rfl
@[simp] theorem State.modQueue_cores : (s.modQueue q f).cores = s.cores := rfl
@[simp] theorem State.modQueue_regions : (s.modQueue q f).regions = s.regions := rfl
@[simp] theorem State.modQueue_domains : (s.modQueue q f).domains = s.domains := rfl
@[simp] theorem State.modQueue_lanes : (s.modQueue q f).lanes = s.lanes := rfl
@[simp] theorem State.modQueue_xings : (s.modQueue q f).xings = s.xings := rfl
@[simp] theorem State.modQueue_pins : (s.modQueue q f).pins = s.pins := rfl
@[simp] theorem State.modQueue_pinOut : (s.modQueue q f).pinOut = s.pinOut := rfl
@[simp] theorem State.modQueue_houseSrc : (s.modQueue q f).houseSrc = s.houseSrc := rfl
@[simp] theorem State.modQueue_windows : (s.modQueue q f).windows = s.windows := rfl
@[simp] theorem State.modQueue_events : (s.modQueue q f).events = s.events := rfl
@[simp] theorem State.modQueue_eventMsi : (s.modQueue q f).eventMsi = s.eventMsi := rfl
@[simp] theorem State.modQueue_pinTab : (s.modQueue q f).pinTab = s.pinTab := rfl
@[simp] theorem State.modQueue_tasks : (s.modQueue q f).tasks = s.tasks := rfl
@[simp] theorem State.modQueue_pool : (s.modQueue q f).pool = s.pool := rfl
@[simp] theorem State.modQueue_overflow : (s.modQueue q f).overflow = s.overflow := rfl
@[simp] theorem State.modQueue_overNext : (s.modQueue q f).overNext = s.overNext := rfl
@[simp] theorem State.modQueue_sittings : (s.modQueue q f).sittings = s.sittings := rfl
@[simp] theorem State.modQueue_turnQ : (s.modQueue q f).turnQ = s.turnQ := rfl
@[simp] theorem State.modQueue_hostMem : (s.modQueue q f).hostMem = s.hostMem := rfl
@[simp] theorem State.modQueue_banks : (s.modQueue q f).banks = s.banks := rfl
@[simp] theorem State.modQueue_mcNew : (s.modQueue q f).mcNew = s.mcNew := rfl
@[simp] theorem State.modQueue_frameErr : (s.modQueue q f).frameErr = s.frameErr := rfl
@[simp] theorem State.modQueue_remap : (s.modQueue q f).remap = s.remap := rfl
@[simp] theorem State.modQueue_outCores : (s.modQueue q f).outCores = s.outCores := rfl
@[simp] theorem State.modQueue_pairs : (s.modQueue q f).pairs = s.pairs := rfl
@[simp] theorem State.modQueue_panels : (s.modQueue q f).panels = s.panels := rfl
@[simp] theorem State.modQueue_asleep : (s.modQueue q f).asleep = s.asleep := rfl
@[simp] theorem State.modQueue_draining : (s.modQueue q f).draining = s.draining := rfl
@[simp] theorem State.modQueue_stage : (s.modQueue q f).stage = s.stage := rfl
@[simp] theorem State.modQueue_held : (s.modQueue q f).held = s.held := rfl
@[simp] theorem State.modQueue_tried : (s.modQueue q f).tried = s.tried := rfl
@[simp] theorem State.modQueue_ports : (s.modQueue q f).ports = s.ports := rfl
@[simp] theorem State.modQueue_flits : (s.modQueue q f).flits = s.flits := rfl
@[simp] theorem State.modQueue_meas : (s.modQueue q f).meas = s.meas := rfl
@[simp] theorem State.modQueue_measLog : (s.modQueue q f).measLog = s.measLog := rfl
@[simp] theorem State.modQueue_report : (s.modQueue q f).report = s.report := rfl
@[simp] theorem State.modQueue_device : (s.modQueue q f).device = s.device := rfl
@[simp] theorem State.modQueue_nonces : (s.modQueue q f).nonces = s.nonces := rfl
@[simp] theorem State.modQueue_nonce : (s.modQueue q f).nonce = s.nonce := rfl
@[simp] theorem State.modQueue_security : (s.modQueue q f).security = s.security := rfl
@[simp] theorem State.modQueue_debug : (s.modQueue q f).debug = s.debug := rfl
@[simp] theorem State.modQueue_debugPend : (s.modQueue q f).debugPend = s.debugPend := rfl
@[simp] theorem State.modQueue_offPend : (s.modQueue q f).offPend = s.offPend := rfl
@[simp] theorem State.modQueue_off : (s.modQueue q f).off = s.off := rfl
@[simp] theorem State.modQueue_ideKey : (s.modQueue q f).ideKey = s.ideKey := rfl
@[simp] theorem State.modQueue_msi : (s.modQueue q f).msi = s.msi := rfl
@[simp] theorem State.modQueue_fatal : (s.modQueue q f).fatal = s.fatal := rfl
@[simp] theorem State.modQueue_saves : (s.modQueue q f).saves = s.saves := rfl
@[simp] theorem State.modQueue_hostReqs : (s.modQueue q f).hostReqs = s.hostReqs := rfl
@[simp] theorem State.modQueue_hostHeld : (s.modQueue q f).hostHeld = s.hostHeld := rfl
@[simp] theorem State.modQueue_repairs : (s.modQueue q f).repairs = s.repairs := rfl
@[simp] theorem State.modQueue_hostRead : (s.modQueue q f).hostRead = s.hostRead := rfl
@[simp] theorem State.modQueue_hostReadP : (s.modQueue q f).hostReadP = s.hostReadP := rfl
@[simp] theorem State.modQueue_hostMsg : (s.modQueue q f).hostMsg = s.hostMsg := rfl
@[simp] theorem State.modQueue_maint : (s.modQueue q f).maint = s.maint := rfl
@[simp] theorem State.modQueue_bar : (s.modQueue q f).bar = s.bar := rfl
@[simp] theorem State.modQueue_powerCapped : (s.modQueue q f).powerCapped = s.powerCapped := rfl
@[simp] theorem State.modQueue_btdmP : (s.modQueue q f).btdmP = s.btdmP := rfl
@[simp] theorem State.modQueue_btdm : (s.modQueue q f).btdm = s.btdm := rfl
@[simp] theorem State.modQueue_btdmDom : (s.modQueue q f).btdmDom = s.btdmDom := rfl
@[simp] theorem State.modQueue_fv : (s.modQueue q f).fv = s.fv := rfl
@[simp] theorem State.modQueue_bridgeFaults : (s.modQueue q f).bridgeFaults = s.bridgeFaults := rfl
@[simp] theorem State.modQueue_pulls : (s.modQueue q f).pulls = s.pulls := rfl
@[simp] theorem State.modQueue_houseGaps : (s.modQueue q f).houseGaps = s.houseGaps := rfl
@[simp] theorem State.modQueue_asks : (s.modQueue q f).asks = s.asks := rfl
@[simp] theorem State.modQueue_answer : (s.modQueue q f).answer = s.answer := rfl
@[simp] theorem State.modQueue_houseOff : (s.modQueue q f).houseOff = s.houseOff := rfl
@[simp] theorem State.modQueue_fw : (s.modQueue q f).fw = s.fw := rfl
@[simp] theorem State.modQueue_dbgHeld : (s.modQueue q f).dbgHeld = s.dbgHeld := rfl
@[simp] theorem State.modQueue_maintInt : (s.modQueue q f).maintInt = s.maintInt := rfl
@[simp] theorem State.modQueue_maintAt : (s.modQueue q f).maintAt = s.maintAt := rfl
@[simp] theorem State.modQueue_capPend : (s.modQueue q f).capPend = s.capPend := rfl
@[simp] theorem State.modQueue_capBase : (s.modQueue q f).capBase = s.capBase := rfl
@[simp] theorem State.modQueue_powerLimit : (s.modQueue q f).powerLimit = s.powerLimit := rfl
@[simp] theorem State.modQueue_power : (s.modQueue q f).power = s.power := rfl
@[simp] theorem State.modQueue_coolAt : (s.modQueue q f).coolAt = s.coolAt := rfl
end

/-! ### modPort -/

section
variable (s : State) (p : Nat) (f : Port → Port)
@[simp] theorem State.modPort_now : (s.modPort p f).now = s.now := rfl
@[simp] theorem State.modPort_house : (s.modPort p f).house = s.house := rfl
@[simp] theorem State.modPort_agenda : (s.modPort p f).agenda = s.agenda := rfl
@[simp] theorem State.modPort_cur : (s.modPort p f).cur = s.cur := rfl
@[simp] theorem State.modPort_busy : (s.modPort p f).busy = s.busy := rfl
@[simp] theorem State.modPort_inputs : (s.modPort p f).inputs = s.inputs := rfl
@[simp] theorem State.modPort_here : (s.modPort p f).here = s.here := rfl
@[simp] theorem State.modPort_srcRate : (s.modPort p f).srcRate = s.srcRate := rfl
@[simp] theorem State.modPort_srcPlan : (s.modPort p f).srcPlan = s.srcPlan := rfl
@[simp] theorem State.modPort_cores : (s.modPort p f).cores = s.cores := rfl
@[simp] theorem State.modPort_regions : (s.modPort p f).regions = s.regions := rfl
@[simp] theorem State.modPort_domains : (s.modPort p f).domains = s.domains := rfl
@[simp] theorem State.modPort_lanes : (s.modPort p f).lanes = s.lanes := rfl
@[simp] theorem State.modPort_xings : (s.modPort p f).xings = s.xings := rfl
@[simp] theorem State.modPort_pins : (s.modPort p f).pins = s.pins := rfl
@[simp] theorem State.modPort_pinOut : (s.modPort p f).pinOut = s.pinOut := rfl
@[simp] theorem State.modPort_houseSrc : (s.modPort p f).houseSrc = s.houseSrc := rfl
@[simp] theorem State.modPort_queues : (s.modPort p f).queues = s.queues := rfl
@[simp] theorem State.modPort_windows : (s.modPort p f).windows = s.windows := rfl
@[simp] theorem State.modPort_events : (s.modPort p f).events = s.events := rfl
@[simp] theorem State.modPort_eventMsi : (s.modPort p f).eventMsi = s.eventMsi := rfl
@[simp] theorem State.modPort_pinTab : (s.modPort p f).pinTab = s.pinTab := rfl
@[simp] theorem State.modPort_tasks : (s.modPort p f).tasks = s.tasks := rfl
@[simp] theorem State.modPort_pool : (s.modPort p f).pool = s.pool := rfl
@[simp] theorem State.modPort_overflow : (s.modPort p f).overflow = s.overflow := rfl
@[simp] theorem State.modPort_overNext : (s.modPort p f).overNext = s.overNext := rfl
@[simp] theorem State.modPort_sittings : (s.modPort p f).sittings = s.sittings := rfl
@[simp] theorem State.modPort_turnQ : (s.modPort p f).turnQ = s.turnQ := rfl
@[simp] theorem State.modPort_hostMem : (s.modPort p f).hostMem = s.hostMem := rfl
@[simp] theorem State.modPort_banks : (s.modPort p f).banks = s.banks := rfl
@[simp] theorem State.modPort_mcNew : (s.modPort p f).mcNew = s.mcNew := rfl
@[simp] theorem State.modPort_frameErr : (s.modPort p f).frameErr = s.frameErr := rfl
@[simp] theorem State.modPort_remap : (s.modPort p f).remap = s.remap := rfl
@[simp] theorem State.modPort_outCores : (s.modPort p f).outCores = s.outCores := rfl
@[simp] theorem State.modPort_pairs : (s.modPort p f).pairs = s.pairs := rfl
@[simp] theorem State.modPort_panels : (s.modPort p f).panels = s.panels := rfl
@[simp] theorem State.modPort_asleep : (s.modPort p f).asleep = s.asleep := rfl
@[simp] theorem State.modPort_draining : (s.modPort p f).draining = s.draining := rfl
@[simp] theorem State.modPort_stage : (s.modPort p f).stage = s.stage := rfl
@[simp] theorem State.modPort_held : (s.modPort p f).held = s.held := rfl
@[simp] theorem State.modPort_tried : (s.modPort p f).tried = s.tried := rfl
@[simp] theorem State.modPort_flits : (s.modPort p f).flits = s.flits := rfl
@[simp] theorem State.modPort_meas : (s.modPort p f).meas = s.meas := rfl
@[simp] theorem State.modPort_measLog : (s.modPort p f).measLog = s.measLog := rfl
@[simp] theorem State.modPort_report : (s.modPort p f).report = s.report := rfl
@[simp] theorem State.modPort_device : (s.modPort p f).device = s.device := rfl
@[simp] theorem State.modPort_nonces : (s.modPort p f).nonces = s.nonces := rfl
@[simp] theorem State.modPort_nonce : (s.modPort p f).nonce = s.nonce := rfl
@[simp] theorem State.modPort_security : (s.modPort p f).security = s.security := rfl
@[simp] theorem State.modPort_debug : (s.modPort p f).debug = s.debug := rfl
@[simp] theorem State.modPort_debugPend : (s.modPort p f).debugPend = s.debugPend := rfl
@[simp] theorem State.modPort_offPend : (s.modPort p f).offPend = s.offPend := rfl
@[simp] theorem State.modPort_off : (s.modPort p f).off = s.off := rfl
@[simp] theorem State.modPort_ideKey : (s.modPort p f).ideKey = s.ideKey := rfl
@[simp] theorem State.modPort_msi : (s.modPort p f).msi = s.msi := rfl
@[simp] theorem State.modPort_fatal : (s.modPort p f).fatal = s.fatal := rfl
@[simp] theorem State.modPort_saves : (s.modPort p f).saves = s.saves := rfl
@[simp] theorem State.modPort_hostReqs : (s.modPort p f).hostReqs = s.hostReqs := rfl
@[simp] theorem State.modPort_hostHeld : (s.modPort p f).hostHeld = s.hostHeld := rfl
@[simp] theorem State.modPort_repairs : (s.modPort p f).repairs = s.repairs := rfl
@[simp] theorem State.modPort_hostRead : (s.modPort p f).hostRead = s.hostRead := rfl
@[simp] theorem State.modPort_hostReadP : (s.modPort p f).hostReadP = s.hostReadP := rfl
@[simp] theorem State.modPort_hostMsg : (s.modPort p f).hostMsg = s.hostMsg := rfl
@[simp] theorem State.modPort_maint : (s.modPort p f).maint = s.maint := rfl
@[simp] theorem State.modPort_bar : (s.modPort p f).bar = s.bar := rfl
@[simp] theorem State.modPort_powerCapped : (s.modPort p f).powerCapped = s.powerCapped := rfl
@[simp] theorem State.modPort_btdmP : (s.modPort p f).btdmP = s.btdmP := rfl
@[simp] theorem State.modPort_btdm : (s.modPort p f).btdm = s.btdm := rfl
@[simp] theorem State.modPort_btdmDom : (s.modPort p f).btdmDom = s.btdmDom := rfl
@[simp] theorem State.modPort_fv : (s.modPort p f).fv = s.fv := rfl
@[simp] theorem State.modPort_bridgeFaults : (s.modPort p f).bridgeFaults = s.bridgeFaults := rfl
@[simp] theorem State.modPort_pulls : (s.modPort p f).pulls = s.pulls := rfl
@[simp] theorem State.modPort_houseGaps : (s.modPort p f).houseGaps = s.houseGaps := rfl
@[simp] theorem State.modPort_asks : (s.modPort p f).asks = s.asks := rfl
@[simp] theorem State.modPort_answer : (s.modPort p f).answer = s.answer := rfl
@[simp] theorem State.modPort_houseOff : (s.modPort p f).houseOff = s.houseOff := rfl
@[simp] theorem State.modPort_fw : (s.modPort p f).fw = s.fw := rfl
@[simp] theorem State.modPort_dbgHeld : (s.modPort p f).dbgHeld = s.dbgHeld := rfl
@[simp] theorem State.modPort_maintInt : (s.modPort p f).maintInt = s.maintInt := rfl
@[simp] theorem State.modPort_maintAt : (s.modPort p f).maintAt = s.maintAt := rfl
@[simp] theorem State.modPort_capPend : (s.modPort p f).capPend = s.capPend := rfl
@[simp] theorem State.modPort_capBase : (s.modPort p f).capBase = s.capBase := rfl
@[simp] theorem State.modPort_powerLimit : (s.modPort p f).powerLimit = s.powerLimit := rfl
@[simp] theorem State.modPort_power : (s.modPort p f).power = s.power := rfl
@[simp] theorem State.modPort_coolAt : (s.modPort p f).coolAt = s.coolAt := rfl
end

/-! ### modSitting -/

section
variable (s : State) (c : Nat) (f : Sitting → Sitting)
@[simp] theorem State.modSitting_now : (s.modSitting c f).now = s.now := rfl
@[simp] theorem State.modSitting_house : (s.modSitting c f).house = s.house := rfl
@[simp] theorem State.modSitting_agenda : (s.modSitting c f).agenda = s.agenda := rfl
@[simp] theorem State.modSitting_cur : (s.modSitting c f).cur = s.cur := rfl
@[simp] theorem State.modSitting_busy : (s.modSitting c f).busy = s.busy := rfl
@[simp] theorem State.modSitting_inputs : (s.modSitting c f).inputs = s.inputs := rfl
@[simp] theorem State.modSitting_here : (s.modSitting c f).here = s.here := rfl
@[simp] theorem State.modSitting_srcRate : (s.modSitting c f).srcRate = s.srcRate := rfl
@[simp] theorem State.modSitting_srcPlan : (s.modSitting c f).srcPlan = s.srcPlan := rfl
@[simp] theorem State.modSitting_cores : (s.modSitting c f).cores = s.cores := rfl
@[simp] theorem State.modSitting_regions : (s.modSitting c f).regions = s.regions := rfl
@[simp] theorem State.modSitting_domains : (s.modSitting c f).domains = s.domains := rfl
@[simp] theorem State.modSitting_lanes : (s.modSitting c f).lanes = s.lanes := rfl
@[simp] theorem State.modSitting_xings : (s.modSitting c f).xings = s.xings := rfl
@[simp] theorem State.modSitting_pins : (s.modSitting c f).pins = s.pins := rfl
@[simp] theorem State.modSitting_pinOut : (s.modSitting c f).pinOut = s.pinOut := rfl
@[simp] theorem State.modSitting_houseSrc : (s.modSitting c f).houseSrc = s.houseSrc := rfl
@[simp] theorem State.modSitting_queues : (s.modSitting c f).queues = s.queues := rfl
@[simp] theorem State.modSitting_windows : (s.modSitting c f).windows = s.windows := rfl
@[simp] theorem State.modSitting_events : (s.modSitting c f).events = s.events := rfl
@[simp] theorem State.modSitting_eventMsi : (s.modSitting c f).eventMsi = s.eventMsi := rfl
@[simp] theorem State.modSitting_pinTab : (s.modSitting c f).pinTab = s.pinTab := rfl
@[simp] theorem State.modSitting_tasks : (s.modSitting c f).tasks = s.tasks := rfl
@[simp] theorem State.modSitting_pool : (s.modSitting c f).pool = s.pool := rfl
@[simp] theorem State.modSitting_overflow : (s.modSitting c f).overflow = s.overflow := rfl
@[simp] theorem State.modSitting_overNext : (s.modSitting c f).overNext = s.overNext := rfl
@[simp] theorem State.modSitting_turnQ : (s.modSitting c f).turnQ = s.turnQ := rfl
@[simp] theorem State.modSitting_hostMem : (s.modSitting c f).hostMem = s.hostMem := rfl
@[simp] theorem State.modSitting_banks : (s.modSitting c f).banks = s.banks := rfl
@[simp] theorem State.modSitting_mcNew : (s.modSitting c f).mcNew = s.mcNew := rfl
@[simp] theorem State.modSitting_frameErr : (s.modSitting c f).frameErr = s.frameErr := rfl
@[simp] theorem State.modSitting_remap : (s.modSitting c f).remap = s.remap := rfl
@[simp] theorem State.modSitting_outCores : (s.modSitting c f).outCores = s.outCores := rfl
@[simp] theorem State.modSitting_pairs : (s.modSitting c f).pairs = s.pairs := rfl
@[simp] theorem State.modSitting_panels : (s.modSitting c f).panels = s.panels := rfl
@[simp] theorem State.modSitting_asleep : (s.modSitting c f).asleep = s.asleep := rfl
@[simp] theorem State.modSitting_draining : (s.modSitting c f).draining = s.draining := rfl
@[simp] theorem State.modSitting_stage : (s.modSitting c f).stage = s.stage := rfl
@[simp] theorem State.modSitting_held : (s.modSitting c f).held = s.held := rfl
@[simp] theorem State.modSitting_tried : (s.modSitting c f).tried = s.tried := rfl
@[simp] theorem State.modSitting_ports : (s.modSitting c f).ports = s.ports := rfl
@[simp] theorem State.modSitting_flits : (s.modSitting c f).flits = s.flits := rfl
@[simp] theorem State.modSitting_meas : (s.modSitting c f).meas = s.meas := rfl
@[simp] theorem State.modSitting_measLog : (s.modSitting c f).measLog = s.measLog := rfl
@[simp] theorem State.modSitting_report : (s.modSitting c f).report = s.report := rfl
@[simp] theorem State.modSitting_device : (s.modSitting c f).device = s.device := rfl
@[simp] theorem State.modSitting_nonces : (s.modSitting c f).nonces = s.nonces := rfl
@[simp] theorem State.modSitting_nonce : (s.modSitting c f).nonce = s.nonce := rfl
@[simp] theorem State.modSitting_security : (s.modSitting c f).security = s.security := rfl
@[simp] theorem State.modSitting_debug : (s.modSitting c f).debug = s.debug := rfl
@[simp] theorem State.modSitting_debugPend : (s.modSitting c f).debugPend = s.debugPend := rfl
@[simp] theorem State.modSitting_offPend : (s.modSitting c f).offPend = s.offPend := rfl
@[simp] theorem State.modSitting_off : (s.modSitting c f).off = s.off := rfl
@[simp] theorem State.modSitting_ideKey : (s.modSitting c f).ideKey = s.ideKey := rfl
@[simp] theorem State.modSitting_msi : (s.modSitting c f).msi = s.msi := rfl
@[simp] theorem State.modSitting_fatal : (s.modSitting c f).fatal = s.fatal := rfl
@[simp] theorem State.modSitting_saves : (s.modSitting c f).saves = s.saves := rfl
@[simp] theorem State.modSitting_hostReqs : (s.modSitting c f).hostReqs = s.hostReqs := rfl
@[simp] theorem State.modSitting_hostHeld : (s.modSitting c f).hostHeld = s.hostHeld := rfl
@[simp] theorem State.modSitting_repairs : (s.modSitting c f).repairs = s.repairs := rfl
@[simp] theorem State.modSitting_hostRead : (s.modSitting c f).hostRead = s.hostRead := rfl
@[simp] theorem State.modSitting_hostReadP : (s.modSitting c f).hostReadP = s.hostReadP := rfl
@[simp] theorem State.modSitting_hostMsg : (s.modSitting c f).hostMsg = s.hostMsg := rfl
@[simp] theorem State.modSitting_maint : (s.modSitting c f).maint = s.maint := rfl
@[simp] theorem State.modSitting_bar : (s.modSitting c f).bar = s.bar := rfl
@[simp] theorem State.modSitting_powerCapped : (s.modSitting c f).powerCapped = s.powerCapped := rfl
@[simp] theorem State.modSitting_btdmP : (s.modSitting c f).btdmP = s.btdmP := rfl
@[simp] theorem State.modSitting_btdm : (s.modSitting c f).btdm = s.btdm := rfl
@[simp] theorem State.modSitting_btdmDom : (s.modSitting c f).btdmDom = s.btdmDom := rfl
@[simp] theorem State.modSitting_fv : (s.modSitting c f).fv = s.fv := rfl
@[simp] theorem State.modSitting_bridgeFaults : (s.modSitting c f).bridgeFaults = s.bridgeFaults := rfl
@[simp] theorem State.modSitting_pulls : (s.modSitting c f).pulls = s.pulls := rfl
@[simp] theorem State.modSitting_houseGaps : (s.modSitting c f).houseGaps = s.houseGaps := rfl
@[simp] theorem State.modSitting_asks : (s.modSitting c f).asks = s.asks := rfl
@[simp] theorem State.modSitting_answer : (s.modSitting c f).answer = s.answer := rfl
@[simp] theorem State.modSitting_houseOff : (s.modSitting c f).houseOff = s.houseOff := rfl
@[simp] theorem State.modSitting_fw : (s.modSitting c f).fw = s.fw := rfl
@[simp] theorem State.modSitting_dbgHeld : (s.modSitting c f).dbgHeld = s.dbgHeld := rfl
@[simp] theorem State.modSitting_maintInt : (s.modSitting c f).maintInt = s.maintInt := rfl
@[simp] theorem State.modSitting_maintAt : (s.modSitting c f).maintAt = s.maintAt := rfl
@[simp] theorem State.modSitting_capPend : (s.modSitting c f).capPend = s.capPend := rfl
@[simp] theorem State.modSitting_capBase : (s.modSitting c f).capBase = s.capBase := rfl
@[simp] theorem State.modSitting_powerLimit : (s.modSitting c f).powerLimit = s.powerLimit := rfl
@[simp] theorem State.modSitting_power : (s.modSitting c f).power = s.power := rfl
@[simp] theorem State.modSitting_coolAt : (s.modSitting c f).coolAt = s.coolAt := rfl
end

/-! ### raiseMsi -/

section
variable (s : State) (v : Nat)
@[simp] theorem State.raiseMsi_now : (s.raiseMsi v).now = s.now := rfl
@[simp] theorem State.raiseMsi_house : (s.raiseMsi v).house = s.house := rfl
@[simp] theorem State.raiseMsi_agenda : (s.raiseMsi v).agenda = s.agenda := rfl
@[simp] theorem State.raiseMsi_cur : (s.raiseMsi v).cur = s.cur := rfl
@[simp] theorem State.raiseMsi_busy : (s.raiseMsi v).busy = s.busy := rfl
@[simp] theorem State.raiseMsi_inputs : (s.raiseMsi v).inputs = s.inputs := rfl
@[simp] theorem State.raiseMsi_here : (s.raiseMsi v).here = s.here := rfl
@[simp] theorem State.raiseMsi_srcRate : (s.raiseMsi v).srcRate = s.srcRate := rfl
@[simp] theorem State.raiseMsi_srcPlan : (s.raiseMsi v).srcPlan = s.srcPlan := rfl
@[simp] theorem State.raiseMsi_cores : (s.raiseMsi v).cores = s.cores := rfl
@[simp] theorem State.raiseMsi_regions : (s.raiseMsi v).regions = s.regions := rfl
@[simp] theorem State.raiseMsi_domains : (s.raiseMsi v).domains = s.domains := rfl
@[simp] theorem State.raiseMsi_lanes : (s.raiseMsi v).lanes = s.lanes := rfl
@[simp] theorem State.raiseMsi_xings : (s.raiseMsi v).xings = s.xings := rfl
@[simp] theorem State.raiseMsi_pins : (s.raiseMsi v).pins = s.pins := rfl
@[simp] theorem State.raiseMsi_pinOut : (s.raiseMsi v).pinOut = s.pinOut := rfl
@[simp] theorem State.raiseMsi_houseSrc : (s.raiseMsi v).houseSrc = s.houseSrc := rfl
@[simp] theorem State.raiseMsi_queues : (s.raiseMsi v).queues = s.queues := rfl
@[simp] theorem State.raiseMsi_windows : (s.raiseMsi v).windows = s.windows := rfl
@[simp] theorem State.raiseMsi_events : (s.raiseMsi v).events = s.events := rfl
@[simp] theorem State.raiseMsi_eventMsi : (s.raiseMsi v).eventMsi = s.eventMsi := rfl
@[simp] theorem State.raiseMsi_pinTab : (s.raiseMsi v).pinTab = s.pinTab := rfl
@[simp] theorem State.raiseMsi_tasks : (s.raiseMsi v).tasks = s.tasks := rfl
@[simp] theorem State.raiseMsi_pool : (s.raiseMsi v).pool = s.pool := rfl
@[simp] theorem State.raiseMsi_overflow : (s.raiseMsi v).overflow = s.overflow := rfl
@[simp] theorem State.raiseMsi_overNext : (s.raiseMsi v).overNext = s.overNext := rfl
@[simp] theorem State.raiseMsi_sittings : (s.raiseMsi v).sittings = s.sittings := rfl
@[simp] theorem State.raiseMsi_turnQ : (s.raiseMsi v).turnQ = s.turnQ := rfl
@[simp] theorem State.raiseMsi_hostMem : (s.raiseMsi v).hostMem = s.hostMem := rfl
@[simp] theorem State.raiseMsi_banks : (s.raiseMsi v).banks = s.banks := rfl
@[simp] theorem State.raiseMsi_mcNew : (s.raiseMsi v).mcNew = s.mcNew := rfl
@[simp] theorem State.raiseMsi_frameErr : (s.raiseMsi v).frameErr = s.frameErr := rfl
@[simp] theorem State.raiseMsi_remap : (s.raiseMsi v).remap = s.remap := rfl
@[simp] theorem State.raiseMsi_outCores : (s.raiseMsi v).outCores = s.outCores := rfl
@[simp] theorem State.raiseMsi_pairs : (s.raiseMsi v).pairs = s.pairs := rfl
@[simp] theorem State.raiseMsi_panels : (s.raiseMsi v).panels = s.panels := rfl
@[simp] theorem State.raiseMsi_asleep : (s.raiseMsi v).asleep = s.asleep := rfl
@[simp] theorem State.raiseMsi_draining : (s.raiseMsi v).draining = s.draining := rfl
@[simp] theorem State.raiseMsi_stage : (s.raiseMsi v).stage = s.stage := rfl
@[simp] theorem State.raiseMsi_held : (s.raiseMsi v).held = s.held := rfl
@[simp] theorem State.raiseMsi_tried : (s.raiseMsi v).tried = s.tried := rfl
@[simp] theorem State.raiseMsi_ports : (s.raiseMsi v).ports = s.ports := rfl
@[simp] theorem State.raiseMsi_flits : (s.raiseMsi v).flits = s.flits := rfl
@[simp] theorem State.raiseMsi_meas : (s.raiseMsi v).meas = s.meas := rfl
@[simp] theorem State.raiseMsi_measLog : (s.raiseMsi v).measLog = s.measLog := rfl
@[simp] theorem State.raiseMsi_report : (s.raiseMsi v).report = s.report := rfl
@[simp] theorem State.raiseMsi_device : (s.raiseMsi v).device = s.device := rfl
@[simp] theorem State.raiseMsi_nonces : (s.raiseMsi v).nonces = s.nonces := rfl
@[simp] theorem State.raiseMsi_nonce : (s.raiseMsi v).nonce = s.nonce := rfl
@[simp] theorem State.raiseMsi_security : (s.raiseMsi v).security = s.security := rfl
@[simp] theorem State.raiseMsi_debug : (s.raiseMsi v).debug = s.debug := rfl
@[simp] theorem State.raiseMsi_debugPend : (s.raiseMsi v).debugPend = s.debugPend := rfl
@[simp] theorem State.raiseMsi_offPend : (s.raiseMsi v).offPend = s.offPend := rfl
@[simp] theorem State.raiseMsi_off : (s.raiseMsi v).off = s.off := rfl
@[simp] theorem State.raiseMsi_ideKey : (s.raiseMsi v).ideKey = s.ideKey := rfl
@[simp] theorem State.raiseMsi_fatal : (s.raiseMsi v).fatal = s.fatal := rfl
@[simp] theorem State.raiseMsi_saves : (s.raiseMsi v).saves = s.saves := rfl
@[simp] theorem State.raiseMsi_hostReqs : (s.raiseMsi v).hostReqs = s.hostReqs := rfl
@[simp] theorem State.raiseMsi_hostHeld : (s.raiseMsi v).hostHeld = s.hostHeld := rfl
@[simp] theorem State.raiseMsi_repairs : (s.raiseMsi v).repairs = s.repairs := rfl
@[simp] theorem State.raiseMsi_hostRead : (s.raiseMsi v).hostRead = s.hostRead := rfl
@[simp] theorem State.raiseMsi_hostReadP : (s.raiseMsi v).hostReadP = s.hostReadP := rfl
@[simp] theorem State.raiseMsi_hostMsg : (s.raiseMsi v).hostMsg = s.hostMsg := rfl
@[simp] theorem State.raiseMsi_maint : (s.raiseMsi v).maint = s.maint := rfl
@[simp] theorem State.raiseMsi_bar : (s.raiseMsi v).bar = s.bar := rfl
@[simp] theorem State.raiseMsi_powerCapped : (s.raiseMsi v).powerCapped = s.powerCapped := rfl
@[simp] theorem State.raiseMsi_btdmP : (s.raiseMsi v).btdmP = s.btdmP := rfl
@[simp] theorem State.raiseMsi_btdm : (s.raiseMsi v).btdm = s.btdm := rfl
@[simp] theorem State.raiseMsi_btdmDom : (s.raiseMsi v).btdmDom = s.btdmDom := rfl
@[simp] theorem State.raiseMsi_fv : (s.raiseMsi v).fv = s.fv := rfl
@[simp] theorem State.raiseMsi_bridgeFaults : (s.raiseMsi v).bridgeFaults = s.bridgeFaults := rfl
@[simp] theorem State.raiseMsi_pulls : (s.raiseMsi v).pulls = s.pulls := rfl
@[simp] theorem State.raiseMsi_houseGaps : (s.raiseMsi v).houseGaps = s.houseGaps := rfl
@[simp] theorem State.raiseMsi_asks : (s.raiseMsi v).asks = s.asks := rfl
@[simp] theorem State.raiseMsi_answer : (s.raiseMsi v).answer = s.answer := rfl
@[simp] theorem State.raiseMsi_houseOff : (s.raiseMsi v).houseOff = s.houseOff := rfl
@[simp] theorem State.raiseMsi_fw : (s.raiseMsi v).fw = s.fw := rfl
@[simp] theorem State.raiseMsi_dbgHeld : (s.raiseMsi v).dbgHeld = s.dbgHeld := rfl
@[simp] theorem State.raiseMsi_maintInt : (s.raiseMsi v).maintInt = s.maintInt := rfl
@[simp] theorem State.raiseMsi_maintAt : (s.raiseMsi v).maintAt = s.maintAt := rfl
@[simp] theorem State.raiseMsi_capPend : (s.raiseMsi v).capPend = s.capPend := rfl
@[simp] theorem State.raiseMsi_capBase : (s.raiseMsi v).capBase = s.capBase := rfl
@[simp] theorem State.raiseMsi_powerLimit : (s.raiseMsi v).powerLimit = s.powerLimit := rfl
@[simp] theorem State.raiseMsi_power : (s.raiseMsi v).power = s.power := rfl
@[simp] theorem State.raiseMsi_coolAt : (s.raiseMsi v).coolAt = s.coolAt := rfl
end

/-! ### A core's setBrush -/

section
variable (x : Core) (b : Nat) (y : Brush)
@[simp] theorem Core.setBrush_v : (x.setBrush b y).v = x.v := rfl
@[simp] theorem Core.setBrush_slat : (x.setBrush b y).slat = x.slat := rfl
@[simp] theorem Core.setBrush_vlat : (x.setBrush b y).vlat = x.vlat := rfl
@[simp] theorem Core.setBrush_newest : (x.setBrush b y).newest = x.newest := rfl
@[simp] theorem Core.setBrush_mem : (x.setBrush b y).mem = x.mem := rfl
@[simp] theorem Core.setBrush_memP : (x.setBrush b y).memP = x.memP := rfl
@[simp] theorem Core.setBrush_code : (x.setBrush b y).code = x.code := rfl
@[simp] theorem Core.setBrush_vault : (x.setBrush b y).vault = x.vault := rfl
@[simp] theorem Core.setBrush_vaultP : (x.setBrush b y).vaultP = x.vaultP := rfl
@[simp] theorem Core.setBrush_vpend : (x.setBrush b y).vpend = x.vpend := rfl
@[simp] theorem Core.setBrush_commitNow : (x.setBrush b y).commitNow = x.commitNow := rfl
@[simp] theorem Core.setBrush_hbuf : (x.setBrush b y).hbuf = x.hbuf := rfl
@[simp] theorem Core.setBrush_schA : (x.setBrush b y).schA = x.schA := rfl
@[simp] theorem Core.setBrush_schB : (x.setBrush b y).schB = x.schB := rfl
@[simp] theorem Core.setBrush_vport : (x.setBrush b y).vport = x.vport := rfl
@[simp] theorem Core.setBrush_lastIdx : (x.setBrush b y).lastIdx = x.lastIdx := rfl
@[simp] theorem Core.setBrush_seq : (x.setBrush b y).seq = x.seq := rfl
@[simp] theorem Core.setBrush_k0 : (x.setBrush b y).k0 = x.k0 := rfl
@[simp] theorem Core.setBrush_x0 : (x.setBrush b y).x0 = x.x0 := rfl
@[simp] theorem Core.setBrush_cycle : (x.setBrush b y).cycle = x.cycle := rfl
@[simp] theorem Core.setBrush_syncm : (x.setBrush b y).syncm = x.syncm := rfl
@[simp] theorem Core.setBrush_syncmWr : (x.setBrush b y).syncmWr = x.syncmWr := rfl
@[simp] theorem Core.setBrush_own : (x.setBrush b y).own = x.own := rfl
@[simp] theorem Core.setBrush_moving : (x.setBrush b y).moving = x.moving := rfl
@[simp] theorem Core.setBrush_sems : (x.setBrush b y).sems = x.sems := rfl
@[simp] theorem Core.setBrush_lands : (x.setBrush b y).lands = x.lands := rfl
@[simp] theorem Core.setBrush_landSeen : (x.setBrush b y).landSeen = x.landSeen := rfl
@[simp] theorem Core.setBrush_rings : (x.setBrush b y).rings = x.rings := rfl
@[simp] theorem Core.setBrush_desc : (x.setBrush b y).desc = x.desc := rfl
@[simp] theorem Core.setBrush_rot : (x.setBrush b y).rot = x.rot := rfl
@[simp] theorem Core.setBrush_swset : (x.setBrush b y).swset = x.swset := rfl
@[simp] theorem Core.setBrush_swOld : (x.setBrush b y).swOld = x.swOld := rfl
@[simp] theorem Core.setBrush_accs : (x.setBrush b y).accs = x.accs := rfl
@[simp] theorem Core.setBrush_mxc : (x.setBrush b y).mxc = x.mxc := rfl
@[simp] theorem Core.setBrush_mtq : (x.setBrush b y).mtq = x.mtq := rfl
@[simp] theorem Core.setBrush_mtRun : (x.setBrush b y).mtRun = x.mtRun := rfl
@[simp] theorem Core.setBrush_mtFree : (x.setBrush b y).mtFree = x.mtFree := rfl
@[simp] theorem Core.setBrush_lc : (x.setBrush b y).lc = x.lc := rfl
@[simp] theorem Core.setBrush_xc : (x.setBrush b y).xc = x.xc := rfl
@[simp] theorem Core.setBrush_armed : (x.setBrush b y).armed = x.armed := rfl
@[simp] theorem Core.setBrush_engW : (x.setBrush b y).engW = x.engW := rfl
@[simp] theorem Core.setBrush_rmwW : (x.setBrush b y).rmwW = x.rmwW := rfl
@[simp] theorem Core.setBrush_rels : (x.setBrush b y).rels = x.rels := rfl
@[simp] theorem Core.setBrush_segsp : (x.setBrush b y).segsp = x.segsp := rfl
@[simp] theorem Core.setBrush_segvt : (x.setBrush b y).segvt = x.segvt := rfl
@[simp] theorem Core.setBrush_segis : (x.setBrush b y).segis = x.segis := rfl
@[simp] theorem Core.setBrush_ctxid : (x.setBrush b y).ctxid = x.ctxid := rfl
@[simp] theorem Core.setBrush_walked : (x.setBrush b y).walked = x.walked := rfl
@[simp] theorem Core.setBrush_tdmP : (x.setBrush b y).tdmP = x.tdmP := rfl
@[simp] theorem Core.setBrush_tdm : (x.setBrush b y).tdm = x.tdm := rfl
@[simp] theorem Core.setBrush_landing : (x.setBrush b y).landing = x.landing := rfl
@[simp] theorem Core.setBrush_landLines : (x.setBrush b y).landLines = x.landLines := rfl
@[simp] theorem Core.setBrush_landIds : (x.setBrush b y).landIds = x.landIds := rfl
@[simp] theorem Core.setBrush_early : (x.setBrush b y).early = x.early := rfl
@[simp] theorem Core.setBrush_landedFrom : (x.setBrush b y).landedFrom = x.landedFrom := rfl
@[simp] theorem Core.setBrush_flagSlots : (x.setBrush b y).flagSlots = x.flagSlots := rfl
@[simp] theorem Core.setBrush_reduces : (x.setBrush b y).reduces = x.reduces := rfl
@[simp] theorem Core.setBrush_xfaults : (x.setBrush b y).xfaults = x.xfaults := rfl
@[simp] theorem Core.setBrush_tracker : (x.setBrush b y).tracker = x.tracker := rfl
@[simp] theorem Core.setBrush_created : (x.setBrush b y).created = x.created := rfl
@[simp] theorem Core.setBrush_undo : (x.setBrush b y).undo = x.undo := rfl
@[simp] theorem Core.setBrush_undoFull : (x.setBrush b y).undoFull = x.undoFull := rfl
@[simp] theorem Core.setBrush_undoOn : (x.setBrush b y).undoOn = x.undoOn := rfl
@[simp] theorem Core.setBrush_ecc : (x.setBrush b y).ecc = x.ecc := rfl
@[simp] theorem Core.setBrush_glitch : (x.setBrush b y).glitch = x.glitch := rfl
@[simp] theorem Core.setBrush_rowErrs : (x.setBrush b y).rowErrs = x.rowErrs := rfl
@[simp] theorem Core.setBrush_vwr : (x.setBrush b y).vwr = x.vwr := rfl
@[simp] theorem Core.setBrush_nbArr : (x.setBrush b y).nbArr = x.nbArr := rfl
@[simp] theorem Core.setBrush_clash : (x.setBrush b y).clash = x.clash := rfl
@[simp] theorem Core.setBrush_syncGo : (x.setBrush b y).syncGo = x.syncGo := rfl
@[simp] theorem Core.setBrush_follow : (x.setBrush b y).follow = x.follow := rfl
@[simp] theorem Core.setBrush_wrote : (x.setBrush b y).wrote = x.wrote := rfl
@[simp] theorem Core.setBrush_service : (x.setBrush b y).service = x.service := rfl
@[simp] theorem Core.setBrush_user : (x.setBrush b y).user = x.user := rfl
@[simp] theorem Core.setBrush_arrivedAt : (x.setBrush b y).arrivedAt = x.arrivedAt := rfl
@[simp] theorem Core.setBrush_xcActive : (x.setBrush b y).xcActive = x.xcActive := rfl
@[simp] theorem Core.setBrush_later : (x.setBrush b y).later = x.later := rfl
@[simp] theorem Core.setBrush_shadow : (x.setBrush b y).shadow = x.shadow := rfl
@[simp] theorem Core.setBrush_drains : (x.setBrush b y).drains = x.drains := rfl
@[simp] theorem Core.setBrush_vdone : (x.setBrush b y).vdone = x.vdone := rfl
end

/-! ### A core's modBrush -/

section
variable (x : Core) (b : Nat) (f : Brush → Brush)
@[simp] theorem Core.modBrush_v : (x.modBrush b f).v = x.v := rfl
@[simp] theorem Core.modBrush_slat : (x.modBrush b f).slat = x.slat := rfl
@[simp] theorem Core.modBrush_vlat : (x.modBrush b f).vlat = x.vlat := rfl
@[simp] theorem Core.modBrush_newest : (x.modBrush b f).newest = x.newest := rfl
@[simp] theorem Core.modBrush_mem : (x.modBrush b f).mem = x.mem := rfl
@[simp] theorem Core.modBrush_memP : (x.modBrush b f).memP = x.memP := rfl
@[simp] theorem Core.modBrush_code : (x.modBrush b f).code = x.code := rfl
@[simp] theorem Core.modBrush_vault : (x.modBrush b f).vault = x.vault := rfl
@[simp] theorem Core.modBrush_vaultP : (x.modBrush b f).vaultP = x.vaultP := rfl
@[simp] theorem Core.modBrush_vpend : (x.modBrush b f).vpend = x.vpend := rfl
@[simp] theorem Core.modBrush_commitNow : (x.modBrush b f).commitNow = x.commitNow := rfl
@[simp] theorem Core.modBrush_hbuf : (x.modBrush b f).hbuf = x.hbuf := rfl
@[simp] theorem Core.modBrush_schA : (x.modBrush b f).schA = x.schA := rfl
@[simp] theorem Core.modBrush_schB : (x.modBrush b f).schB = x.schB := rfl
@[simp] theorem Core.modBrush_vport : (x.modBrush b f).vport = x.vport := rfl
@[simp] theorem Core.modBrush_lastIdx : (x.modBrush b f).lastIdx = x.lastIdx := rfl
@[simp] theorem Core.modBrush_seq : (x.modBrush b f).seq = x.seq := rfl
@[simp] theorem Core.modBrush_k0 : (x.modBrush b f).k0 = x.k0 := rfl
@[simp] theorem Core.modBrush_x0 : (x.modBrush b f).x0 = x.x0 := rfl
@[simp] theorem Core.modBrush_cycle : (x.modBrush b f).cycle = x.cycle := rfl
@[simp] theorem Core.modBrush_syncm : (x.modBrush b f).syncm = x.syncm := rfl
@[simp] theorem Core.modBrush_syncmWr : (x.modBrush b f).syncmWr = x.syncmWr := rfl
@[simp] theorem Core.modBrush_own : (x.modBrush b f).own = x.own := rfl
@[simp] theorem Core.modBrush_moving : (x.modBrush b f).moving = x.moving := rfl
@[simp] theorem Core.modBrush_sems : (x.modBrush b f).sems = x.sems := rfl
@[simp] theorem Core.modBrush_lands : (x.modBrush b f).lands = x.lands := rfl
@[simp] theorem Core.modBrush_landSeen : (x.modBrush b f).landSeen = x.landSeen := rfl
@[simp] theorem Core.modBrush_rings : (x.modBrush b f).rings = x.rings := rfl
@[simp] theorem Core.modBrush_desc : (x.modBrush b f).desc = x.desc := rfl
@[simp] theorem Core.modBrush_rot : (x.modBrush b f).rot = x.rot := rfl
@[simp] theorem Core.modBrush_swset : (x.modBrush b f).swset = x.swset := rfl
@[simp] theorem Core.modBrush_swOld : (x.modBrush b f).swOld = x.swOld := rfl
@[simp] theorem Core.modBrush_accs : (x.modBrush b f).accs = x.accs := rfl
@[simp] theorem Core.modBrush_mxc : (x.modBrush b f).mxc = x.mxc := rfl
@[simp] theorem Core.modBrush_mtq : (x.modBrush b f).mtq = x.mtq := rfl
@[simp] theorem Core.modBrush_mtRun : (x.modBrush b f).mtRun = x.mtRun := rfl
@[simp] theorem Core.modBrush_mtFree : (x.modBrush b f).mtFree = x.mtFree := rfl
@[simp] theorem Core.modBrush_lc : (x.modBrush b f).lc = x.lc := rfl
@[simp] theorem Core.modBrush_xc : (x.modBrush b f).xc = x.xc := rfl
@[simp] theorem Core.modBrush_armed : (x.modBrush b f).armed = x.armed := rfl
@[simp] theorem Core.modBrush_engW : (x.modBrush b f).engW = x.engW := rfl
@[simp] theorem Core.modBrush_rmwW : (x.modBrush b f).rmwW = x.rmwW := rfl
@[simp] theorem Core.modBrush_rels : (x.modBrush b f).rels = x.rels := rfl
@[simp] theorem Core.modBrush_segsp : (x.modBrush b f).segsp = x.segsp := rfl
@[simp] theorem Core.modBrush_segvt : (x.modBrush b f).segvt = x.segvt := rfl
@[simp] theorem Core.modBrush_segis : (x.modBrush b f).segis = x.segis := rfl
@[simp] theorem Core.modBrush_ctxid : (x.modBrush b f).ctxid = x.ctxid := rfl
@[simp] theorem Core.modBrush_walked : (x.modBrush b f).walked = x.walked := rfl
@[simp] theorem Core.modBrush_tdmP : (x.modBrush b f).tdmP = x.tdmP := rfl
@[simp] theorem Core.modBrush_tdm : (x.modBrush b f).tdm = x.tdm := rfl
@[simp] theorem Core.modBrush_landing : (x.modBrush b f).landing = x.landing := rfl
@[simp] theorem Core.modBrush_landLines : (x.modBrush b f).landLines = x.landLines := rfl
@[simp] theorem Core.modBrush_landIds : (x.modBrush b f).landIds = x.landIds := rfl
@[simp] theorem Core.modBrush_early : (x.modBrush b f).early = x.early := rfl
@[simp] theorem Core.modBrush_landedFrom : (x.modBrush b f).landedFrom = x.landedFrom := rfl
@[simp] theorem Core.modBrush_flagSlots : (x.modBrush b f).flagSlots = x.flagSlots := rfl
@[simp] theorem Core.modBrush_reduces : (x.modBrush b f).reduces = x.reduces := rfl
@[simp] theorem Core.modBrush_xfaults : (x.modBrush b f).xfaults = x.xfaults := rfl
@[simp] theorem Core.modBrush_tracker : (x.modBrush b f).tracker = x.tracker := rfl
@[simp] theorem Core.modBrush_created : (x.modBrush b f).created = x.created := rfl
@[simp] theorem Core.modBrush_undo : (x.modBrush b f).undo = x.undo := rfl
@[simp] theorem Core.modBrush_undoFull : (x.modBrush b f).undoFull = x.undoFull := rfl
@[simp] theorem Core.modBrush_undoOn : (x.modBrush b f).undoOn = x.undoOn := rfl
@[simp] theorem Core.modBrush_ecc : (x.modBrush b f).ecc = x.ecc := rfl
@[simp] theorem Core.modBrush_glitch : (x.modBrush b f).glitch = x.glitch := rfl
@[simp] theorem Core.modBrush_rowErrs : (x.modBrush b f).rowErrs = x.rowErrs := rfl
@[simp] theorem Core.modBrush_vwr : (x.modBrush b f).vwr = x.vwr := rfl
@[simp] theorem Core.modBrush_nbArr : (x.modBrush b f).nbArr = x.nbArr := rfl
@[simp] theorem Core.modBrush_clash : (x.modBrush b f).clash = x.clash := rfl
@[simp] theorem Core.modBrush_syncGo : (x.modBrush b f).syncGo = x.syncGo := rfl
@[simp] theorem Core.modBrush_follow : (x.modBrush b f).follow = x.follow := rfl
@[simp] theorem Core.modBrush_wrote : (x.modBrush b f).wrote = x.wrote := rfl
@[simp] theorem Core.modBrush_service : (x.modBrush b f).service = x.service := rfl
@[simp] theorem Core.modBrush_user : (x.modBrush b f).user = x.user := rfl
@[simp] theorem Core.modBrush_arrivedAt : (x.modBrush b f).arrivedAt = x.arrivedAt := rfl
@[simp] theorem Core.modBrush_xcActive : (x.modBrush b f).xcActive = x.xcActive := rfl
@[simp] theorem Core.modBrush_later : (x.modBrush b f).later = x.later := rfl
@[simp] theorem Core.modBrush_shadow : (x.modBrush b f).shadow = x.shadow := rfl
@[simp] theorem Core.modBrush_drains : (x.modBrush b f).drains = x.drains := rfl
@[simp] theorem Core.modBrush_vdone : (x.modBrush b f).vdone = x.vdone := rfl
end

/-! ### Reading back -/

theorem State.core_setCore (s : State) (c d : Nat) (x : Core) : (s.setCore c x).core d = if d = c then x else s.core d := mget_mput _ _ c d x
@[simp] theorem State.core_setCore_same (s : State) (c : Nat) (x : Core) : (s.setCore c x).core c = x := by simp [State.core_setCore]
theorem State.core_modCore (s : State) (c d : Nat) (f : Core → Core) : (s.modCore c f).core d = if d = c then f (s.core c) else s.core d :=
  State.core_setCore s c d _
@[simp] theorem State.core_modCore_same (s : State) (c : Nat) (f : Core → Core) : (s.modCore c f).core c = f (s.core c) := by
  simp [State.core_modCore]
theorem State.core_setCore_ne (s : State) {c d : Nat} (x : Core) (h : d ≠ c) : (s.setCore c x).core d = s.core d := by
  simp [State.core_setCore, h]
theorem State.core_modCore_ne (s : State) {c d : Nat} (f : Core → Core) (h : d ≠ c) : (s.modCore c f).core d = s.core d := by
  simp [State.core_modCore, h]

theorem Core.brush_setBrush (x : Core) (b d : Nat) (y : Brush) : (x.setBrush b y).brush d = if d = b then y else x.brush d := by
  unfold Core.setBrush Core.brush
  rw [lset_getD]
  · split
    · rfl
    · rename_i h
      by_cases hd : d < x.brushes.length
      · simp [List.getD_eq_getElem?_getD, List.getElem?_append_left hd]
      · have hd' : x.brushes.length ≤ d := Nat.le_of_not_lt hd
        simp only [List.getD_eq_getElem?_getD, List.getElem?_append_right hd', List.getElem?_eq_none hd', List.getElem?_replicate]
        split <;> rfl
  · simp only [List.length_append, List.length_replicate]
    omega
@[simp] theorem Core.brush_setBrush_same (x : Core) (b : Nat) (y : Brush) : (x.setBrush b y).brush b = y := by simp [Core.brush_setBrush]
theorem Core.brush_setBrush_ne (x : Core) {b d : Nat} (y : Brush) (h : d ≠ b) : (x.setBrush b y).brush d = x.brush d := by
  simp [Core.brush_setBrush, h]
theorem Core.brush_modBrush (x : Core) (b d : Nat) (f : Brush → Brush) :
    (x.modBrush b f).brush d = if d = b then f (x.brush b) else x.brush d := Core.brush_setBrush x b d _
@[simp] theorem Core.brush_modBrush_same (x : Core) (b : Nat) (f : Brush → Brush) : (x.modBrush b f).brush b = f (x.brush b) := by
  simp [Core.brush_modBrush]

@[simp] theorem State.core_modBrush_same (s : State) (c b : Nat) (f : Brush → Brush) :
    (s.modBrush c b f).core c = (s.core c).modBrush b f := State.core_modCore_same s c _
theorem State.core_modBrush_ne (s : State) {c d : Nat} (b : Nat) (f : Brush → Brush) (h : d ≠ c) : (s.modBrush c b f).core d = s.core d :=
  State.core_modCore_ne s _ h
@[simp] theorem State.brush_modBrush_same (s : State) (c b : Nat) (f : Brush → Brush) : (s.modBrush c b f).brush c b = f (s.brush c b) := by
  simp [State.brush]
theorem State.brush_modBrush_ne (s : State) (c : Nat) {b d : Nat} (f : Brush → Brush) (h : d ≠ b) :
    (s.modBrush c b f).brush c d = s.brush c d := by
  simp [State.brush, Core.brush_modBrush, h]
@[simp] theorem State.brush_setCore_same (s : State) (c b : Nat) (x : Core) : (s.setCore c x).brush c b = x.brush b := by simp [State.brush]

theorem State.region_modRegion (s : State) (g h : Nat) (f : Region → Region) :
    (s.modRegion g f).region h = if h = g then f (s.region g) else s.region h := mget_mput _ _ g h _
@[simp] theorem State.region_modRegion_same (s : State) (g : Nat) (f : Region → Region) : (s.modRegion g f).region g = f (s.region g) := by
  simp [State.region_modRegion]
theorem State.domain_modDomain (s : State) (d e : Nat) (f : Domain → Domain) :
    (s.modDomain d f).domain e = if e = d then f (s.domain d) else s.domain e := mget_mput _ _ d e _
@[simp] theorem State.domain_modDomain_same (s : State) (d : Nat) (f : Domain → Domain) : (s.modDomain d f).domain d = f (s.domain d) := by
  simp [State.domain_modDomain]
@[simp] theorem State.xing_modXing_same (s : State) (i : Nat) (f : Crossing → Crossing) : (s.modXing i f).xing i = f (s.xing i) :=
  mget_mput_same _ _ i _
@[simp] theorem State.queue_modQueue_same (s : State) (q : Nat) (f : Queue → Queue) : (s.modQueue q f).queue q = f (s.queue q) :=
  mget_mput_same _ _ q _
@[simp] theorem State.port_modPort_same (s : State) (p : Nat) (f : Port → Port) : (s.modPort p f).port p = f (s.port p) :=
  mget_mput_same _ _ p _

/-! ### What a core's update leaves of the clock -/

@[simp] theorem State.region_setCore (s : State) (c g : Nat) (x : Core) : (s.setCore c x).region g = s.region g := rfl
@[simp] theorem State.region_modCore (s : State) (c g : Nat) (f : Core → Core) : (s.modCore c f).region g = s.region g := rfl
@[simp] theorem State.region_modBrush (s : State) (c b g : Nat) (f : Brush → Brush) : (s.modBrush c b f).region g = s.region g := rfl
@[simp] theorem State.cyc_setCore (s : State) (c d : Nat) (x : Core) : (s.setCore c x).cyc d = s.cyc d := rfl
@[simp] theorem State.cyc_modCore (s : State) (c d : Nat) (f : Core → Core) : (s.modCore c f).cyc d = s.cyc d := rfl
@[simp] theorem State.cyc_modBrush (s : State) (c b d : Nat) (f : Brush → Brush) : (s.modBrush c b f).cyc d = s.cyc d := rfl
@[simp] theorem State.exch_setCore (s : State) (c d : Nat) (x : Core) : (s.setCore c x).exch d = s.exch d := rfl
@[simp] theorem State.exch_modBrush (s : State) (c b d : Nat) (f : Brush → Brush) : (s.modBrush c b f).exch d = s.exch d := rfl

end Sys2Proof.Machine
end

