-- ==== Sys2Proof/Laws/Issue.lean ====
section
/-! SUPPORT. What issuing a lone trigger can do: the bundle's checks, its operation, and where the brush goes. -/
namespace Sys2Proof.Machine

/-! ### A core written back -/

theorem mput_mput {α : Type} (m : Map α) (k : Nat) (v w : α) : mput (mput m k v) k w = mput m k w := by
  induction m with
  | nil => simp [mput]
  | cons e r ih =>
    obtain ⟨k', v'⟩ := e
    by_cases h : k < k'
    · simp [mput, h]
    · by_cases h2 : k = k'
      · simp [mput, h2]
      · simp [mput, h, h2, ih]

@[simp] theorem State.setCore_setCore (s : State) (c : Nat) (x y : Core) : (s.setCore c x).setCore c y = s.setCore c y := by
  simp [State.setCore, mput_mput]

theorem State.setCore_core_modBrush (s : State) (c b : Nat) (f : Brush → Brush) :
    (s.modBrush c b f).setCore c ((s.modBrush c b f).core c) = s.modBrush c b f := by
  rw [State.core_modBrush_same]; simp [State.modBrush, State.modCore]

theorem Core.setBrush_setBrush (x : Core) (b : Nat) (y z : Brush) : (x.setBrush b y).setBrush b z = x.setBrush b z := by
  have key : ∀ (l : List Brush) (i : Nat), lset (lset l i y) i z = lset l i z := by
    intro l
    induction l with
    | nil => intro i; rfl
    | cons a l ih => intro i; cases i <;> simp [lset, ih]
  have len : b + 1 - (lset (x.brushes ++ List.replicate (b + 1 - x.brushes.length) Brush.reset) b y).length = 0 := by
    rw [lset_length]; simp only [List.length_append, List.length_replicate]; omega
  unfold Core.setBrush
  dsimp only
  rw [len]
  simp [key]

/-! ### The state a bundle starts from -/

theorem State.core_started (s : State) : s.started.core s.cur.1 = (s.core s.cur.1).modBrush s.cur.2 Brush.fresh := by
  unfold State.started; rw [State.core_modBrush_same]; rfl
theorem State.brush_started (s : State) : s.started.brush s.cur.1 s.cur.2 = s.me.fresh := by
  unfold State.brush; rw [State.core_started]; simp [State.me, State.brush]
@[simp] theorem State.cur_started (s : State) : s.started.cur = s.cur := rfl
@[simp] theorem State.cyc_started (s : State) (c : Nat) : s.started.cyc c = s.cyc c := rfl
@[simp] theorem State.exch_started (s : State) (c : Nat) : s.started.exch c = s.exch c := rfl
@[simp] theorem State.phaseN_started (s : State) (c : Nat) : s.started.phaseN c = s.phaseN c := rfl
@[simp] theorem State.region_started (s : State) (g : Nat) : s.started.region g = s.region g := rfl

theorem readP_fresh (y : Brush) (n : Nat) : readP y.fresh n = readP y n := rfl
theorem guardBit_fresh (y : Brush) (m : MoveWord) : guardBit y.fresh m = guardBit y m := rfl

theorem getLat_fresh (x : Core) (b : Nat) (d : Dst) : getLat (x.modBrush b Brush.fresh) b d = getLat x b d := by
  cases d <;> simp [getLat, Brush.fresh]

theorem readSrcS_started (s : State) (lits : List (BitVec 32)) (code : Nat) :
    readSrcS s.started s.cur.1 s.cur.2 lits code = readSrcS s s.cur.1 s.cur.2 lits code := by
  unfold readSrcS
  simp only [State.core_started, Core.brush_modBrush_same, readP_fresh, getLat_fresh, State.region_started]
  rfl

theorem readSrcV_started (s : State) (code : Nat) : readSrcV s.started s.cur.1 s.cur.2 code = readSrcV s s.cur.1 s.cur.2 code := by
  unfold readSrcV
  simp only [State.core_started, Core.brush_modBrush_same, readP_fresh, getLat_fresh]
  rfl

theorem vValue_started (s : State) (code : Nat) (v : VSrc) : vValue (s.started.core s.cur.1) code v = vValue s.mine code v := by
  rw [State.core_started]; rfl

theorem pLat_started (s : State) (n : Nat) : pLat s.started s.cur.1 s.cur.2 n = pLat s s.cur.1 s.cur.2 n := by
  unfold pLat; rw [State.brush_started]; rfl
theorem sLat_started (s : State) (n : Nat) : sLat s.started s.cur.1 n = sLat s s.cur.1 n := by
  unfold sLat; rw [State.core_started]; rfl
theorem vLat_started (s : State) (n : Nat) : vLat s.started s.cur.1 n = vLat s s.cur.1 n := by
  unfold vLat; rw [State.core_started]; rfl

theorem mayUse_modBrush (x : Core) (b : Nat) (f : Brush → Brush) (d t u : Nat) : mayUse (x.modBrush b f) d t u = mayUse x d t u := rfl
theorem phaseTrap_started (s : State) (c : Nat) (v : Bool) (code pos : Nat) : phaseTrap s.started c v code pos = phaseTrap s c v code pos := rfl
@[simp] theorem Brush.fresh_sys (y : Brush) : y.fresh.sys = y.sys := rfl
@[simp] theorem Brush.fresh_chk (y : Brush) : y.fresh.chk = y.chk := rfl
@[simp] theorem Brush.fresh_newest (y : Brush) : y.fresh.newest = y.newest := rfl
theorem linked_started (s : State) (c side : Nat) : linked s.started c side = linked s c side := rfl

theorem moveCheck_started (s : State) (v : Bool) (m : MoveWord) (pos : Nat) :
    moveCheck s.started s.cur.1 s.cur.2 v m pos = moveCheck s s.cur.1 s.cur.2 v m pos := by
  have e := State.core_started s
  unfold moveCheck
  refine ite_congr rfl (fun _ => rfl) (fun _ => ?_)
  dsimp only
  refine ite_congr (by rw [e]; rfl) (fun _ => rfl) (fun _ => ite_congr (by rw [e]; rfl) (fun _ => rfl) (fun _ =>
    ite_congr ?_ (fun _ => rfl) (fun _ => ite_congr ?_ (fun _ => rfl) (fun _ => ?_))))
  · rw [e, Core.brush_modBrush_same]; rfl
  · rw [e, Core.brush_modBrush_same]; rfl
  · exact ite_congr (by rw [State.exch_started]) (fun _ => congrArg some (phaseTrap_started s _ v _ pos)) (fun _ =>
      ite_congr (by rw [State.exch_started]) (fun _ => congrArg some (phaseTrap_started s _ v _ pos)) (fun _ =>
        ite_congr (by rw [linked_started]) (fun _ => rfl) (fun _ => rfl)))

theorem earlyCheck_started (s : State) (v : Bool) (m : MoveWord) :
    earlyCheck s.started s.cur.1 s.cur.2 v m = earlyCheck s s.cur.1 s.cur.2 v m := by
  unfold earlyCheck
  simp only [State.core_started, Core.brush_modBrush_same, State.cyc_started, Brush.fresh_newest, Core.modBrush_newest]

theorem strikeOf_started (s : State) (ms : List (Bool × MoveWord)) : strikeOf s.started s.cur.1 s.cur.2 ms = strikeOf s s.cur.1 s.cur.2 ms := by
  unfold strikeOf
  rw [State.core_started, State.brush_started]
  rfl

theorem spoPoison_started (s : State) (lits : List (BitVec 32)) (k : Option (Bool × MoveWord)) (e : Bool × MoveWord) :
    spoPoison s.cur.1 s.cur.2 lits s.started k e = spoPoison s.cur.1 s.cur.2 lits s k e := by
  unfold spoPoison movedS
  simp only [State.brush_started, guardBit_fresh, readSrcS_started, State.core_started]
  rfl

theorem cadHold_started {s : State} (i : Iss) (hc : i.c = s.cur.1) (hb : i.b = s.cur.2) (ms : List (Bool × MoveWord)) : cadHold i ms s.started = cadHold i ms s := by
  unfold cadHold
  rw [hc, hb, State.brush_started, State.region_started, State.cyc_started, State.exch_started]
  simp only [guardBit_fresh]
  rfl

theorem bundleTrap_started (b : Bundle) (s : State) : bundleTrap (issOf b s) b s.started = bundleTrap (issOf b s) b s := by
  unfold bundleTrap issOf
  simp only [moveCheck_started, earlyCheck_started, State.brush_started, State.core_started, State.exch_started, State.cyc_started]
  have h : spoPoison s.cur.1 s.cur.2 b.lits s.started = spoPoison s.cur.1 s.cur.2 b.lits s := funext fun k => funext (spoPoison_started s b.lits k)
  rw [h, strikeOf_started, cadHold_started _ rfl rfl]
  rfl

theorem passes_started {b : Bundle} {s : State} (h : passes b s) : bundleTrap (issOf b s) b s.started = none := by
  rw [bundleTrap_started]; exact h.1

/-! ### A lone trigger -/

theorem issue_ok {ops : Ops} {b : Bundle} {s s1 : State} (h : effects ops (issOf b s) b s.started = .ok s1)
    (ha : (s1.brush s.cur.1 s.cur.2).after = none) : issue ops b s = .next (finishIssue (issOf b s) s.mine.seq s1) := by
  unfold issue
  dsimp only
  rw [h]
  have e : (s.started.core (issOf b s).c).seq = s.mine.seq := by
    show (s.started.core s.cur.1).seq = _
    rw [State.core_started]; rfl
  rw [e]
  have ha' : (s1.brush (issOf b s).c (issOf b s).b).after = none := ha
  simp only [ha']

/-- The end-bundle check of R245 when no transfer starts, or the bundle is no end bundle. -/
theorem atEnd_false {s : State} {b : Bundle} {x : Option Nat} (hp : passes b s) (hn : x = none ∨ noEnd s) :
    (s.me.fresh.atEnd s.me.pc && (s.me.fresh.xfer.isSome || x.isSome)) = false := by
  show ((match s.me.loops with | l :: _ => l.last == s.me.pc | [] => false) && (s.me.xfer.isSome || x.isSome)) = false
  cases hl : s.me.loops with
  | nil => rfl
  | cons l r =>
    by_cases hq : l.last = s.me.pc
    · have hx := hp.2 l r hl hq
      rcases hn with hn | hn
      · simp [hx, hn]
      · exact absurd hq (hn l r hl)
    · simp [hq]

/-- The move of a lone trigger. -/
abbrev soloMove (m : Trig) (code : Nat) : MoveWord := ⟨m.neg, m.guard, m.src, BitVec.ofNat 12 code⟩

theorem solo_moves (v : Bool) (m : Trig) (code : Nat) :
    bundleMoves (soloBundle v m code) = (v, soloMove m code) :: if v then [(true, nullMove), (true, nullMove)] else [] := by
  cases v <;> rfl

theorem trigUnit_pos {v : Bool} {code : Nat} (h : (trigUnit v code).isSome) : 0 < code := by
  rcases Nat.eq_zero_or_pos code with h0 | h0
  · subst h0; cases v <;> simp [trigUnit, sTrigUnit, vTrigUnit, inR] at h
  · exact h0

theorem ofNat12_toNat {code : Nat} (hc : code < 4096) : (BitVec.ofNat 12 code).toNat = code := by simp [Nat.mod_eq_of_lt hc]

theorem soloMove_not_null {v : Bool} (m : Trig) {code : Nat} (hu : (trigUnit v code).isSome) (hc : code < 4096) :
    isNull (soloMove m code) = false := by
  have hd : (BitVec.ofNat 12 code) ≠ 0 := by
    intro h
    have h0 := trigUnit_pos hu
    have := congrArg BitVec.toNat h
    rw [ofNat12_toNat hc] at this
    simp at this; omega
  simp only [isNull]
  rw [beq_eq_false_iff_ne.mpr hd, Bool.and_false]

theorem applyMoves_triggers (c b : Nat) (lits : List (BitVec 32)) (s0 : State) (k : Option (Bool × MoveWord)) (ms : List (Bool × MoveWord)) (modes : Bool) (x : Core)
    (h : ∀ e ∈ ms, isNull e.2 = true ∨ (trigUnit e.1 e.2.dst.toNat).isSome = true) : applyMoves c b lits s0 k ms modes x = x := by
  unfold applyMoves
  induction ms generalizing x with
  | nil => rfl
  | cons e l ih =>
    rw [List.foldl_cons]
    have he := h e (by simp)
    have : (isNull e.2 || (trigUnit e.1 e.2.dst.toNat).isSome || (e.1 && isModeLatch e.2.dst.toNat) != modes) = true := by
      rcases he with he | he <;> simp [he]
    obtain ⟨v, m⟩ := e
    dsimp only at this ⊢
    rw [if_pos this]
    exact ih x (fun e' h' => h e' (by simp [h']))

theorem solo_triggers {v : Bool} {m : Trig} {code : Nat} (hu : (trigUnit v code).isSome) (hc : code < 4096) :
    ∀ e ∈ bundleMoves (soloBundle v m code), isNull e.2 = true ∨ (trigUnit e.1 e.2.dst.toNat).isSome = true := by
  intro e he
  rw [solo_moves] at he
  have key : ∀ v' : Bool, v' = v → isNull (soloMove m code) = true ∨ (trigUnit v' (soloMove m code).dst.toNat).isSome = true := by
    intro v' hv; subst hv; right
    show (trigUnit v' (BitVec.ofNat 12 code).toNat).isSome = true
    rw [ofNat12_toNat hc]; exact hu
  rcases List.mem_cons.mp he with he | he
  · subst he; exact key v rfl
  · cases v
    · simp at he
    · simp only [if_true, List.mem_cons, List.not_mem_nil, or_false, or_self] at he
      subst he; left; rfl

theorem runTriggers_nulls (ops : Ops) (i : Iss) (lits : List (BitVec 32)) (s0 s : State) (k : Option (Bool × MoveWord)) (v : Bool) (n : Nat) :
    runTriggers ops i lits s0 k n (if v then [(true, nullMove), (true, nullMove)] else []) s = .ok s := by
  cases v <;> rfl

/-- What a lone trigger does, from what its operation does. -/
theorem solo_effects {v : Bool} {ops : Ops} {code : Nat} {m : Trig} {s s1 : State} (hu : (trigUnit v code).isSome) (hc : code < 4096)
    (hp : passes (soloBundle v m code) s)
    (ht : runTrigger ops { issOf (soloBundle v m code) s with pos := 1 } [] s.started (strikeOf s s.cur.1 s.cur.2 (bundleMoves (soloBundle v m code)))
      s.started (v, soloMove m code) = .ok s1)
    (hn : (s1.brush s.cur.1 s.cur.2).newXfer = none ∨ noEnd s) :
    effects ops (issOf (soloBundle v m code) s) (soloBundle v m code) s.started = .ok s1 := by
  have hl : (soloBundle v m code).lits = [] := rfl
  have hx : (soloBundle v m code).mx = none := rfl
  have hs : s.started.setCore (issOf (soloBundle v m code) s).c (s.started.core (issOf (soloBundle v m code) s).c) = s.started :=
    State.setCore_core_modBrush _ _ _ _
  have hb : s.started.brush (issOf (soloBundle v m code) s).c (issOf (soloBundle v m code) s).b = s.me.fresh := State.brush_started s
  unfold effects
  dsimp only
  rw [passes_started hp, applyMoves_triggers _ _ _ _ _ _ _ _ (solo_triggers hu hc), applyMoves_triggers _ _ _ _ _ _ _ _ (solo_triggers hu hc),
    hs, hl, hx, hb]
  have hk : strikeOf s.started (issOf (soloBundle v m code) s).c (issOf (soloBundle v m code) s).b (bundleMoves (soloBundle v m code)) = _ :=
    strikeOf_started s _
  rw [hk]
  generalize strikeOf s s.cur.1 s.cur.2 (bundleMoves (soloBundle v m code)) = k at ht ⊢
  have hr : runTriggers ops (issOf (soloBundle v m code) s) [] s.started k 1 (bundleMoves (soloBundle v m code)) s.started = .ok s1 := by
    rw [solo_moves]
    unfold runTriggers
    rw [ht]
    exact runTriggers_nulls ..
  rw [hr]
  show (if _ then _ else _) = _
  rw [if_neg]
  have h := atEnd_false (x := (s1.brush s.cur.1 s.cur.2).newXfer) hp hn
  intro h'
  have h'' : (s.me.fresh.atEnd s.me.pc && (s.me.fresh.xfer.isSome || (s1.brush s.cur.1 s.cur.2).newXfer.isSome)) = true := h'
  rw [h] at h''
  exact absurd h'' (by decide)

/-- A parity error strikes the move of a lone trigger whose guard holds. -/
theorem strikeOf_solo {v : Bool} {code : Nat} {m : Trig} {s : State} (hu : (trigUnit v code).isSome) (hc : code < 4096)
    (hg : guardBit s.me (soloMove m code) = true) :
    strikeOf s s.cur.1 s.cur.2 (bundleMoves (soloBundle v m code)) = if s.mine.glitch = 3 then some (v, soloMove m code) else none := by
  unfold strikeOf
  have hi : (trigUnit v (soloMove m code).dst.toNat).isNone = false := by
    show (trigUnit v (BitVec.ofNat 12 code).toNat).isNone = false
    rw [ofNat12_toNat hc]
    cases h : trigUnit v code <;> simp [h] at hu ⊢
  have hk : carries (s.brush s.cur.1 s.cur.2) (v, soloMove m code) = true := by
    unfold carries
    simp only [soloMove_not_null m hu hc, Bool.not_false, Bool.true_and]
    cases v
    · exact hg
    · simp only [hi, Bool.and_false]
      exact hg
  refine ite_congr rfl (fun _ => ?_) (fun _ => rfl)
  rw [solo_moves, List.find?_cons, hk]

/-- A lone trigger with a guard that holds runs its operation. -/
theorem runTrigger_go {v : Bool} {ops : Ops} {code : Nat} {m : Trig} {s : State} (hu : (trigUnit v code).isSome) (hc : code < 4096)
    (hg : guardBit s.me (soloMove m code) = true) :
    runTrigger ops { issOf (soloBundle v m code) s with pos := 1 } [] s.started (strikeOf s s.cur.1 s.cur.2 (bundleMoves (soloBundle v m code)))
        s.started (v, soloMove m code) =
      if v then ops.v code (soloIss v code s) (hitV (s.mine.glitch == 3) (vValue s.mine code (readSrcV s s.cur.1 s.cur.2 m.src.toNat))) s.started
      else ops.s code (soloIss v code s) (hitS (s.mine.glitch == 3) (readSrcS s s.cur.1 s.cur.2 [] m.src.toNat)) s.started := by
  have hk : (strikeOf s s.cur.1 s.cur.2 (bundleMoves (soloBundle v m code)) == some (v, soloMove m code)) = (s.mine.glitch == 3) := by
    rw [strikeOf_solo hu hc hg]
    by_cases h : s.mine.glitch = 3 <;> simp [h]
  generalize strikeOf s s.cur.1 s.cur.2 (bundleMoves (soloBundle v m code)) = k at hk ⊢
  unfold runTrigger
  dsimp only
  rw [soloMove_not_null m hu hc, ofNat12_toNat hc]
  have hg' : guardBit (s.started.brush (issOf (soloBundle v m code) s).c (issOf (soloBundle v m code) s).b) (soloMove m code) = true := by
    show guardBit (s.started.brush s.cur.1 s.cur.2) _ = true
    rw [State.brush_started]; exact hg
  have hi : (trigUnit v code).isNone = false := by
    cases h : trigUnit v code <;> simp [h] at hu ⊢
  rw [hg', hi]
  rw [if_neg (by decide)]
  have e1 := vValue_started s code (readSrcV s s.cur.1 s.cur.2 m.src.toNat)
  have e2 := readSrcV_started s m.src.toNat
  have e3 := readSrcS_started s [] m.src.toNat
  cases v
  · rw [if_neg (by decide), if_neg (by decide)]
    unfold movedS
    rw [hk]
    show ops.s code (soloIss false code s) (hitS (s.mine.glitch == 3) (readSrcS s.started s.cur.1 s.cur.2 [] m.src.toNat)) s.started = _
    rw [e3]
  · rw [if_pos rfl, if_pos rfl]
    unfold movedV
    rw [hk]
    show ops.v code (soloIss true code s) (hitV (s.mine.glitch == 3) (vValue (s.started.core s.cur.1) (BitVec.ofNat 12 code).toNat
      (readSrcV s.started s.cur.1 s.cur.2 m.src.toNat))) s.started = _
    rw [ofNat12_toNat hc, e2, e1]

/-- A lone trigger with a guard that does not hold has no effect (R15). -/
theorem runTrigger_off {v : Bool} {ops : Ops} {code : Nat} {m : Trig} {s : State} {k : Option (Bool × MoveWord)}
    (hg : guardBit s.me (soloMove m code) = false) :
    runTrigger ops { issOf (soloBundle v m code) s with pos := 1 } [] s.started k s.started (v, soloMove m code) = .ok s.started := by
  unfold runTrigger
  dsimp only
  have hg' : guardBit (s.started.brush (issOf (soloBundle v m code) s).c (issOf (soloBundle v m code) s).b) (soloMove m code) = false := by
    show guardBit (s.started.brush s.cur.1 s.cur.2) _ = false
    rw [State.brush_started]; exact hg
  rw [hg']
  simp

theorem finishIssue_iss (v : Bool) (m : Trig) (code n : Nat) (s s1 : State) :
    finishIssue (issOf (soloBundle v m code) s) n s1 = finishIssue (soloIss v code s) n s1 := by
  cases v <;> rfl

/-- A lone S-space trigger whose guard holds answers the state its operation leaves. -/
theorem issueS_ok {code : Nat} {op : SOp} {m : Trig} {s s1 : State} (hu : (trigUnit false code).isSome) (hc : code < 4096)
    (hp : passes (soloBundle false m code) s) (hg : guardBit s.me (soloMove m code) = true)
    (hop : op (soloIss false code s) (hitS (s.mine.glitch == 3) (readSrcS s s.cur.1 s.cur.2 [] m.src.toNat)) s.started = .ok s1)
    (hn : (s1.brush s.cur.1 s.cur.2).newXfer = none ∨ noEnd s) (ha : (s1.brush s.cur.1 s.cur.2).after = none) :
    issueS code op m s = .next (finishIssue (soloIss false code s) s.mine.seq s1) := by
  unfold issueS
  have h := runTrigger_go (ops := { noOps with s := fun _ => op }) hu hc hg
  rw [issue_ok (solo_effects hu hc hp (h.trans hop) hn) ha, finishIssue_iss]

/-- A lone V-space trigger whose guard holds answers the state its operation leaves. -/
theorem issueV_ok {code : Nat} {op : VOp} {m : Trig} {s s1 : State} (hu : (trigUnit true code).isSome) (hc : code < 4096)
    (hp : passes (soloBundle true m code) s) (hg : guardBit s.me (soloMove m code) = true)
    (hop : op (soloIss true code s) (hitV (s.mine.glitch == 3) (vValue s.mine code (readSrcV s s.cur.1 s.cur.2 m.src.toNat))) s.started = .ok s1)
    (hn : (s1.brush s.cur.1 s.cur.2).newXfer = none ∨ noEnd s) (ha : (s1.brush s.cur.1 s.cur.2).after = none) :
    issueV code op m s = .next (finishIssue (soloIss true code s) s.mine.seq s1) := by
  unfold issueV
  have h := runTrigger_go (ops := { noOps with v := fun _ => op }) hu hc hg
  rw [issue_ok (solo_effects hu hc hp (h.trans hop) hn) ha, finishIssue_iss]

/-- A lone trigger whose guard does not hold changes nothing but where the brush goes (R15). -/
theorem issueS_off {code : Nat} {op : SOp} {m : Trig} {s : State} (hu : (trigUnit false code).isSome) (hc : code < 4096)
    (hp : passes (soloBundle false m code) s) (hg : guardBit s.me (soloMove m code) = false) :
    issueS code op m s = .next (finishIssue (soloIss false code s) s.mine.seq s.started) := by
  unfold issueS
  have hb := State.brush_started s
  rw [issue_ok (solo_effects hu hc hp (runTrigger_off hg) (Or.inl (by rw [hb]; rfl))) (by rw [hb]; rfl), finishIssue_iss]
theorem issueV_off {code : Nat} {op : VOp} {m : Trig} {s : State} (hu : (trigUnit true code).isSome) (hc : code < 4096)
    (hp : passes (soloBundle true m code) s) (hg : guardBit s.me (soloMove m code) = false) :
    issueV code op m s = .next (finishIssue (soloIss true code s) s.mine.seq s.started) := by
  unfold issueV
  have hb := State.brush_started s
  rw [issue_ok (solo_effects hu hc hp (runTrigger_off hg) (Or.inl (by rw [hb]; rfl))) (by rw [hb]; rfl), finishIssue_iss]

/-! ### Where the brush goes -/

/-- `advance` moves only where the brush goes. -/
theorem advance_still (h len wait t : Nat) (y : Brush) : (advance h len wait t y).still = y.still := by
  unfold advance
  dsimp only
  cases y.newXfer with
  | some z => rfl
  | none =>
    dsimp only
    cases y.xfer with
    | some z => dsimp only; split <;> rfl
    | none =>
      dsimp only
      cases y.jump <;> rfl

theorem advance_run (h len wait t : Nat) (y : Brush) : (advance h len wait t y).run = y.run ∧ (advance h len wait t y).newWait = y.newWait := by
  unfold advance
  dsimp only
  cases y.newXfer with
  | some z => exact ⟨rfl, rfl⟩
  | none =>
    dsimp only
    cases y.xfer with
    | some z => dsimp only; split <;> exact ⟨rfl, rfl⟩
    | none => dsimp only; cases y.jump <;> exact ⟨rfl, rfl⟩

/-- The wait a bundle has started, with its place among the brush's operations (log 9). -/
def sealWait (n m : Nat) : Option Wait → Option Wait
  | some (.fence 0) => some (.fence n)
  | some (.phend 0 a) => some (.phend m a)
  | w => w

/-- A running brush after a bundle that started wait `w`. -/
def Brush.waits (y : Brush) (w : Option Wait) : Brush :=
  { y with run := match w with
             | some w => if y.run = .running then .waiting w else y.run
             | none => y.run }

/-- What the end of a bundle leaves, from what the bundle's effects `s1` were. -/
theorem finish_changes {i : Iss} {n : Nat} {s s1 : State} (hc : i.c = s.cur.1) (hb : i.b = s.cur.2)
    (hcores : ∀ c, c ≠ s.cur.1 → s1.core c = s.core c) (hbrushes : ∀ b, b ≠ s.cur.2 → s1.brush s.cur.1 b = s.brush s.cur.1 b)
    (hrest : s1.rest = s.rest) :
    Changes s (finishIssue i n s1) (s1.core s.cur.1)
      ((s1.brush s.cur.1 s.cur.2).waits (sealWait (n + 1) ((s1.core s.cur.1).seq + 2) (s1.brush s.cur.1 s.cur.2).newWait)) := by
  have hcur : s1.cur = s.cur := (congrArg State.cur hrest : s1.rest.cur = s.rest.cur)
  have hf : (finishIssue i n s1).cur = s.cur := hcur
  unfold finishIssue sealReleases
  rw [hc, hb]
  dsimp only
  refine ⟨hrest, ?_, ?_, ?_, ?_⟩
  · intro c h
    rw [State.core_modBrush_ne _ _ _ h, State.core_setCore_ne _ _ h, hcores c h]
  · intro b h
    rw [State.brush_modBrush_ne _ _ _ h, State.brush_setCore_same, Core.brush_modBrush, if_neg h]
    exact hbrushes b h
  · unfold State.mine
    show Core.still ((State.modBrush _ _ _ _).core s1.cur.1) = _
    rw [hcur, State.core_modBrush_same, State.core_setCore_same]
    unfold Core.still
    simp only [Core.modBrush_rels, List.map_map]
    have : ((fun r : Rel => { r with seq := 0 }) ∘ fun r : Rel => if r.seq = 0 then { r with seq := n + 1 } else r) = fun r => { r with seq := 0 } := by
      funext r; simp only [Function.comp]; split <;> rfl
    rw [this]
    rfl
  · unfold State.me
    show Brush.still ((State.modBrush _ _ _ _).brush s1.cur.1 s1.cur.2) = _
    rw [hcur, State.brush_modBrush_same, State.brush_setCore_same, Core.brush_modBrush_same]
    have e : (Core.brush { s1.core s.cur.1 with seq := (s1.core s.cur.1).seq + 2, rels := (s1.core s.cur.1).rels.map (fun r => if r.seq = 0 then { r with seq := n + 1 } else r) } s.cur.2) =
      s1.brush s.cur.1 s.cur.2 := rfl
    rw [e]
    generalize s1.brush s.cur.1 s.cur.2 = y
    generalize (s1.core s.cur.1).seq + 2 = m
    generalize hy : ({ y with newWait := match y.newWait with
      | some (.fence 0) => some (.fence (n + 1))
      | some (.phend 0 a) => some (.phend m a)
      | w => w } : Brush) = y'
    have hst := advance_still i.h i.len i.wait (s1.cyc s.cur.1) y'
    have hru := advance_run i.h i.len i.wait (s1.cyc s.cur.1) y'
    generalize advance i.h i.len i.wait (s1.cyc s.cur.1) y' = z at hst hru
    have hw : y'.newWait = sealWait (n + 1) m y.newWait := by rw [← hy]; rfl
    have hr : y'.run = y.run := by rw [← hy]
    have hy' : y'.still = y.still := by rw [← hy]; rfl
    rw [hy'] at hst
    rw [hr, hw] at hru
    have e1 : z.settle.still = { z.still with run := match z.newWait with
             | some w => if z.run = .running then .waiting w else z.run
             | none => z.run } := rfl
    rw [e1, hst, hru.1, hru.2]
    rfl

/-- The same for a bundle that started no wait. -/
theorem finish_changes_nowait {i : Iss} {n : Nat} {s s1 : State} (hc : i.c = s.cur.1) (hb : i.b = s.cur.2)
    (hcores : ∀ c, c ≠ s.cur.1 → s1.core c = s.core c) (hbrushes : ∀ b, b ≠ s.cur.2 → s1.brush s.cur.1 b = s.brush s.cur.1 b)
    (hrest : s1.rest = s.rest)
    (hw : (s1.brush s.cur.1 s.cur.2).newWait = none) :
    Changes s (finishIssue i n s1) (s1.core s.cur.1) (s1.brush s.cur.1 s.cur.2) := by
  have h := finish_changes (i := i) (n := n) hc hb hcores hbrushes hrest
  rw [hw] at h
  exact h

theorem Changes.congr {s t : State} {x x' : Core} {y y' : Brush} (h : Changes s t x y) (hx : x.still = x'.still) (hy : y.still = y'.still) :
    Changes s t x' y' :=
  ⟨h.rest, h.cores, h.brushes, h.core.trans hx, h.brush.trans hy⟩

theorem core_started_ne (s : State) {c : Nat} (h : c ≠ s.cur.1) : s.started.core c = s.core c := by
  unfold State.started; rw [State.core_modBrush_ne _ _ _ h]; rfl
theorem brush_started_ne (s : State) {b : Nat} (h : b ≠ s.cur.2) : s.started.brush s.cur.1 b = s.brush s.cur.1 b := by
  unfold State.started; rw [State.brush_modBrush_ne _ _ _ h]; rfl
theorem rest_started (s : State) : s.started.rest = s.rest := rfl

/-- Without any effect, nothing changes. -/
theorem finish_frame (v : Bool) (code n : Nat) (s : State) : Frame s (finishIssue (soloIss v code s) n s.started) := by
  have h := finish_changes_nowait (i := soloIss v code s) (n := n) (s := s) (s1 := s.started) rfl rfl
    (fun c h => core_started_ne s h) (fun b h => brush_started_ne s h) (rest_started s) (by rw [State.brush_started]; rfl)
  exact h.congr (by rw [State.core_started]; rfl) (by rw [State.brush_started]; rfl)

/-! ### Operations that write the core of their brush -/

/-- The end of a lone trigger whose operation wrote its core `z`. -/
theorem finish_core (v : Bool) (code n : Nat) (s : State) (z : Core) (hb : ∀ b, b ≠ s.cur.2 → z.brush b = s.mine.brush b) :
    Changes s (finishIssue (soloIss v code s) n (s.started.setCore s.cur.1 z)) z
      ((z.brush s.cur.2).waits (sealWait (n + 1) (z.seq + 2) (z.brush s.cur.2).newWait)) := by
  have h := finish_changes (i := soloIss v code s) (n := n) (s := s) (s1 := s.started.setCore s.cur.1 z) rfl rfl
    (fun c h => by rw [State.core_setCore_ne _ _ h]; exact core_started_ne s h)
    (fun b h => by rw [State.brush_setCore_same]; exact hb b h) (rest_started s)
  rw [State.core_setCore_same, State.brush_setCore_same] at h
  exact h

/-- Where the brush goes after it. -/
theorem finish_core_me (v : Bool) (code n : Nat) (s : State) (z : Core) :
    (finishIssue (soloIss v code s) n (s.started.setCore s.cur.1 z)).me =
      (advance s.me.pc (if v then 4 else 2) 0 (s.cyc s.cur.1)
        { z.brush s.cur.2 with newWait := sealWait (n + 1) (z.seq + 2) (z.brush s.cur.2).newWait }).settle := by
  unfold finishIssue sealReleases State.me
  show ((State.modBrush _ _ _ _).brush s.cur.1 s.cur.2) = _
  dsimp only [soloIss]
  rw [State.brush_modBrush_same, State.brush_setCore_same, Core.brush_modBrush_same, State.core_setCore_same]
  rfl

/-- A lone S-space trigger whose operation writes its core `z`. -/
theorem issueS_core {code : Nat} {op : SOp} {m : Trig} {s : State} {z : Core} (hu : (trigUnit false code).isSome) (hc : code < 4096)
    (hp : passes (soloBundle false m code) s) (hg : guardBit s.me (soloMove m code) = true)
    (hop : op (soloIss false code s) (hitS (s.mine.glitch == 3) (readSrcS s s.cur.1 s.cur.2 [] m.src.toNat)) s.started = .ok (s.started.setCore s.cur.1 z))
    (hb : ∀ b, b ≠ s.cur.2 → z.brush b = s.mine.brush b)
    (hn : (z.brush s.cur.2).newXfer = none ∨ noEnd s) (ha : (z.brush s.cur.2).after = none) :
    ∃ t, issueS code op m s = .next t ∧ Changes s t z
      ((z.brush s.cur.2).waits (sealWait (s.mine.seq + 1) (z.seq + 2) (z.brush s.cur.2).newWait)) ∧
      t.me = (advance s.me.pc 2 0 (s.cyc s.cur.1)
        { z.brush s.cur.2 with newWait := sealWait (s.mine.seq + 1) (z.seq + 2) (z.brush s.cur.2).newWait }).settle :=
  ⟨_, issueS_ok hu hc hp hg hop (by rw [State.brush_setCore_same]; exact hn) (by rw [State.brush_setCore_same]; exact ha),
    finish_core false code s.mine.seq s z hb, finish_core_me false code s.mine.seq s z⟩

/-- A lone V-space trigger whose operation writes its core `z`. -/
theorem issueV_core {code : Nat} {op : VOp} {m : Trig} {s : State} {z : Core} (hu : (trigUnit true code).isSome) (hc : code < 4096)
    (hp : passes (soloBundle true m code) s) (hg : guardBit s.me (soloMove m code) = true)
    (hop : op (soloIss true code s) (hitV (s.mine.glitch == 3) (vValue s.mine code (readSrcV s s.cur.1 s.cur.2 m.src.toNat))) s.started = .ok (s.started.setCore s.cur.1 z))
    (hb : ∀ b, b ≠ s.cur.2 → z.brush b = s.mine.brush b)
    (hn : (z.brush s.cur.2).newXfer = none ∨ noEnd s) (ha : (z.brush s.cur.2).after = none) :
    ∃ t, issueV code op m s = .next t ∧ Changes s t z
      ((z.brush s.cur.2).waits (sealWait (s.mine.seq + 1) (z.seq + 2) (z.brush s.cur.2).newWait)) ∧
      t.me = (advance s.me.pc 4 0 (s.cyc s.cur.1)
        { z.brush s.cur.2 with newWait := sealWait (s.mine.seq + 1) (z.seq + 2) (z.brush s.cur.2).newWait }).settle :=
  ⟨_, issueV_ok hu hc hp hg hop (by rw [State.brush_setCore_same]; exact hn) (by rw [State.brush_setCore_same]; exact ha),
    finish_core true code s.mine.seq s z hb, finish_core_me true code s.mine.seq s z⟩

theorem started_modBrush (s : State) (f : Brush → Brush) :
    s.started.modBrush s.cur.1 s.cur.2 f = s.started.setCore s.cur.1 ((s.started.core s.cur.1).setBrush s.cur.2 (f s.me.fresh)) := by
  have e : (s.started.core s.cur.1).brush s.cur.2 = s.me.fresh := State.brush_started s
  unfold State.modBrush State.modCore Core.modBrush
  dsimp only
  rw [e]

/-- A lone S-space trigger whose operation writes only its brush: the wait it starts, a jump or a transfer, its registers. -/
theorem issueS_brush {code : Nat} {op : SOp} {m : Trig} {s : State} {f : Brush → Brush} (hu : (trigUnit false code).isSome) (hc : code < 4096)
    (hp : passes (soloBundle false m code) s) (hg : guardBit s.me (soloMove m code) = true)
    (hop : op (soloIss false code s) (hitS (s.mine.glitch == 3) (readSrcS s s.cur.1 s.cur.2 [] m.src.toNat)) s.started = .ok (s.started.modBrush s.cur.1 s.cur.2 f))
    (hn : (f s.me.fresh).newXfer = none ∨ noEnd s) (ha : (f s.me.fresh).after = none) :
    ∃ t, issueS code op m s = .next t ∧ Changes s t s.mine
      ((f s.me.fresh).waits (sealWait (s.mine.seq + 1) (s.mine.seq + 2) (f s.me.fresh).newWait)) ∧
      t.me = (advance s.me.pc 2 0 (s.cyc s.cur.1)
        { f s.me.fresh with newWait := sealWait (s.mine.seq + 1) (s.mine.seq + 2) (f s.me.fresh).newWait }).settle := by
  rw [started_modBrush] at hop
  have hz : ((s.started.core s.cur.1).setBrush s.cur.2 (f s.me.fresh)).brush s.cur.2 = f s.me.fresh := Core.brush_setBrush_same _ _ _
  have hq : ((s.started.core s.cur.1).setBrush s.cur.2 (f s.me.fresh)).seq = s.mine.seq := by
    show (s.started.core s.cur.1).seq = _; rw [State.core_started]; rfl
  obtain ⟨t, h1, h2, h3⟩ := issueS_core hu hc hp hg hop (fun b h => by rw [Core.brush_setBrush_ne _ _ h]; exact brush_started_ne s h)
    (by rw [hz]; exact hn) (by rw [hz]; exact ha)
  rw [hz, hq] at h2 h3
  refine ⟨t, h1, h2.congr ?_ rfl, h3⟩
  show Core.still (s.started.core s.cur.1) = _
  rw [State.core_started]; rfl

/-! ### Starting an operation -/

theorem mem_lset {α : Type} {l : List α} {i : Nat} {v z : α} (h : z ∈ lset l i v) : z = v ∨ z ∈ l := by
  induction l generalizing i with
  | nil => cases h
  | cons a l ih =>
    cases i with
    | zero =>
      simp only [lset, List.mem_cons] at h ⊢
      rcases h with h | h
      · exact Or.inl h
      · exact Or.inr (Or.inr h)
    | succ i =>
      simp only [lset, List.mem_cons] at h ⊢
      rcases h with h | h
      · exact Or.inr (Or.inl h)
      · rcases ih h with h | h
        · exact Or.inl h
        · exact Or.inr (Or.inr h)

/-- What starting an operation does to a core. -/
def Core.added (x : Core) (b : Nat) (f : Flight) : Core :=
  { x with seq := x.seq + 1, newest := newestShared f x.newest }.setBrush b
    { x.brush b with flights := (x.brush b).flights ++ [{ f with seq := x.seq + 1, pc := (x.brush b).pc }], newest := newestOwn f (x.brush b).newest }

/-- With room for it, an operation starts. -/
theorem addFlight_eq {s : State} {c b : Nat} {f : Flight} (hr : (s.core c).room b f.dst f.due) :
    addFlight c b f s = .ok (s.setCore c ((s.core c).added b f)) := by
  have h12 : ¬ 12 ≤ (s.core c).inFlight b := by have := hr.2; omega
  unfold addFlight Core.added
  dsimp only
  rw [if_neg]
  · rw [if_neg h12]
  · cases hd : f.dst with
    | none => simp
    | some d =>
      have key : ∀ l : List Flight, (∀ g ∈ l, ¬ (g.dst = f.dst ∧ g.due = f.due)) → l.any (fun g => g.dst == f.dst && g.due == f.due) = false := by
        intro l hl
        rw [List.any_eq_false]
        intro g hg h
        simp only [Bool.and_eq_true, beq_iff_eq] at h
        exact hl g hg h
      have hs : f.dst.isSome := by rw [hd]; rfl
      have hown : ∀ g ∈ ((s.core c).brush b).flights, ¬ (g.dst = f.dst ∧ g.due = f.due) := fun g hg => hr.1 hs g (Or.inl hg)
      have hall : (∃ n, f.dst = some (.ss n) ∨ f.dst = some (.vs n)) →
          ∀ g ∈ (s.core c).brushes.flatMap (fun z => z.flights), ¬ (g.dst = f.dst ∧ g.due = f.due) := by
        intro hx g hg
        obtain ⟨z, hz, hf⟩ := List.mem_flatMap.mp hg
        exact hr.1 hs g (Or.inr ⟨hx, z, hz, hf⟩)
      rw [← hd]
      cases d with
      | ps n => simp only [hd, Option.isSome_some, Bool.true_and]; rw [← hd]; simp [key _ hown]
      | pv n => simp only [hd, Option.isSome_some, Bool.true_and]; rw [← hd]; simp [key _ hown]
      | ss n => simp only [hd, Option.isSome_some, Bool.true_and]; rw [← hd]; simp [key _ (hall ⟨n, Or.inl hd⟩)]
      | vs n => simp only [hd, Option.isSome_some, Bool.true_and]; rw [← hd]; simp [key _ (hall ⟨n, Or.inr hd⟩)]

/-- Room depends on the brushes and the units in transfer only. -/
theorem Core.room_congr {x z : Core} {b : Nat} {dst : Option Dst} {due : Nat} (hb : z.brushes = x.brushes) (hm : z.moving = x.moving)
    (hr : x.room b dst due) : z.room b dst due := by
  have hB : z.brush b = x.brush b := by unfold Core.brush; rw [hb]
  refine ⟨fun h f hf => hr.1 h f ?_, ?_⟩
  · rw [hB, hb] at hf; exact hf
  · have : z.inFlight b = x.inFlight b := by unfold Core.inFlight Core.inMove; rw [hB, hm]
    rw [this]; exact hr.2

/-- A brush's update that leaves its flights leaves its room. -/
theorem Core.room_setBrush {x : Core} {b : Nat} {dst : Option Dst} {due : Nat} (y : Brush) (hy : y.flights = (x.brush b).flights)
    (hr : x.room b dst due) : (x.setBrush b y).room b dst due := by
  refine ⟨fun h f hf => hr.1 h f ?_, ?_⟩
  · rcases hf with hf | ⟨hx, z, hz, hf⟩
    · rw [Core.brush_setBrush_same, hy] at hf; exact Or.inl hf
    · rcases mem_lset hz with hz | hz
      · subst hz; rw [hy] at hf; exact Or.inl hf
      · rcases List.mem_append.mp hz with hz | hz
        · exact Or.inr ⟨hx, z, hz, hf⟩
        · obtain ⟨_, rfl⟩ := List.mem_replicate.mp hz
          cases hf
  · have : (x.setBrush b y).inFlight b = x.inFlight b := by unfold Core.inFlight; rw [Core.brush_setBrush_same, hy]; rfl
    rw [this]; exact hr.2

theorem room_started {s : State} {dst : Option Dst} {due : Nat} (hr : room s dst due) : (s.started.core s.cur.1).room s.cur.2 dst due := by
  rw [State.core_started]
  exact Core.room_setBrush _ rfl hr

/-- What starting an operation does to the core whose turn it is. -/
abbrev addedCore (s : State) (f : Flight) : Core := (s.started.core s.cur.1).added s.cur.2 f

theorem addFlight_ok {s : State} {f : Flight} (hr : room s f.dst f.due) :
    addFlight s.cur.1 s.cur.2 f s.started = .ok (s.started.setCore s.cur.1 (addedCore s f)) := addFlight_eq (room_started hr)

theorem addedCore_eq (s : State) (f : Flight) : addedCore s f =
    { s.mine.modBrush s.cur.2 Brush.fresh with seq := s.mine.seq + 1, newest := newestShared f s.mine.newest }.setBrush s.cur.2
      { s.me.fresh with flights := s.me.flights ++ [{ f with seq := s.mine.seq + 1, pc := s.me.pc }], newest := newestOwn f s.me.newest } := by
  have hb : (s.started.core s.cur.1).brush s.cur.2 = s.me.fresh := State.brush_started s
  unfold addedCore Core.added
  rw [hb, State.core_started]
  rfl

theorem addedCore_still (s : State) (f : Flight) : (addedCore s f).still = (startedCore s f).still := by
  rw [addedCore_eq]; rfl

theorem addedCore_brush (s : State) (f : Flight) : ((addedCore s f).brush s.cur.2).still = (startedBrush s f).still := by
  rw [addedCore_eq, Core.brush_setBrush_same]; rfl

theorem addedCore_other (s : State) (f : Flight) {b : Nat} (h : b ≠ s.cur.2) : (addedCore s f).brush b = s.mine.brush b := by
  have e : (s.started.core s.cur.1).brush b = s.mine.brush b := brush_started_ne s h
  unfold addedCore Core.added
  rw [Core.brush_setBrush_ne _ _ h]
  exact e

theorem addedCore_idle (s : State) (f : Flight) :
    ((addedCore s f).brush s.cur.2).newXfer = none ∧ ((addedCore s f).brush s.cur.2).after = none ∧ ((addedCore s f).brush s.cur.2).newWait = none := by
  rw [addedCore_eq, Core.brush_setBrush_same]; exact ⟨rfl, rfl, rfl⟩

theorem finish_starts (v : Bool) (code n : Nat) (s : State) (f : Flight) :
    Starts s (finishIssue (soloIss v code s) n (s.started.setCore s.cur.1 (addedCore s f))) f := by
  have h := finish_changes_nowait (i := soloIss v code s) (n := n) (s := s) (s1 := s.started.setCore s.cur.1 (addedCore s f)) rfl rfl
    (fun c h => by rw [State.core_setCore_ne _ _ h]; exact core_started_ne s h)
    (fun b h => by rw [State.brush_setCore_same]; exact addedCore_other s f h) (rest_started s)
    (by rw [State.brush_setCore_same]; exact (addedCore_idle s f).2.2)
  refine h.congr ?_ ?_
  · rw [State.core_setCore_same]; exact addedCore_still s f
  · rw [State.brush_setCore_same]; exact addedCore_brush s f

/-- A lone S-space trigger that starts one operation. -/
theorem issueS_starts {code : Nat} {op : SOp} {m : Trig} {s : State} {f : Flight} (hu : (trigUnit false code).isSome) (hc : code < 4096)
    (hp : passes (soloBundle false m code) s) (hg : guardBit s.me (soloMove m code) = true)
    (hop : op (soloIss false code s) (hitS (s.mine.glitch == 3) (readSrcS s s.cur.1 s.cur.2 [] m.src.toNat)) s.started = addFlight s.cur.1 s.cur.2 f s.started)
    (hr : room s f.dst f.due) : ∃ t, issueS code op m s = .next t ∧ Starts s t f := by
  refine ⟨_, issueS_ok hu hc hp hg (hop.trans (addFlight_ok hr)) (Or.inl ?_) ?_, finish_starts ..⟩
  · rw [State.brush_setCore_same]; exact (addedCore_idle s f).1
  · rw [State.brush_setCore_same]; exact (addedCore_idle s f).2.1

/-- A lone V-space trigger that starts one operation. -/
theorem issueV_starts {code : Nat} {op : VOp} {m : Trig} {s : State} {f : Flight} (hu : (trigUnit true code).isSome) (hc : code < 4096)
    (hp : passes (soloBundle true m code) s) (hg : guardBit s.me (soloMove m code) = true)
    (hop : op (soloIss true code s) (hitV (s.mine.glitch == 3) (vValue s.mine code (readSrcV s s.cur.1 s.cur.2 m.src.toNat))) s.started = addFlight s.cur.1 s.cur.2 f s.started)
    (hr : room s f.dst f.due) : ∃ t, issueV code op m s = .next t ∧ Starts s t f := by
  refine ⟨_, issueV_ok hu hc hp hg (hop.trans (addFlight_ok hr)) (Or.inl ?_) ?_, finish_starts ..⟩
  · rw [State.brush_setCore_same]; exact (addedCore_idle s f).1
  · rw [State.brush_setCore_same]; exact (addedCore_idle s f).2.1

end Sys2Proof.Machine
end

