-- ==== Sys2Proof/Laws/Memory.lean ====
section
/-! SUPPORT. Every operation of Machine/Ops.lean that writes memory keeps the canonical form of the part's memories. -/
namespace Sys2Proof.Machine

/-! ### The form of a core's memories, and of the part's -/

theorem Core.memOk_iff (x : Core) : x.memOk = true ↔
    Memory.wf x.mem = true ∧ Memory.wf x.vault = true ∧ mwf false x.memP = true ∧ mwf false x.vaultP = true := by
  simp [Core.memOk, and_assoc]

/-- A core with the same bytes and marks has the form too. -/
theorem Core.memOk_congr {x z : Core} (h : x.memOk = true) (hm : z.mem = x.mem) (hv : z.vault = x.vault) (hp : z.memP = x.memP)
    (hq : z.vaultP = x.vaultP) : z.memOk = true := by
  rw [Core.memOk_iff] at h ⊢
  rwa [hm, hv, hp, hq]

theorem mem_mput {α : Type} {m : Map α} {k : Nat} {v : α} {e : Nat × α} (h : e ∈ mput m k v) : e = (k, v) ∨ e ∈ m := by
  induction m with
  | nil => simpa [mput] using h
  | cons a r ih =>
    unfold mput at h
    split at h
    · simpa using h
    · split at h
      · rcases List.mem_cons.1 h with rfl | h
        · exact .inl rfl
        · exact .inr (List.mem_cons_of_mem _ h)
      · rcases List.mem_cons.1 h with rfl | h
        · exact .inr List.mem_cons_self
        · exact (ih h).imp_right (List.mem_cons_of_mem _)

theorem mget_mem {α : Type} (d : α) (m : Map α) (k : Nat) : mget d m k = d ∨ (k, mget d m k) ∈ m := by
  induction m with
  | nil => exact .inl rfl
  | cons a r ih =>
    obtain ⟨k', v⟩ := a
    unfold mget
    split
    · next e => subst e; exact .inr List.mem_cons_self
    · exact ih.imp_right (List.mem_cons_of_mem _)

theorem State.memOk_iff (s : State) : s.memOk = true ↔
    (∀ e ∈ s.cores, e.2.memOk = true) ∧ (∀ e ∈ s.saves, e.2.memOk = true) ∧ Memory.wf s.hostMem = true := by
  simp [State.memOk, and_assoc]

/-- A state with the same cores, saved contexts and host memory has the form too. -/
theorem State.memOk_congr {s t : State} (h : s.memOk = true) (hc : t.cores = s.cores) (hs : t.saves = s.saves) (hm : t.hostMem = s.hostMem) :
    t.memOk = true := by
  rw [State.memOk_iff] at h ⊢
  rwa [hc, hs, hm]

theorem State.memOk_core {s : State} (h : s.memOk = true) (c : Nat) : (s.core c).memOk = true := by
  rcases mget_mem Core.reset s.cores c with e | e
  · rw [State.core, e]; rfl
  · exact ((State.memOk_iff s).1 h).1 _ e

theorem State.memOk_setCore {s : State} (h : s.memOk = true) (c : Nat) {x : Core} (hx : x.memOk = true) : (s.setCore c x).memOk = true := by
  have ⟨h1, h2, h3⟩ := (State.memOk_iff s).1 h
  refine (State.memOk_iff _).2 ⟨fun e he => ?_, h2, h3⟩
  rcases mem_mput he with rfl | he
  · exact hx
  · exact h1 e he

theorem State.memOk_modCore {s : State} (h : s.memOk = true) (c : Nat) {f : Core → Core} (hf : ∀ x, x.memOk = true → (f x).memOk = true) :
    (s.modCore c f).memOk = true := State.memOk_setCore h c (hf _ (State.memOk_core h c))

theorem State.memOk_modBrush {s : State} (h : s.memOk = true) (c b : Nat) (f : Brush → Brush) : (s.modBrush c b f).memOk = true :=
  State.memOk_modCore h c (fun _ hx => hx)

theorem State.memOk_foldl {β : Type} {f : State → β → State} (hf : ∀ s e, s.memOk = true → (f s e).memOk = true) (l : List β) {s : State}
    (h : s.memOk = true) : (l.foldl f s).memOk = true := by
  induction l generalizing s with
  | nil => exact h
  | cons e l ih => exact ih (hf s e h)

theorem State.memOk_foldl_fst {β γ : Type} {f : State × γ → β → State × γ} (hf : ∀ a e, a.1.memOk = true → (f a e).1.memOk = true) (l : List β)
    {a : State × γ} (h : a.1.memOk = true) : (l.foldl f a).1.memOk = true := by
  induction l generalizing a with
  | nil => exact h
  | cons e l ih => exact ih (hf a e h)

/-! ### Writes in a core -/

theorem Core.memOk_mark {x : Core} (h : x.memOk = true) (p : Bool) : (x.mark p).memOk = true := by
  unfold Core.mark; split <;> exact h

theorem Core.memOk_setBrush {x : Core} (h : x.memOk = true) (b : Nat) (y : Brush) : (x.setBrush b y).memOk = true := h

theorem Core.memOk_wrScratch {x : Core} (h : x.memOk = true) (a n v p : Nat) : (x.wrScratch a n v p).memOk = true := by
  have ⟨h1, h2, h3, h4⟩ := x.memOk_iff.1 h
  unfold Core.wrScratch
  refine Core.memOk_mark ?_ _
  rw [Core.memOk_iff]
  exact ⟨wf_wrBytes n a v h1, h2, wf_wrPois 8 a n p h3, h4⟩

theorem Core.memOk_logLine {x : Core} (h : x.memOk = true) (line : Nat) : (x.logLine line).memOk = true := by
  have ⟨h1, h2, h3, h4⟩ := x.memOk_iff.1 h
  unfold Core.logLine
  split
  · exact h
  · split
    · exact h
    · dsimp only
      refine (Core.memOk_iff _).2 ⟨h1, wf_wrBytes _ _ _ h2, h3, ?_⟩
      exact wf_wrPois 16 (Config.undoBase + 128 * x.undo.length) 128 0 h4

theorem Core.memOk_foldl {β : Type} {f : Core → β → Core} (hf : ∀ x e, x.memOk = true → (f x e).memOk = true) (l : List β) {x : Core}
    (h : x.memOk = true) : (l.foldl f x).memOk = true := by
  induction l generalizing x with
  | nil => exact h
  | cons e l ih => exact ih (hf x e h)

theorem Core.memOk_commitVault {x : Core} (h : x.memOk = true) (a n v p : Nat) : (x.commitVault a n v p).memOk = true := by
  have ⟨h1, h2, h3, h4⟩ := (Core.memOk_iff _).1 (Core.memOk_foldl (fun _ e hx => Core.memOk_logLine hx e) (granules a n) h)
  unfold Core.commitVault
  dsimp only
  refine Core.memOk_mark ?_ _
  rw [Core.memOk_iff]
  exact ⟨h1, wf_wrBytes n a v h2, h3, wf_wrPois 16 a n p h4⟩

theorem Core.memOk_wrView (n : Nat) {x : Core} (h : x.memOk = true) (o v : Nat) : (x.wrView o v n).memOk = true := by
  induction n generalizing x o v with
  | zero => exact h
  | succ n ih =>
    unfold Core.wrView
    dsimp only
    refine ih ?_ _ _
    exact h

theorem Core.memOk_landBytes {x : Core} (h : x.memOk = true) (n bytes : Nat) (tag : Option Nat) : (x.landBytes n bytes tag).memOk = true := h
theorem Core.memOk_xfault {x : Core} (h : x.memOk = true) (kind land : Nat) (d1 : Word) : (x.xfault kind land d1).memOk = true := h
theorem Core.memOk_semInc {x : Core} (h : x.memOk = true) (n : Nat) : (x.semInc n).memOk = true := by
  unfold Core.semInc; dsimp only; split <;> exact h

/-! ### Errors and marks -/

theorem State.memOk_raiseMsi {s : State} (h : s.memOk = true) (v : Nat) : (s.raiseMsi v).memOk = true := h

theorem State.memOk_modSitting {s : State} (h : s.memOk = true) (c : Nat) (f : Sitting → Sitting) : (s.modSitting c f).memOk = true := h

theorem State.memOk_mcRecord {s : State} (h : s.memOk = true) (set bank ty cls phase : Nat) (addr : Word) (pos brush code : Nat) (used : Bool) :
    (s.mcRecord set bank ty cls phase addr pos brush code used).memOk = true := by
  unfold State.mcRecord
  dsimp only
  split <;> exact h

theorem State.memOk_coreError {s : State} (h : s.memOk = true) (c bank ty cls : Nat) (addr : Word) (brush code : Nat) :
    (s.coreError c bank ty cls addr brush code).memOk = true :=
  State.memOk_mcRecord h _ _ _ _ _ _ _ _ _ _

theorem State.memOk_markTrapAt {s : State} (h : s.memOk = true) (now : Bool) (c b : Nat) (t : Trap) : (s.markTrapAt now c b t).memOk = true := by
  unfold State.markTrapAt
  dsimp only
  split
  · exact State.memOk_modBrush h _ _ _
  · exact State.memOk_coreError h _ _ _ _ _ _ _

theorem State.memOk_markTrap {s : State} (h : s.memOk = true) (c b : Nat) (t : Trap) : (s.markTrap c b t).memOk = true :=
  State.memOk_markTrapAt h _ _ _ _

theorem State.memOk_escalate {s : State} (h : s.memOk = true) (c d : Nat) : (s.escalate c d).memOk = true := by
  unfold State.escalate
  dsimp only
  split
  · exact h
  · split
    · split
      · exact h
      · split <;> exact h
    · exact h

theorem memOk_rowError (c row kind : Nat) {s : State} (h : s.memOk = true) : (rowError c row kind s).memOk = true := by
  unfold rowError
  extract_lets c' n s'
  have h1 : s'.memOk = true := State.memOk_modCore h _ (fun x hx => Core.memOk_congr hx rfl rfl rfl rfl)
  split <;> exact h1

theorem memOk_eccUnit {s : State} (h : s.memOk = true) (c : Nat) (vault : Bool) (e : Nat × Nat) : (eccUnit c vault s e).memOk = true := by
  unfold eccUnit
  dsimp only
  have h0 : ∀ z : State, z.memOk = true → (if vault = true then rowError c ((if vault = true then e.1 - 2 ^ 40 else e.1) * 16 / Config.rowBytes) e.2 z else z).memOk = true := by
    intro z hz
    split
    · exact memOk_rowError _ _ _ hz
    · exact hz
  have h2 := h0 _ (State.memOk_coreError h c (if vault = true then 1 else 0) (if vault = true then 2 else 1) (if e.2 = 1 then 0 else 1)
    (w64 ((if vault = true then e.1 - 2 ^ 40 else e.1) * if vault = true then 16 else 8)) 0 0)
  by_cases h1 : e.2 = 1
  · rw [if_pos h1]; exact h2
  rw [if_neg h1]
  refine State.memOk_modCore h2 c (fun x hx => ?_)
  have ⟨m1, m2, m3, m4⟩ := x.memOk_iff.1 hx
  rw [Core.memOk_iff]
  cases vault
  · exact ⟨m1, m2, by simpa using mwf_mset _ _ m3, m4⟩
  · exact ⟨m1, m2, m3, by simpa using mwf_mset _ _ m4⟩

theorem State.memOk_eccTouch {s : State} (h : s.memOk = true) (c : Nat) (vault : Bool) (a n : Nat) : (s.eccTouch c vault a n).memOk = true :=
  State.memOk_foldl (fun _ e hs => memOk_eccUnit hs c vault e) _ h

/-! ### Accesses -/

theorem State.memOk_modXing {s : State} (h : s.memOk = true) (x : Nat) (f : Crossing → Crossing) : (s.modXing x f).memOk = true := h

theorem State.memOk_wrStream {s : State} (h : s.memOk = true) (c o n v : Nat) : (s.wrStream c o n v).memOk = true := by
  unfold State.wrStream
  split
  · exact h
  · exact State.memOk_modXing h _ _

theorem memOk_readPiece {s : State} (h : s.memOk = true) (c : Nat) (f : Flight) (q : Piece) : (readPiece s c f q).1.memOk = true := by
  unfold readPiece
  dsimp only
  split
  · exact State.memOk_eccTouch h _ _ _ _
  · exact State.memOk_eccTouch h _ _ _ _
  · exact h

theorem memOk_writePiece {s : State} (h : s.memOk = true) (c : Nat) (f : Flight) (q : Piece) : (writePiece s c f q).memOk = true := by
  unfold writePiece
  dsimp only
  split
  · exact State.memOk_modCore h c (fun x hx => Core.memOk_wrScratch hx _ _ _ _)
  · exact State.memOk_modCore h c (fun x hx => Core.memOk_congr (Core.memOk_wrView _ hx _ _) rfl rfl rfl rfl)
  · exact State.memOk_wrStream h _ _ _ _
  · exact State.memOk_modCore h c (fun x hx => hx)
  · exact h

theorem memOk_performPieces (sel : Flight → Piece → Bool) (c t : Nat) {s : State} (h : s.memOk = true) (f : Flight) :
    (performPieces sel c t s f).1.memOk = true := by
  unfold performPieces
  refine State.memOk_foldl_fst (a := (s, f)) (fun a q ha => ?_) _ h
  split
  · dsimp only
    split
    · exact memOk_writePiece ha _ _ _
    · exact memOk_readPiece ha _ _ _
  · exact ha

theorem memOk_performAll (sel : Flight → Piece → Bool) (c t : Nat) {s : State} (h : s.memOk = true) : (performAll sel c t s).memOk = true := by
  unfold performAll
  refine State.memOk_foldl (fun s b hs => State.memOk_foldl (fun s f hs => ?_) _ hs) _ h
  split
  · exact State.memOk_modBrush (memOk_performPieces sel c t hs f) _ _ _
  · exact hs

/-! ### Atomics, and entering a flight -/

theorem memOk_rmwSlotStep (c b t : Nat) {s : State} (h : s.memOk = true) (f : Flight) : (rmwSlotStep c b t s f).memOk = true := by
  unfold rmwSlotStep
  split
  · exact h
  · next lane _ =>
    obtain ⟨op, n⟩ := rmwOp f
    dsimp -zeta only
    extract_lets off addr s1 x
    obtain ⟨m, p⟩ := rmwRead x b f t addr n
    have h1 : s1.memOk = true := State.memOk_eccTouch h _ _ _ _
    exact State.memOk_setCore h1 c (Core.memOk_congr (State.memOk_core h1 c) rfl rfl rfl rfl)

theorem memOk_rmwSlots (c t : Nat) {s : State} (h : s.memOk = true) : (rmwSlots c t s).memOk = true := by
  unfold rmwSlots
  exact State.memOk_foldl (fun s b hs => State.memOk_foldl (fun s f hs => memOk_rmwSlotStep c b t hs f) _ hs) _ h

theorem memOk_rmwWrites (c t : Nat) {s : State} (h : s.memOk = true) : (rmwWrites c t s).memOk = true := by
  unfold rmwWrites
  refine State.memOk_modCore h c (fun x hx => ?_)
  have h1 := Core.memOk_foldl (f := fun x w => x.wrScratch w.addr w.n w.data.toNat (if w.pois then 3 else 0))
    (fun x w hx => Core.memOk_wrScratch hx _ _ _ _) (x.rmwW.filter (fun w => w.cyc = t)) hx
  exact Core.memOk_congr h1 rfl rfl rfl rfl

theorem memOk_addFlight {c b : Nat} {f : Flight} {s t : State} (h : s.memOk = true) (e : addFlight c b f s = .ok t) : t.memOk = true := by
  have hx := State.memOk_core h c
  unfold addFlight at e
  extract_lets x y clash shared all x1 at e
  split at e
  · cases e
  · split at e
    · cases e
    · obtain rfl := Except.ok.inj e
      exact State.memOk_setCore h c hx

theorem memOk_enterFlight {c : Nat} {f : Flight} {s t : State} (h : s.memOk = true) (e : enterFlight c f s = .ok t) : t.memOk = true := by
  unfold enterFlight at e
  dsimp only at e
  split at e
  · split at e <;> cases e
    exact State.memOk_setCore h c (State.memOk_core h c)
  · split at e
    · split at e <;> cases e
      exact State.memOk_setCore h c (State.memOk_core h c)
    · split at e <;> cases e
      exact State.memOk_setCore h c (State.memOk_core h c)

/-! ### Taking a trap and returning -/

theorem wf_writeRecord (b x i blk : Nat) (f : Flight) {m : List Host.Cell} (h : Memory.wf m = true) : Memory.wf (writeRecord b x i blk f m) = true := by
  have h3 := wf_wrBytes 8 (Config.frameBase + 512 * b + 0xE0 + 24 * i + 16) (recWords x blk f).2.2
    (wf_wrBytes 8 (Config.frameBase + 512 * b + 0xE0 + 24 * i + 8) (recWords x blk f).2.1
      (wf_wrBytes 8 (Config.frameBase + 512 * b + 0xE0 + 24 * i) (recWords x blk f).1 h))
  unfold writeRecord
  dsimp only
  split
  · exact wf_wrBytes _ _ _ h3
  · exact wf_wrBytes _ _ _ h3
  · exact wf_wrBytes _ _ _ (wf_wrBytes _ _ _ h3)
  · exact h3

theorem wf_writeRecords (b x : Nat) (fs : List Flight) {m : List Host.Cell} (h : Memory.wf m = true) (i blk : Nat) :
    Memory.wf (writeRecords b x i blk fs m) = true := by
  induction fs generalizing m i blk with
  | nil => exact wf_wrBytes _ _ _ h
  | cons f fs ih => exact ih (wf_writeRecord b x i blk f h) _ _

theorem Core.memOk_writeFrame {x : Core} (h : x.memOk = true) (b cyc k : Nat) (t : Trap) (fs : List Flight) : (writeFrame x b cyc k t fs).memOk = true := by
  have ⟨h1, h2, h3, h4⟩ := x.memOk_iff.1 h
  unfold writeFrame
  extract_lets y a put m1 m2 m3 m4 cap ov yv m5 m6
  have g1 : Memory.wf m2 = true := by
    iterate 8 refine wf_wrBytes _ _ _ ?_
    exact h1
  have g3 : Memory.wf m3 = true := mwf_foldl _ (fun m i hm => wf_wrBytes _ _ _ hm) _ g1
  have g4 : Memory.wf m4 = true := wf_writeRecords _ _ _ g3 _ _
  have g5 : Memory.wf m5 = true := wf_wrBytes _ _ _ (wf_wrBytes _ _ _ g4)
  have g6 : Memory.wf m6 = true := wf_wrBytes _ _ _ (wf_wrBytes _ _ _ g5)
  have hw : ({ x with mem := m6 } : Core).memOk = true := (Core.memOk_iff _).2 ⟨g6, h2, h3, h4⟩
  refine Core.memOk_foldl (fun x w hx => ?_) _ hw
  have ⟨k1, k2, k3, k4⟩ := x.memOk_iff.1 hx
  exact (Core.memOk_iff _).2 ⟨k1, k2, wf_wrPois _ _ _ _ k3, k4⟩

theorem memOk_readNow (c cyc : Nat) {s : State} (h : s.memOk = true) (f : Flight) : (readNow c cyc s f).1.memOk = true := by
  unfold readNow
  dsimp only
  split
  all_goals dsimp only; exact memOk_performPieces _ c cyc h f

theorem memOk_trapEntry (c b : Nat) (t : Trap) (gang : List Nat) {s : State} (h : s.memOk = true) : (trapEntry c b t gang s).memOk = true := by
  unfold trapEntry
  dsimp -zeta only
  extract_lets cyc
  split
  · exact State.memOk_escalate (State.memOk_modBrush (State.memOk_coreError h _ _ _ _ _ _ _) _ _ _) _ _
  · rename_i s1 s2 x y due own stay fs seqs cap others drop left lastRes w served x' gone y' _
    have h1 : s1.memOk = true := by
      refine State.memOk_foldl (fun s f hs => ?_) _ h
      split
      · exact hs
      · exact State.memOk_modBrush (memOk_readNow c _ hs f) _ _ _
    have h2 : s2.memOk = true := State.memOk_foldl (fun s f hs => memOk_rmwSlotStep c b _ hs f) _ h1
    have hx : x'.memOk = true := Core.memOk_writeFrame (State.memOk_core h2 c) _ _ _ _ _
    exact State.memOk_setCore h2 c (Core.memOk_congr hx rfl rfl rfl rfl)

theorem memOk_enterPort {c : Nat} {f : Flight} {s t : State} (h : s.memOk = true) (e : enterPort c f s = .ok t) : t.memOk = true := by
  unfold enterPort at e
  dsimp only at e
  split at e
  · cases e
  · obtain rfl := Except.ok.inj e
    exact State.memOk_modCore h c (fun _ hx => hx)

theorem memOk_rejoin (c b : Nat) (k : Cap) (f : Flight) {s : State} (h : s.memOk = true) : (rejoin c b k f s).memOk = true :=
  State.memOk_setCore h c (Core.memOk_congr (State.memOk_core h c) rfl rfl rfl rfl)

theorem memOk_reinject {c b : Nat} {k : Cap} {f : Flight} {s t : State} (h : s.memOk = true) (e : reinject c b k f s = .ok t) :
    t.memOk = true := by
  unfold reinject at e
  cases h1 : enterFlight c f s with
  | error r => rw [h1] at e; cases e
  | ok s1 =>
    rw [h1] at e
    have h2 := memOk_enterFlight h h1
    cases h3 : enterPort c f s1 with
    | error r => simp only [bind, Except.bind, h3] at e; cases e
    | ok s2 =>
      simp only [bind, Except.bind, h3] at e
      obtain rfl := Except.ok.inj e
      exact memOk_rejoin c b k f (memOk_enterPort h2 h3)

theorem memOk_reinjectAll (c b r d n : Nat) (caps : List Cap) {s : State} (h : s.memOk = true) : (reinjectAll c b r d n caps s).1.memOk = true := by
  unfold reinjectAll
  refine State.memOk_foldl_fst (a := (s, none)) (fun a i ha => ?_) _ h
  dsimp only
  split
  · exact ha
  · split
    · next e => exact memOk_reinject ha e
    · exact memOk_rejoin _ _ _ _ ha

theorem memOk_frameTouch (c b : Nat) {s : State} (h : s.memOk = true) : (frameTouch c b s).memOk = true := by
  unfold frameTouch
  iterate 4 refine State.memOk_eccTouch ?_ _ _ _ _
  exact h

theorem State.memOk_consumed {s : State} (h : s.memOk = true) (c : Nat) (addr : Word) (brush code : Nat) :
    (s.consumed c addr brush code).memOk = true := State.memOk_mcRecord h _ _ _ _ _ _ _ _ _ _

theorem memOk_trapReturn (c b r : Nat) {s : State} (h : s.memOk = true) : (trapReturn c b r s).memOk = true := by
  have h0 := memOk_frameTouch c b h
  unfold trapReturn
  generalize frameTouch c b s = z at h0 ⊢
  dsimp only
  cases ((z.core c).brush b).trapped with
  | none => exact h0
  | some v =>
    dsimp only
    split
    · exact memOk_trapEntry _ _ _ _ (State.memOk_consumed h0 _ _ _ _)
    have h1 := State.memOk_setCore h0 c (x := ((z.core c).mark (frameBrush (z.core c) b r v).2).setBrush b (frameBrush (z.core c) b r v).1)
      (Core.memOk_setBrush (Core.memOk_mark (State.memOk_core h0 c) _) _ _)
    have h2 := memOk_reinjectAll c b r (r - v.x) (frameDw (z.core c) b 0 / 2 ^ 32 % 16) v.caps h1
    generalize reinjectAll c b r (r - v.x) (frameDw (z.core c) b 0 / 2 ^ 32 % 16) v.caps _ = a at h2 ⊢
    split
    · exact h2
    · exact State.memOk_modBrush h2 _ _ _

theorem State.memOk_commitVault {s : State} (h : s.memOk = true) (c a n v p : Nat) : (s.commitVault c a n v p).memOk = true := by
  refine State.memOk_modCore (State.memOk_foldl (fun z l hz => ?_) _ h) c (fun _ hx => Core.memOk_commitVault hx _ _ _ _)
  split
  · exact State.memOk_eccTouch hz _ _ _ _
  · exact hz

end Sys2Proof.Machine
end

