-- ==== Sys2Proof/Laws/Scalar.lean ====
section
/-! SUPPORT. The bit counts and reversals of the scalar units (R234, R237), said bit by bit. -/
namespace Sys2Proof.Machine

theorem shCount_eq (d : Word) : shCount d = d.toNat % 64 := by
  simp [shCount, BitVec.extractLsb'_toNat]

/-- Trailing zero bits: the bits of 0 below the lowest 1. -/
theorem ctzFrom_eq (n d : Nat) : ctzFrom d n = ((List.range n).takeWhile (fun i => !d.testBit i)).length := by
  induction n generalizing d with
  | zero => rfl
  | succ n ih =>
    rw [ctzFrom, List.range_succ_eq_map, List.takeWhile_cons]
    have h0 : d.testBit 0 = decide (d % 2 = 1) := Nat.testBit_zero d
    by_cases h : d % 2 = 1
    · simp [h, h0]
    · rw [if_neg h, ih, h0]
      simp only [h, decide_false, Bool.not_false, if_true, List.length_cons, List.takeWhile_map, List.length_map]
      rw [Nat.add_comm]
      congr 3
      funext i
      simp [Function.comp, Nat.testBit_succ]

/-- Number of 1 bits. -/
theorem popFrom_eq (n d : Nat) : popFrom d n = ((List.range n).filter (fun i => d.testBit i)).length := by
  induction n generalizing d with
  | zero => rfl
  | succ n ih =>
    rw [popFrom, List.range_succ_eq_map, List.filter_cons, ih]
    have h0 : d.testBit 0 = decide (d % 2 = 1) := Nat.testBit_zero d
    have e : (List.map Nat.succ (List.range n)).filter (fun i => d.testBit i) = ((List.range n).filter (fun i => (d / 2).testBit i)).map Nat.succ := by
      rw [List.filter_map]
      congr 2
      funext i
      simp [Function.comp, Nat.testBit_succ]
    by_cases h : d % 2 = 1
    · simp [h, h0, e]; omega
    · have : d % 2 = 0 := by omega
      simp [this, h0, e]

/-- Leading zero bits: the bits of 0 above the highest 1. -/
theorem clz64_eq (d : Word) : clz64 d = ((List.range 64).takeWhile (fun i => !d.getLsbD (63 - i))).length := by
  have hl : ∀ k ≤ 64, (∀ i < k, d.getLsbD (63 - i) = false) → (k < 64 → d.getLsbD (63 - k) = true) →
      ((List.range 64).takeWhile (fun i => !d.getLsbD (63 - i))).length = k := by
    intro k hk h1 h2
    have e : List.range 64 = List.range k ++ (List.range (64 - k)).map (fun i => k + i) := by
      rw [← List.range_add]; congr 1; omega
    rw [e, List.takeWhile_append_of_pos (by intro i hi; simp [h1 i (List.mem_range.mp hi)])]
    by_cases hk' : k < 64
    · have e2 : List.range (64 - k) = 0 :: (List.range (63 - k)).map Nat.succ := by
        rw [show 64 - k = (63 - k) + 1 by omega, List.range_succ_eq_map]
      rw [e2]
      simp [h2 hk']
    · simp [show 64 - k = 0 by omega]
  unfold clz64
  split
  · rename_i h; subst h; rw [hl 64 (Nat.le_refl _) (by intro i _; simp) (by omega)]
  · rename_i h
    have hn : d.toNat ≠ 0 := fun e => h (BitVec.eq_of_toNat_eq (by simpa using e))
    have hlog : Nat.log2 d.toNat < 64 := (Nat.log2_lt hn).mpr d.isLt
    rw [hl (63 - Nat.log2 d.toNat) (by omega)]
    · intro i hi
      exact Nat.testBit_lt_two_pow (Nat.lt_of_lt_of_le Nat.lt_log2_self (Nat.pow_le_pow_right (by decide) (by omega)))
    · intro _
      rw [show 63 - (63 - Nat.log2 d.toNat) = Nat.log2 d.toNat by omega]
      exact Nat.testBit_log2 hn

/-- Groups of bits in reverse order, bit by bit. -/
theorem revFrom_bit (w n d acc i : Nat) (hw : 0 < w) :
    (revFrom w d acc n).testBit i = if i < w * n then d.testBit (w * (n - 1 - i / w) + i % w) else acc.testBit (i - w * n) := by
  induction n generalizing d acc with
  | zero => simp [revFrom]
  | succ n ih =>
    rw [revFrom, ih, Nat.mul_succ]
    by_cases h : i < w * n
    · have hq : i / w < n := (Nat.div_lt_iff_lt_mul hw).mpr (by rw [Nat.mul_comm]; exact h)
      rw [if_pos h, if_pos (by omega), Nat.testBit_div_two_pow]
      congr 1
      obtain ⟨k, hk⟩ : ∃ k, n = i / w + 1 + k := ⟨n - (i / w + 1), by omega⟩
      have e1 : n - 1 - i / w = k := by omega
      have e2 : n + 1 - 1 - i / w = k + 1 := by omega
      rw [e1, e2, Nat.mul_succ]; omega
    · rw [if_neg h]
      by_cases h2 : i < w * n + w
      · rw [if_pos h2]
        have hd : i / w = n := by
          apply Nat.div_eq_of_lt_le
          · rw [Nat.mul_comm]; omega
          · rw [Nat.mul_comm, Nat.mul_succ]; omega
        have hm : i % w = i - w * n := by rw [Nat.mod_def, hd]
        have hlt : i - w * n < w := by omega
        rw [hd, hm, show n + 1 - 1 - n = 0 by omega, Nat.mul_zero, Nat.zero_add, Nat.mul_comm acc, Nat.testBit_two_pow_mul_add _ (Nat.mod_lt _ (Nat.two_pow_pos w)),
          if_pos hlt, Nat.testBit_mod_two_pow]
        simp [hlt]
      · rw [if_neg h2, Nat.mul_comm acc, Nat.testBit_two_pow_mul_add _ (Nat.mod_lt _ (Nat.two_pow_pos w)), if_neg (by omega)]
        congr 1; omega

theorem brev_eq (d : Word) : w64 (revFrom 1 d.toNat 0 64) = d.reverse := by
  apply BitVec.eq_of_getLsbD_eq
  intro i hi
  rw [BitVec.getLsbD_reverse, w64, BitVec.getLsbD_ofNat, revFrom_bit 1 64 _ _ _ (by decide), if_pos (show i < 1 * 64 by omega),
    BitVec.getMsbD]
  simp [hi, BitVec.getLsbD, Nat.mod_one]

theorem bswap_eq (d : Nat) : revFrom 8 d 0 8 = (List.range 8).foldl (fun v i => v + d / 256 ^ i % 256 * 256 ^ (7 - i)) 0 := by
  simp only [revFrom, Nat.div_div_eq_div_mul, List.range, List.range.loop, List.foldl]
  norm_num
  omega

end Sys2Proof.Machine
end

