-- ==== Sys2Proof/Laws/Vector.lean ====
section
/-! SUPPORT. A vector built of elements, read back element by element, lane by lane and flag by flag (R258, R260). -/
namespace Sys2Proof.Machine

/-- The three sums that `buildVec` makes of `n` elements. -/
def buildSums (es n : Nat) (f : Nat → Nat × Nat × Bool) : Nat × Nat × Nat :=
  (List.range n).foldl (fun (a : Nat × Nat × Nat) j =>
    (a.1 + (f j).1 % 256 ^ es * 256 ^ (es * j), if (f j).2.2 then a.2.1 ||| elLanes es j else a.2.1, a.2.2 ||| (f j).2.1)) (0, 0, 0)

theorem buildVec_eq (es n : Nat) (f : Nat → Nat × Nat × Bool) :
    buildVec es n f = (⟨BitVec.ofNat 2048 (buildSums es n f).1, BitVec.ofNat 64 (buildSums es n f).2.1⟩, (buildSums es n f).2.2) := rfl

theorem buildSums_succ (es n : Nat) (f : Nat → Nat × Nat × Bool) :
    buildSums es (n + 1) f = ((buildSums es n f).1 + (f n).1 % 256 ^ es * 256 ^ (es * n),
      if (f n).2.2 then (buildSums es n f).2.1 ||| elLanes es n else (buildSums es n f).2.1, (buildSums es n f).2.2 ||| (f n).2.1) := by
  unfold buildSums
  rw [List.range_succ, List.foldl_append]
  rfl

theorem buildSums_lt (es n : Nat) (f : Nat → Nat × Nat × Bool) : (buildSums es n f).1 < 256 ^ (es * n) := by
  induction n with
  | zero => simp [buildSums]
  | succ n ih =>
    rw [buildSums_succ, Nat.mul_succ, Nat.pow_add]
    have h1 : (f n).1 % 256 ^ es < 256 ^ es := Nat.mod_lt _ (Nat.pos_of_ne_zero (by positivity))
    have h2 : (f n).1 % 256 ^ es * 256 ^ (es * n) + 256 ^ (es * n) ≤ 256 ^ (es * n) * 256 ^ es := by
      calc (f n).1 % 256 ^ es * 256 ^ (es * n) + 256 ^ (es * n) = ((f n).1 % 256 ^ es + 1) * 256 ^ (es * n) := by ring
        _ ≤ 256 ^ es * 256 ^ (es * n) := Nat.mul_le_mul_right _ h1
        _ = 256 ^ (es * n) * 256 ^ es := by ring
    show _ + _ < _
    omega

theorem buildSums_el (es n : Nat) (f : Nat → Nat × Nat × Bool) (j : Nat) :
    (buildSums es n f).1 / 256 ^ (es * j) % 256 ^ es = if j < n then (f j).1 % 256 ^ es else 0 := by
  induction n with
  | zero => simp [buildSums]
  | succ n ih =>
    rw [buildSums_succ]
    show ((buildSums es n f).1 + (f n).1 % 256 ^ es * 256 ^ (es * n)) / 256 ^ (es * j) % 256 ^ es = _
    have hp : ∀ k, 0 < 256 ^ k := fun k => Nat.pos_of_ne_zero (by positivity)
    by_cases h : j < n
    · rw [if_pos h] at ih
      rw [if_pos (by omega), ← ih]
      obtain ⟨k, hk⟩ : ∃ k, n = j + 1 + k := ⟨n - (j + 1), by omega⟩
      have e : 256 ^ (es * n) = 256 ^ (es * j) * (256 ^ es * 256 ^ (es * k)) := by
        rw [hk, ← Nat.pow_add, ← Nat.pow_add]; congr 1; ring
      rw [e, show (f n).1 % 256 ^ es * (256 ^ (es * j) * (256 ^ es * 256 ^ (es * k))) =
        256 ^ (es * j) * (256 ^ es * ((f n).1 % 256 ^ es * 256 ^ (es * k))) by ring, Nat.add_mul_div_left _ _ (hp _), Nat.add_mul_mod_self_left]
    · by_cases h2 : j = n
      · subst h2
        rw [if_pos (by omega), Nat.mul_comm, Nat.add_mul_div_left _ _ (hp _), Nat.div_eq_of_lt (buildSums_lt es j f), Nat.zero_add, Nat.mod_mod]
      · rw [if_neg (by omega), Nat.div_eq_of_lt, Nat.zero_mod]
        calc _ < 256 ^ (es * (n + 1)) := by have := buildSums_lt es (n + 1) f; rw [buildSums_succ] at this; exact this
          _ ≤ 256 ^ (es * j) := Nat.pow_le_pow_right (by decide) (Nat.mul_le_mul_left _ (by omega))

theorem buildSums_fl (es n : Nat) (f : Nat → Nat × Nat × Bool) (k : Nat) :
    (buildSums es n f).2.2.testBit k = true ↔ ∃ j, j < n ∧ (f j).2.1.testBit k = true := by
  induction n with
  | zero => simp [buildSums]
  | succ n ih =>
    rw [buildSums_succ]
    show ((buildSums es n f).2.2 ||| (f n).2.1).testBit k = true ↔ _
    rw [Nat.testBit_or, Bool.or_eq_true, ih]
    constructor
    · rintro (⟨j, h1, h2⟩ | h)
      · exact ⟨j, by omega, h2⟩
      · exact ⟨n, by omega, h⟩
    · rintro ⟨j, h1, h2⟩
      by_cases h : j = n
      · subst h; exact Or.inr h2
      · exact Or.inl ⟨j, by omega, h2⟩

theorem elLanes_bit (es j l : Nat) : (elLanes es j).testBit l = true ↔ (es * j / 4 = l ∨ es = 8 ∧ es * j / 4 + 1 = l) := by
  unfold elLanes homeLane
  split
  · rename_i h
    subst h
    rw [show 8 * j / 4 = 2 * j by omega, Nat.mul_comm 3, Nat.testBit_two_pow_mul, Bool.and_eq_true, decide_eq_true_eq]
    constructor
    · rintro ⟨h1, h2⟩
      have : l - 2 * j < 2 := by
        by_contra hc
        have : Nat.testBit 3 (l - 2 * j) = false := Nat.testBit_lt_two_pow (Nat.lt_of_lt_of_le (by decide : 3 < 2 ^ 2) (Nat.pow_le_pow_right (by decide) (by omega)))
        rw [this] at h2; exact absurd h2 (by decide)
      omega
    · rintro (h | ⟨-, h⟩)
      · subst h; simp
      · subst h; simp; decide
  · rename_i h
    rw [Nat.testBit_two_pow, decide_eq_true_eq]
    constructor
    · intro h2; exact Or.inl h2
    · rintro (h2 | ⟨h2, -⟩)
      · exact h2
      · exact absurd h2 h

theorem buildSums_pois (es n : Nat) (f : Nat → Nat × Nat × Bool) (l : Nat) :
    (buildSums es n f).2.1.testBit l = true ↔ ∃ j, j < n ∧ (f j).2.2 = true ∧ (es * j / 4 = l ∨ es = 8 ∧ es * j / 4 + 1 = l) := by
  induction n with
  | zero => simp [buildSums]
  | succ n ih =>
    rw [buildSums_succ]
    show Nat.testBit (if (f n).2.2 = true then _ else _) l = true ↔ _
    have step : (∃ j, j < n + 1 ∧ (f j).2.2 = true ∧ (es * j / 4 = l ∨ es = 8 ∧ es * j / 4 + 1 = l)) ↔
        (∃ j, j < n ∧ (f j).2.2 = true ∧ (es * j / 4 = l ∨ es = 8 ∧ es * j / 4 + 1 = l)) ∨ ((f n).2.2 = true ∧ (es * n / 4 = l ∨ es = 8 ∧ es * n / 4 + 1 = l)) := by
      constructor
      · rintro ⟨j, h1, h2⟩
        by_cases h : j = n
        · subst h; exact Or.inr h2
        · exact Or.inl ⟨j, by omega, h2⟩
      · rintro (⟨j, h1, h2⟩ | h)
        · exact ⟨j, by omega, h2⟩
        · exact ⟨n, by omega, h⟩
    rw [step]
    split
    · rename_i h
      rw [Nat.testBit_or, Bool.or_eq_true, ih, elLanes_bit]
      simp [h]
    · rename_i h
      rw [ih]
      simp [h]

/-- Element `j` of a built vector, where the elements fit it. -/
theorem elBits_buildVec {es n : Nat} (f : Nat → Nat × Nat × Bool) (hn : es * n ≤ 256) (j : Nat) :
    elBits (buildVec es n f).1.v es j = if j < n then (f j).1 % 256 ^ es else 0 := by
  have hlt : (buildSums es n f).1 < 2 ^ 2048 := by
    calc _ < 256 ^ (es * n) := buildSums_lt es n f
      _ ≤ 256 ^ 256 := Nat.pow_le_pow_right (by decide) hn
      _ = 2 ^ 2048 := (Nat.pow_mul 2 8 256).symm
  rw [buildVec_eq, elBits]
  show (BitVec.ofNat 2048 (buildSums es n f).1).toNat / 256 ^ (es * j) % 256 ^ es = _
  rw [BitVec.toNat_ofNat, Nat.mod_eq_of_lt hlt, buildSums_el]

/-- The poison marks of a built vector. -/
theorem pois_buildVec {es n : Nat} (f : Nat → Nat × Nat × Bool) (l : Nat) (hl : l < 64) :
    (buildVec es n f).1.p.getLsbD l = true ↔ ∃ j, j < n ∧ (f j).2.2 = true ∧ (es * j / 4 = l ∨ es = 8 ∧ es * j / 4 + 1 = l) := by
  rw [buildVec_eq]
  show (BitVec.ofNat 64 (buildSums es n f).2.1).getLsbD l = true ↔ _
  rw [BitVec.getLsbD_ofNat, decide_eq_true hl, Bool.true_and, buildSums_pois]

/-- The flags of a built vector. -/
theorem flags_buildVec {es n : Nat} (f : Nat → Nat × Nat × Bool) (k : Nat) (hk : k < 5) :
    (BitVec.ofNat 5 (buildVec es n f).2).getLsbD k = true ↔ ∃ j, j < n ∧ (f j).2.1.testBit k = true := by
  rw [buildVec_eq]
  show (BitVec.ofNat 5 (buildSums es n f).2.2).getLsbD k = true ↔ _
  rw [BitVec.getLsbD_ofNat, decide_eq_true hk, Bool.true_and, buildSums_fl]

end Sys2Proof.Machine
end

