-- ==== Sys2Proof/Tests/Slice0.lean ====
section
/-! SUPPORT. Tests: terms the well-formedness check refuses, words written out from the spec, single steps, and for the hypotheses of each
statement a state that meets them. -/
namespace Sys2Proof.Tests
open Sys2Proof.Machine Sys2Proof.Claims
set_option Elab.async false

/-! ### Small states, and checks of the claims' words -/

/-- A machine whose turn is brush 0 of core 0, running in system privilege at word 0, with the core and the brush changed. -/
def st (f : Core → Core := id) (g : Brush → Brush := id) : State :=
  { State.reset with
    busy := true, cores := [(0, (f Core.reset).setBrush 0 (g { Brush.reset with run := .running, sys := true }))] }
/-- A trigger whose data is the immediate `n` (R201). -/
def im (n : Nat) : Trig := ⟨false, 0, BitVec.ofNat 12 (0x800 + n)⟩
/-- A trigger whose data is scalar or vector register `n`. -/
def rg (n : Nat) : Trig := ⟨false, 0, BitVec.ofNat 12 n⟩

def passesB (b : Bundle) (s : State) : Bool :=
  (bundleTrap (issOf b s) b s).isNone && (match s.me.loops with | l :: _ => l.last != s.me.pc || s.me.xfer.isNone | [] => true)
theorem passes_of {b : Bundle} {s : State} (h : passesB b s = true) : passes b s := by
  unfold passesB at h
  simp only [Bool.and_eq_true, Option.isNone_iff_eq_none] at h
  refine ⟨h.1, fun l r hl he => ?_⟩
  have h2 := h.2
  rw [hl] at h2
  simpa [he] using h2
def goesB (i : Instr) (s : State) : Bool :=
  match trigOf i with
  | some (v, m, c) => passesB (soloBundle v m c) s && guardBit s.me ⟨m.neg, m.guard, m.src, BitVec.ofNat 12 c⟩
  | none => false
theorem goes_of {i : Instr} {s : State} (h : goesB i s = true) : goes i s := by
  unfold goesB at h
  split at h
  · next v m c e => simp only [Bool.and_eq_true] at h; exact ⟨v, m, c, e, passes_of h.1, h.2⟩
  · cases h
theorem goesMx_of {i : Instr} {s : State} {o : Nat} {f : MxF} (e : mxOf i = some (o, f)) (h : passesB (mxBundle o f) s = true) : goesMx i s :=
  ⟨o, f, e, passes_of h⟩
theorem room_of {s : State} {d : Option Dst} {n : Nat} (h : (s.mine.brushes.all (fun z => z.flights == []) && (s.me.flights == []) &&
    decide (s.mine.inFlight s.cur.2 < 12)) = true) : room s d n := by
  simp only [Bool.and_eq_true, List.all_eq_true, beq_iff_eq, decide_eq_true_eq] at h
  refine ⟨fun _ f hf => ?_, h.2⟩
  rcases hf with hf | ⟨_, z, hz, hf⟩
  · have : (s.mine.brush s.cur.2).flights = [] := h.1.2
    rw [this] at hf; cases hf
  · rw [h.1.1 z hz] at hf; cases hf
theorem of_nil {α : Type} {l : List α} {p : α → Prop} (h : l.isEmpty = true) : ∀ e ∈ l, p e := by
  cases l with
  | nil => intro e he; cases he
  | cons => cases h
/-- An outcome without a trap that is the value named. -/
def isOk {ε α : Type} [DecidableEq α] (e : Except ε α) (v : α) : Bool := match e with | .ok x => decide (x = v) | .error _ => false
theorem ok_of {ε α : Type} [DecidableEq α] {e : Except ε α} {v : α} (h : isOk e v = true) : e = .ok v := by
  cases e with
  | ok x => simp only [isOk, decide_eq_true_eq] at h; rw [h]
  | error => cases h
theorem reaches_of {i : Instr} {s : State} {cl : Client} {w : Bool} {n : Nat} {sp : Space} {ph : Nat}
    (h : (!(dataOf i s).p && isOk (checkAddr s s.cur.1 s.cur.2 cl w (dataOf i s).v n (codeOf i)) (sp, ph)) = true) : reaches i s cl w n sp ph := by
  simp only [Bool.and_eq_true, Bool.not_eq_true'] at h
  exact ⟨h.1, ok_of h.2⟩

/-! ### Witnesses: the scalar units -/

/-- Operands in the latches of A0, A1, SM and PL, and a field (R235). -/
def sc1 : State := st id (fun y => { y with lat := [(0, ⟨7, false⟩), (1, ⟨0x0804, false⟩), (4, ⟨9, false⟩), (5, ⟨0x4000, false⟩), (8, ⟨11, false⟩), (11, ⟨3, false⟩)] })
theorem witness_AddressUnitResults :
    (∀ i ∈ [Instr.add (im 5) false, .sub (im 5) true, .sxb (im 5) true, .brev (im 5) false, .sel (im 5) true, .ext (im 5) false, .ins (im 5) false],
      goes i sc1) ∧ room sc1 (some (.ps 3)) 1 ∧ room sc1 (some (.ps 7)) 1 ∧
    goodField (latch sc1 (a false + 1)).v 4 8 ∧ goodField (latch sc1 (a true + 1)).v 0 64 ∧ goodField 0x013F 63 1 ∧
    ∀ pos wid, ¬ goodField (latch (st id) (a false + 1)).v pos wid := by
  refine ⟨fun i hi => goes_of ?_, room_of (by decide +kernel), room_of (by decide +kernel), by unfold goodField; decide +kernel, by unfold goodField; decide +kernel,
    by unfold goodField; decide +kernel, fun pos wid h => ?_⟩
  · revert i; decide +kernel
  · have h1 := congrArg BitVec.toNat h.1
    have e : (latch (st id) (a false + 1)).v.toNat = 0 := by decide +kernel
    have := h.2
    rw [e, BitVec.toNat_ofNat] at h1
    omega
theorem witness_MultiplyResults :
    (∀ i ∈ [Instr.mul (im 5), .mulhn (im 5), .mac (im 5), .div (im 5), .remn (im 5), .div (im 0), .remn (im 0)], goes i sc1) ∧
    room sc1 (some (.ps 10)) 3 ∧ room sc1 (some (.ps 10)) 20 ∧ (dataOf (.div (im 5)) sc1).v ≠ 0 ∧ (dataOf (.remn (im 0)) sc1).v = 0 := by
  refine ⟨fun i hi => goes_of ?_, room_of (by decide +kernel), room_of (by decide +kernel), by decide +kernel, by decide +kernel⟩
  revert i; decide +kernel
/-- A product and a quotient under way that complete in cycles 3 and 20. -/
def sc2 : State := st id (fun y => { y with flights := [Flight.done 0 0x280 false 0 3 (some (.ps 10)) 0 Vc.zero 0, Flight.done 0 0x284 false 0 20 (some (.ps 10)) 0 Vc.zero 0] })
theorem witness_MultiplyResults_clash :
    (∀ i ∈ [Instr.mul (im 5), .div (im 5)], goes i sc2) ∧
    (∃ f ∈ sc2.me.flights, f.dst = some (.ps 10) ∧ f.due = tm sc2 + 3) ∧ ∃ f ∈ sc2.me.flights, f.dst = some (.ps 10) ∧ f.due = tm sc2 + 20 := by
  refine ⟨fun i hi => goes_of ?_, by decide +kernel, by decide +kernel⟩
  revert i; decide +kernel
theorem witness_PredicateResults : (∀ i ∈ [Instr.lt (im 5), .pmov (im 5)], goes i sc1) ∧ room sc1 (some (.ps 12)) 1 := by
  refine ⟨fun i hi => goes_of ?_, room_of (by decide +kernel)⟩
  revert i; decide +kernel

/-! ### Witnesses: LS, RM and CU -/

/-- Registers s1 to s5: addresses of the vault, of a window, of the data views, of the stream window and of a crossing slot. -/
def adr : Brush → Brush := fun y => { y with s := [(1, ⟨0x100000040, false⟩), (2, ⟨0x800000008, false⟩), (3, ⟨0x1000010, false⟩), (4, ⟨0x2000000, false⟩), (5, ⟨0x2008010, false⟩)] }
/-- A ramp of n32 from 5 by 3 in descriptor 0 (R85). -/
def ramp : BitVec 512 := BitVec.ofNat 512 (0x2501 + 1024 * 2 ^ 32 + 5 * 2 ^ 256 + 3 * 2 ^ 320)
def mem1 : State := st (fun x => { x with desc := [(0, ramp)] }) adr
/-- A producer's crossing slot 0 of region 0. -/
def xc1 : State :=
  { mem1 with xings := [(0, { Crossing.reset with cfg := 0x80010001 })], regions := [(0, { Region.reset with a := 1 }), (1, { Region.reset with a := 1 })] }

theorem witness_LocalLoads :
    (∀ i ∈ [Instr.ldb (im 0x100), .ldw (im 0x100), .ldd (rg 3), .ldhn (rg 4)], goes i mem1) ∧
    reaches (.ldb (im 0x100)) mem1 .ls false 1 .scratch 0x100 ∧ reaches (.ldw (im 0x3FC)) mem1 .ls false 4 .scratch 0x3FC ∧
    reaches (.ldd (rg 3)) mem1 .ls false 8 .view 0x10 ∧ reaches (.ldhn (rg 4)) mem1 .ls false 2 .stream 0 ∧
    portAFree mem1 false (tm mem1 + 2) 0x100 1 ∧ room mem1 (some (.ps 14)) (tm mem1 + 4) := by
  refine ⟨fun i hi => goes_of ?_, reaches_of ?_, reaches_of ?_, reaches_of ?_, reaches_of ?_, of_nil ?_, room_of ?_⟩
  all_goals first | decide +kernel | (revert i; decide +kernel)
theorem witness_LocalStores :
    (∀ i ∈ [Instr.stb (im 0x100), .std (im 0x3F8)], goes i mem1) ∧ goes (.stw (rg 5)) xc1 ∧
    reaches (.std (im 0x3F8)) mem1 .ls true 8 .scratch 0x3F8 ∧ reaches (.stw (rg 3)) mem1 .ls true 4 .view 0x10 ∧
    reaches (.stw (rg 5)) xc1 .ls true 4 .stream 0x8010 ∧ (latch xc1 13).p = false ∧
    portAFree mem1 true (tm mem1 + 3) 0x3F8 8 ∧ room mem1 none (tm mem1 + 3) := by
  refine ⟨fun i hi => goes_of ?_, goes_of ?_, reaches_of ?_, reaches_of ?_, reaches_of ?_, ?_, of_nil ?_, room_of ?_⟩
  all_goals first | decide +kernel | (revert i; decide +kernel)
theorem witness_VaultAccesses :
    goes (.ldd (rg 1)) mem1 ∧ goes (.sth (rg 1)) mem1 ∧ reaches (.ldd (rg 1)) mem1 .ls false 8 .vault 0x40 ∧
    reaches (.sth (rg 1)) mem1 .ls true 2 .vault 0x40 ∧ vaultFree mem1 0x40 8 ∧ mem1.mine.ecc = [] ∧ room mem1 (some (.ps 14)) 48 := by
  refine ⟨goes_of ?_, goes_of ?_, reaches_of ?_, reaches_of ?_, ⟨?_, ?_, of_nil ?_, ?_, ?_, of_nil ?_⟩, ?_, room_of ?_⟩
  all_goals decide +kernel
theorem witness_WindowLoads :
    goes (.ldw (rg 2)) mem1 ∧ reaches (.ldw (rg 2)) mem1 .ls false 4 .window 0x800000008 ∧
    mem1.mine.readWindow (tm mem1) 0x800000008 4 (codeOf (.ldw (rg 2))) = .ok (11, false) ∧ mem1.mine.ecc = [] ∧ room mem1 (some (.ps 14)) 12 := by
  refine ⟨goes_of ?_, reaches_of ?_, ok_of ?_, ?_, room_of ?_⟩
  all_goals decide +kernel
theorem witness_ScalarAtomics :
    (∀ i ∈ [Instr.aadd (im 0x104) false, .acas (im 0x108) true], goes i mem1) ∧
    reaches (.aadd (im 0x104) false) mem1 .rm true 4 .scratch 0x104 ∧ reaches (.acas (im 0x108) true) mem1 .rm true 8 .scratch 0x108 ∧
    rmwPending mem1.me < 4 ∧ portBFree mem1 (rmwUses (atomFlight (.aadd (im 0x104) false) mem1 0 false) 1) ∧ room mem1 (some (.ps 19)) 3 := by
  refine ⟨fun i hi => goes_of ?_, reaches_of ?_, reaches_of ?_, ?_, of_nil ?_, room_of ?_⟩
  all_goals first | decide +kernel | (revert i; decide +kernel)

/-- A brush in the first delay bundle of a branch, whose first latch holds 9. -/
def branching : State := st id (fun y => { y with pc := 5, xfer := some ⟨40, 2⟩, lat := mset Sc.zero y.lat 0 ⟨9, false⟩ })
theorem witness_TrapEntryState : (branching.brush 0 0).trapped = none ∧ (branching.brush 0 0).xfer = some ⟨40, 2⟩ ∧
    ((st id (fun y => { y with trapped := some ⟨0, 0, 0, none, .running, [], [], [], []⟩ })).brush 0 0).trapped.isSome = true := by decide
/-- R314, R315: the frame of a trap 0x15 with detail word 3. -/
theorem test_frame :
    let f := frameDw ((trapEntry 0 0 ⟨0x15, 3, 0, 0, 1, false, 0⟩ [] branching).core 0) 0
    f 0 % 2 ^ 32 = 0x15 + 2 ^ 17 + 2 ^ 20 ∧ f 8 = 3 ∧ f 0x20 = 5 + 2 ^ 17 + 40 * 2 ^ 32 + 2 ^ 47 ∧ f 0x40 = 9 := by decide +kernel


/-- CU.o holding `v`, with a loop, a frame of zeros and a trap being served. -/
def cu (v : Word) : State := st id (fun y => { y with lat := [(15, ⟨v, false⟩)] })
theorem witness_ControlTransfers :
    (∀ i ∈ [Instr.bra (im 40), .brai (im 4), .call (im 0), .calli (im 8), .ret (im 12)], goes i (cu 0) ∧ mayTransfer i (cu 0)) ∧
    room (cu 0) (some (.ps 16)) 1 := by
  refine ⟨fun i hi => ⟨goes_of ?_, ?_, ?_, ?_⟩, room_of ?_⟩
  · revert i; decide +kernel
  · revert i; decide +kernel
  · revert i; decide +kernel
  · intro l r h; cases h
  · decide +kernel
def looping : State := st id (fun y => { y with lat := [(15, ⟨2 ^ 63, false⟩)], loops := [⟨0, 9, 2⟩, ⟨0, 12, 3⟩] })
/-- A bundle of one word after the code at word 4. -/
def endAt : State := st (fun x => { x with code := [(4, ⟨0, true⟩)], segis := 0x4000 }) (fun y => { y with lat := [(15, ⟨4, false⟩)] })
theorem witness_Loops :
    goes (.loop (im 3)) (cu 0x3FFF) ∧ (dataOf (.loop (im 3)) (cu 0x3FFF)).p = false ∧ (latch (cu 0x3FFF) 15).v = BitVec.ofNat 64 0x3FFF ∧
    (cu 0x3FFF).me.pc < 0x3FFF ∧ (dataOf (.loop (im 3)) (cu 0x3FFF)).v.toNat = 3 ∧ (cu 0x3FFF).me.loops.length < 4 ∧
    goes (.loopPop (im 0)) looping ∧ (latch looping 15).v.getLsbD 63 = true ∧ looping.me.loops = ⟨0, 9, 2⟩ :: [⟨0, 12, 3⟩] ∧ (12 : Nat) ≠ looping.me.pc ∧
    goes (.loop (im 0)) endAt ∧ (latch endAt 15).v = BitVec.ofNat 64 4 ∧ (dataOf (.loop (im 0)) endAt).v = 0 ∧ endAt.me.xfer = none ∧
    fetchTrap endAt.mine endAt.cur.2 4 (headerWords (endAt.mine.iword endAt.cur.2 4).w) = none := by
  refine ⟨goes_of ?_, ?_, ?_, ?_, ?_, ?_, goes_of ?_, ?_, ?_, ?_, goes_of ?_, ?_, ?_, ?_, ?_⟩
  all_goals decide +kernel
theorem witness_TrapOperations : (∀ i ∈ [Instr.trap (im 1), .brk (im 2), .sys (im 3), .taskService (im 1)], goes i (cu 0)) ∧ ((cu 0).brush 0 0).trapped = none := by
  refine ⟨fun i hi => goes_of ?_, ?_⟩
  · revert i; decide +kernel
  · decide +kernel
/-- A ring of two slots of 64 bytes: the second slot is filled, or the first free. -/
def rings (r : Ring) : State := st (fun x => { x with rings := [(3, r)] }) (fun y => { y with lat := [(15, ⟨7, false⟩)] })
def rg2 (st : List Nat) (cl tk : List Nat) : State := rings { Ring.reset with base := 0x400, slots := 2, size := 64, st := st, claimed := cl, taken := tk }
def served : State := st id (fun y => { y with trapped := some ⟨0, 0, 0, none, .running, [], [], [], []⟩ })
theorem witness_WaitingOperations :
    (∀ i ∈ [Instr.halt (im 0), .fence (im 0), .semw (im 15), .waitl (im 31), .waita (im 0x40), .phend (im 1), .rwf (im 3), .rwe (im 3)],
      goes i (rg2 [0, 2] [] [])) ∧
    (rg2 [0, 2] [] []).me.run = .running ∧ (latch (rg2 [0, 2] [] []) 15).p = false ∧ (latch (rg2 [0, 2] [] []) 15).v.toNat < 2 ^ 32 ∧
    reaches (.waita (im 0x40)) (rg2 [0, 2] [] []) .rm false 8 .scratch 0x40 ∧ (ring (rg2 [0, 2] [] []) 3).slots ≠ 0 ∧
    goes (.tret (im 0)) served ∧ served.me.run = .running ∧ served.me.trapped = some ⟨0, 0, 0, none, .running, [], [], [], []⟩ ∧
    frameOk served.mine served.cur.2 = true := by
  refine ⟨fun i hi => goes_of ?_, ?_, ?_, ?_, reaches_of ?_, ?_, goes_of ?_, ?_, ?_, ?_⟩
  · revert i; decide +kernel
  all_goals decide +kernel
theorem witness_RingOperations :
    (∀ i ∈ [Instr.rclm (im 3), .rtak (im 3), .rfil (im 3), .rrel (im 3)], goes i (rg2 [2, 0] [1] [0])) ∧
    (ring (rg2 [0, 0] [] []) 3).st.getD (ring (rg2 [0, 0] [] []) 3).p 0 = 0 ∧ (ring (rg2 [2, 0] [1] [0]) 3).st.getD (ring (rg2 [2, 0] [1] [0]) 3).c 0 = 2 ∧
    (ring (rg2 [2, 0] [1] [0]) 3).claimed = [1] ∧ (ring (rg2 [2, 0] [1] [0]) 3).taken = [0] ∧ goes (.rclm (im 3)) (rg2 [0, 0] [] []) ∧
    room (rg2 [0, 0] [] []) (some (.ps 16)) 1 := by
  refine ⟨fun i hi => goes_of ?_, ?_, ?_, ?_, ?_, goes_of ?_, room_of ?_⟩
  · revert i; decide +kernel
  all_goals decide +kernel
/-- A cadence of 4 whose tick is due, and a region locked to pin 0 at 8 cycles a sample. -/
def cad : State := { st id (fun y => { y with cad := some ⟨4, 0, 0, false, none⟩ }) with regions := [] }
def pin8 : State := { st id with regions := [(0, { Region.reset with a := 0x0008000100000002 })] }
theorem witness_CoreControl :
    (∀ i ∈ [Instr.semp (im 15), .syncm (im 15), .own (im 0x24), .own (im 0x49), .cadst (im 4), .cadtk (im 0), .xnop (im 0)], goes i cad) ∧
    ownerOf cad.mine.own 4 = cad.cur.2 ∧ cad.mine.moving = [] ∧ (cad.region (regionOf cad.cur.1)).samples = 0 ∧
    cad.me.cad = some ⟨4, tm cad, 0, false, none⟩ ∧ goes (.cadst (im 8)) pin8 ∧ (pin8.region (regionOf pin8.cur.1)).samples = 8 ∧
    (dataOf (.cadst (im 8)) pin8).v.toNat = 8 := by
  refine ⟨fun i hi => goes_of ?_, ?_, ?_, ?_, ?_, goes_of ?_, ?_, ?_⟩
  · revert i; decide +kernel
  all_goals decide +kernel
/-- A cadence of 4 marked for resynchronisation two ticks late, and one of a sample-locked region whose tick is the grid cycle before this. -/
def cadR : State := { st id (fun y => { y with cad := some ⟨4, 0, 0, true, none⟩ }) with regions := [(0, { Region.reset with cyc := 8 })] }
def cadG : State := { st id (fun y => { y with cad := some ⟨8, 0, 0, false, some 1⟩ }) with
  regions := [(0, { Region.reset with a := 0x0008000100000002, cyc := 8, arrivals := 2, grid := 2, nextGrid := 16 })] }
theorem witness_CoreControl_ticks :
    goes (.cadtk (im 0)) cadR ∧ cadR.me.cad = some ⟨4, 0, 0, true, none⟩ ∧ (cadR.region (regionOf cadR.cur.1)).samples = 0 ∧ 0 ≤ tm cadR ∧
    (tm cadR - 0) % 4 = 0 ∧ goes (.cadtk (im 0)) cadG ∧ cadG.me.cad = some ⟨8, 0, 0, false, some 1⟩ ∧
    (cadG.region (regionOf cadG.cur.1)).samples ≠ 0 ∧ (cadG.region (regionOf cadG.cur.1)).gridAt 1 = tm cadG := by
  refine ⟨goes_of ?_, ?_, ?_, ?_, ?_, goes_of ?_, ?_, ?_, ?_⟩
  all_goals decide +kernel
theorem witness_CountersAndRegisters :
    (∀ i ∈ [Instr.rdc (im 15), .rdc (im 0x11F), .rdc (im 0x20F), .rdsr (im 0), .rdsr (im 0x29), .wrsr (im 4)], goes i (cu 1)) ∧
    room (cu 1) (some (.ps 16)) 1 ∧ (0x29, false, (0 : Word)) ∈ sysRows (cu 1) ∧ (cu 1).me.sys = true ∧
    mayWrite (cu 1) 4 (latch (cu 1) 15).v ∧ mayWrite (cu 0x3FFF) 0x20 (latch (cu 0x3FFF) 15).v := by
  refine ⟨fun i hi => goes_of ?_, room_of ?_, ?_, ?_, ?_, ?_⟩
  · revert i; decide +kernel
  all_goals first | decide +kernel | (unfold mayWrite; decide +kernel)

/-! ### Witnesses: the vector units -/

/-- One scalar of 32 bits in lane 0, and one in every lane. -/
def v0 (n : Nat) : Vc := ⟨BitVec.ofNat 2048 n, 0⟩
/-- A core with shared vector latches, its vector registers empty. -/
def vec (l : Map Vc) : State := st (fun x => { x with vlat := l }) adr
/-- VA0 in mode `a`, VA1 in `b`, VX in `x`, VL in `l`. -/
def modes (a b x l : Nat) : State := vec [(2, v0 a), (8, v0 b), (14, v0 x), (20, v0 l)]
/-- i8 saturating; bf16 towards zero; fp32; i16. -/
def vs1 : State := modes 0x803 0x141 0x42 0x04

theorem witness_VectorIntegerArithmetic :
    (∀ i ∈ [Instr.vadd (rg 1) false, .vfma (rg 1) false, .vabd (rg 1) false, .vshl (rg 1) false, .vmulh (rg 1) false], goes i vs1) ∧
    modeOf (vlatch vs1 (va false + 2)) = .ok ⟨0x03, 0, true, false⟩ ∧ tyInt 0x03 = true ∧ room vs1 (some (.vs 4)) 2 := by
  refine ⟨fun i hi => goes_of ?_, ok_of ?_, ?_, room_of ?_⟩
  · revert i; decide +kernel
  all_goals decide +kernel
theorem witness_VectorFloatingArithmetic :
    (∀ i ∈ [Instr.vadd (rg 1) true, .vfnm (rg 1) true, .vabd (rg 1) true, .vmin (rg 1) true, .vneg (rg 1) true], goes i vs1) ∧
    modeOf (vlatch vs1 (va true + 2)) = .ok ⟨0x41, 1, false, false⟩ ∧ tyFloat 0x41 = true ∧ (1 : Nat) ≠ 4 ∧ room vs1 (some (.vs 10)) 4 := by
  refine ⟨fun i hi => goes_of ?_, ok_of ?_, ?_, ?_, room_of ?_⟩
  · revert i; decide +kernel
  all_goals decide +kernel
theorem witness_VectorBitsAndCompares :
    (∀ i ∈ [Instr.vand (rg 1) false, .vsel (rg 1) true, .vceq (rg 1) false, .vcle (rg 1) true, .vclass (rg 1) true], goes i vs1) ∧
    modeOf (vlatch vs1 (va false + 2)) = .ok ⟨0x03, 0, true, false⟩ ∧ modeOf (vlatch vs1 (va true + 2)) = .ok ⟨0x41, 1, false, false⟩ ∧
    room vs1 (some (.vs 5)) 2 ∧ room vs1 (some (.vs 11)) 4 := by
  refine ⟨fun i hi => goes_of ?_, ok_of ?_, ok_of ?_, room_of ?_, room_of ?_⟩
  · revert i; decide +kernel
  all_goals decide +kernel
/-- VX converting from the type in VX.o1: to i8 saturating, to bf16, to n64. -/
def vx (md o1 : Nat) : State := vec [(12, v0 o1), (14, v0 md)]
theorem witness_VectorConversions :
    (∀ i ∈ [Instr.vcvt (rg 1), .vcvtsr (rg 1), .vpack (rg 1)], goes i (vx 0x803 0x42) ∧ goes i (vx 0x041 0x42)) ∧ goes (.vunpk (im 1)) (vx 0x26 0) ∧
    vxHas (vx 0x803 0x42) ⟨0x03, 0, true, false⟩ ∧ (vlatch (vx 0x803 0x42) 12).v.toNat % 256 = 0x42 ∧ tyImpl 0x42 = true ∧
    vxHas (vx 0x041 0x42) ⟨0x41, 0, false, false⟩ ∧ vxHas (vx 0x26 0) ⟨0x26, 0, false, false⟩ ∧ dl (.vunpk (im 1)) (vx 0x26 0) = 1 ∧
    room (vx 0x26 0) (some (.vs 15)) 6 := by
  refine ⟨fun i hi => ⟨goes_of ?_, goes_of ?_⟩, goes_of ?_, ok_of ?_, ?_, ?_, ok_of ?_, ok_of ?_, ?_, room_of ?_⟩
  all_goals first | decide +kernel | (revert i; decide +kernel)
theorem witness_VectorPermutes :
    (∀ i ∈ [Instr.vperm (rg 1), .vrot (im 63), .vbcast (im 3), .vzip (im 1), .vunzip (im 0)], goes i (vx 0x26 0)) ∧
    vxHas (vx 0x26 0) ⟨0x26, 0, false, false⟩ ∧ dl (.vzip (im 1)) (vx 0x26 0) < 2 ∧ room (vx 0x26 0) (some (.vs 15)) 6 := by
  refine ⟨fun i hi => goes_of ?_, ok_of ?_, ?_, room_of ?_⟩
  · revert i; decide +kernel
  all_goals decide +kernel
theorem witness_VectorMxBlocks :
    goes (.vmxq (im 64)) (vx 0x083 0) ∧ vxHas (vx 0x083 0) ⟨0x83, 0, false, false⟩ ∧ tyB8 0x83 = true ∧ dl (.vmxq (im 64)) (vx 0x083 0) = 64 ∧
    goes (.vmxd (im 0)) (vx 0x083 0) ∧ dl (.vmxd (im 0)) (vx 0x083 0) = 0 ∧ room (vx 0x083 0) (some (.vs 15)) 6 := by
  refine ⟨goes_of ?_, ok_of ?_, ?_, ?_, goes_of ?_, ?_, room_of ?_⟩
  all_goals decide +kernel
theorem witness_VectorReductions :
    (∀ i ∈ [Instr.vredadd (rg 1), .vredmax (rg 1), .vscan (rg 1)], goes i (vx 0x42 0) ∧ goes i (vx 0x803 0)) ∧
    vxHas (vx 0x42 0) ⟨0x42, 0, false, false⟩ ∧ vxHas (vx 0x803 0) ⟨0x03, 0, true, false⟩ ∧ room (vx 0x42 0) (some (.vs 15)) 8 := by
  refine ⟨fun i hi => ⟨goes_of ?_, goes_of ?_⟩, ok_of ?_, ok_of ?_, room_of ?_⟩
  all_goals first | decide +kernel | (revert i; decide +kernel)
theorem witness_VectorTranscendentals :
    (∀ i ∈ [Instr.vexp2 (rg 1), .vcost (rg 1), .vtrunc (rg 1), .vround (rg 1)], goes i (vx 0x42 0)) ∧
    vxHas (vx 0x42 0) ⟨0x42, 0, false, false⟩ ∧ room (vx 0x42 0) (some (.vs 15)) 12 ∧ room (vx 0x42 0) (some (.vs 15)) 6 := by
  refine ⟨fun i hi => goes_of ?_, ok_of ?_, room_of ?_, room_of ?_⟩
  · revert i; decide +kernel
  all_goals decide +kernel

theorem vlReaches_of {i : Instr} {s : State} {w : Bool} {n : Nat} {sp : Space} {ph : Nat}
    (hp : match i with | .vld _ => (vlatch s 19).p.getLsbD 0 = false | .vst _ => (vlatch s 19).p.getLsbD 0 = false | _ => True)
    (hs : ¬ strided i s)
    (h : (!(dataOf i s).p && decide ((dataOf i s).v.toNat % 4 = 0) && isOk (checkAddr s s.cur.1 s.cur.2 .vl w (dataOf i s).v n (codeOf i)) (sp, ph)) = true) :
    vlReaches i s w n sp (fun k => ph + 64 * k) := by
  simp only [Bool.and_eq_true, Bool.not_eq_true', decide_eq_true_eq] at h
  exact ⟨h.1.1, hp, h.1.2, fun _ => ⟨ok_of h.2, fun k => rfl⟩, fun c => absurd c hs⟩
theorem clean_vs1 : (vlatch vs1 19).p.getLsbD 0 = false := by decide +kernel
theorem plain_vs1 (m : Trig) : ¬ strided (.vld m) vs1 := fun h => h.2.1 (by decide +kernel)
/-- VL with a piece offset of 4,096, and one with none. -/
def vl1 : State := vec [(19, v0 4096), (20, v0 0x04)]
theorem witness_VectorAccesses :
    (∀ i ∈ [Instr.vld (im 0x100), .vst (im 0x100), .vldb (im 0x40), .vstb (im 0x40), .vldw (im 0x80)], goes i vs1) ∧
    vlType (.vldw (im 0x80)) vs1 4 ∧ vlType (.vld (im 0x100)) vs1 0 ∧ vlReaches (.vld (im 0x100)) vs1 false 256 .scratch (fun k => 0x100 + 64 * k) ∧
    vlReaches (.vldw (im 0x80)) vs1 false 128 .scratch (fun k => 0x80 + 64 * k) ∧
    goes (.vld (im 0x100)) vl1 ∧ strided (.vld (im 0x100)) vl1 ∧ vlReaches (.vld (im 0x100)) vl1 false 256 .scratch (fun k => 0x100 + 4096 * k) ∧
    vs1.mine.schA = [] ∧ room vs1 (some (.vs 21)) 6 := by
  refine ⟨fun i hi => goes_of ?_, ⟨⟨0x04, 0, false, false⟩, ok_of ?_, rfl, ?_, ?_⟩, rfl, vlReaches_of clean_vs1 (plain_vs1 _) ?_, vlReaches_of trivial (fun h => h.1) ?_, goes_of ?_,
    ⟨trivial, ?_⟩, ⟨?_, ?_, ?_, fun h => absurd ⟨trivial, ?_⟩ h, fun _ => ⟨rfl, ?_, ?_⟩⟩, ?_, room_of ?_⟩
  · revert i; decide +kernel
  all_goals decide +kernel
theorem witness_VectorAccesses_banks :
    let f := vlFlight (.vld (im 0x100)) vs1 false 0 6 ((vlRuns 256 (fun k => 0x100 + 64 * k)).map (fun q => (⟨2, .scratch, q.1, q.2.1, q.2.2, 0⟩ : Piece)))
    ∀ u ∈ portAUses f 0x04 (vs1.mine.seq + 1), (∀ e ∈ vs1.mine.schA, ¬ sameBank e u) ∧ ∀ w ∈ portAUses f 0x04 (vs1.mine.seq + 1), sameBank w u → w.gran = u.gran := by
  unfold sameBank; decide +kernel
theorem witness_VaultVectorAccesses :
    goes (.vld (rg 1)) vs1 ∧ goes (.vstb (rg 1)) vs1 ∧ vlType (.vld (rg 1)) vs1 0 ∧ vlReaches (.vld (rg 1)) vs1 false 256 .vault (fun k => 0x40 + 64 * k) ∧
    vlReaches (.vstb (rg 1)) vs1 true 64 .vault (fun k => 0x40 + 64 * k) ∧
    linesFree vs1 ((cutLines 0x40 256).map (fun l => l.1)) ∧ room vs1 (some (.vs 21)) 52 := by
  refine ⟨goes_of ?_, goes_of ?_, rfl, vlReaches_of clean_vs1 (plain_vs1 _) ?_, vlReaches_of trivial (fun h => h.1) ?_,
    ⟨?_, of_nil ?_, fun k a _ => ⟨fun h => h.1 (by decide +kernel), fun h => h.1 (by decide +kernel), of_nil ?_⟩⟩, room_of ?_⟩
  all_goals decide +kernel
/-- VL reading bytes as i8, with the ramp in descriptor 0. -/
def win1 : State := st (fun x => { x with vlat := [(20, v0 0x03)], desc := [(0, ramp)] }) adr
theorem witness_VectorWindowLoads :
    goes (.vld (rg 2)) win1 ∧ goes (.vldw (rg 2)) win1 ∧ vlType (.vldw (rg 2)) win1 0x03 ∧ vlReaches (.vld (rg 2)) win1 false 256 .window (fun k => 0x800000008 + 64 * k) ∧
    vlReaches (.vldw (rg 2)) win1 false 64 .window (fun k => 0x800000008 + 64 * k) ∧
    (∃ x, win1.mine.readWindow (tm win1) 0x800000008 256 (codeOf (.vld (rg 2))) = .ok x) ∧ win1.mine.ecc = [] ∧ room win1 (some (.vs 21)) 12 ∧
    tyImpl 0x40 = true ∧ tyInt 0x40 = false ∧ (valOf 0x40 0x7E00).isNaN = true ∧ valOf 0x40 0x7C00 = .inf false ∧ valOf 0x40 0x3C00 = .fin false 0x400 (-10) := by
  refine ⟨goes_of ?_, goes_of ?_, ⟨⟨0x03, 0, false, false⟩, ok_of ?_, rfl, ?_, ?_⟩, vlReaches_of ?_ (fun h => h.2.1 (by decide +kernel)) ?_,
    vlReaches_of trivial (fun h => h.1) ?_, ?_, ?_, room_of ?_, ?_, ?_, ?_, ?_, ?_⟩
  case refine_6 => exact (by decide +kernel : (vlatch win1 19).p.getLsbD 0 = false)
  case refine_9 =>
    cases h : win1.mine.readWindow (tm win1) 0x800000008 256 (codeOf (.vld (rg 2))) with
    | ok x => exact ⟨x, rfl⟩
    | error e =>
      have : (match win1.mine.readWindow (tm win1) 0x800000008 256 (codeOf (.vld (rg 2))) with | .ok _ => true | .error _ => false) = true := by decide +kernel
      rw [h] at this; cases this
  all_goals decide +kernel
/-- An index vector with lane 0 at `a` and the other lanes inactive. -/
def idx0 (a : Nat) : Vc := v0 (a + (List.range 63).foldl (fun m l => m + 2 ^ (32 * (l + 1) + 31)) 0)
/-- VL.x with one active lane, descriptor 0 a ramp. -/
def ix1 : State := st (fun x => { x with vlat := [(18, idx0 0x40)], desc := [(0, ramp)] }) (fun y => { adr y with vlat := [(0, v0 3)] })
/-- The same of no active lane. -/
def ix2 : State := vec [(18, idx0 (2 ^ 31))]
theorem active_ix1 : active (vlatch ix1 18).v = [0] := by decide +kernel
theorem witness_IndexedAccesses :
    goes (.vldx (im 0x100)) ix1 ∧ goes (.vstx (im 0x100)) ix1 ∧ ix1.mine.lastIdx = none ∧
    (∀ l ∈ active (vlatch ix1 18).v, laneOk (.vldx (im 0x100)) ix1 false l (.inl 0x140)) ∧
    (∀ l ∈ active (vlatch ix1 18).v, laneOk (.vstx (im 0x100)) ix1 true l (.inl 0x140)) ∧
    (∀ l < 64, lane32 (0 : Vec) l = BitVec.ofNat 32 (winLane ix1 (fun _ => .inl 0x140) l).1 ∧ (0 : BitVec 64).getLsbD l = (winLane ix1 (fun _ => .inl 0x140) l).2) ∧
    ix1.mine.schB = [] ∧ room ix1 (some (.vs 21)) 72 := by
  refine ⟨goes_of ?_, goes_of ?_, ?_, ?_, ?_, ?_, ?_, room_of ?_⟩
  case refine_4 => rw [active_ix1]; intro l hl; cases List.mem_singleton.mp hl; exact ⟨by decide +kernel, by decide +kernel, by decide +kernel, ok_of (by decide +kernel)⟩
  case refine_5 => rw [active_ix1]; intro l hl; cases List.mem_singleton.mp hl; exact ⟨by decide +kernel, by decide +kernel, by decide +kernel, ok_of (by decide +kernel)⟩
  all_goals decide +kernel
theorem witness_IndexedAccesses_window :
    goes (.vldx (rg 2)) ix1 ∧ (∀ l ∈ active (vlatch ix1 18).v, laneOk (.vldx (rg 2)) ix1 false l (.inr (0x3B, false))) ∧
    (∀ l < 64, lane32 (0x3B : Vec) l = BitVec.ofNat 32 (winLane ix1 (fun _ => .inr (0x3B, false)) l).1 ∧
      (0 : BitVec 64).getLsbD l = (winLane ix1 (fun _ => .inr (0x3B, false)) l).2) ∧
    goes (.vstx (im 0x100)) ix2 ∧ active (vlatch ix2 18).v = [] := by
  refine ⟨goes_of ?_, ?_, ?_, goes_of ?_, ?_⟩
  case refine_2 => rw [active_ix1]; intro l hl; cases List.mem_singleton.mp hl; exact ⟨by decide +kernel, by decide +kernel, rfl, by decide +kernel, by decide +kernel, ok_of (by decide +kernel)⟩
  all_goals decide +kernel
theorem witness_IndexedAccesses_clean : ∀ k < 8, mget 0 ix1.mine.ecc (descKey k) = 0 := by decide +kernel
/-- Vector register 1 with one active lane. -/
def va1 : State := st (fun x => { x with v := [(1, idx0 0x40), (2, idx0 (2 ^ 31))] })
theorem witness_VectorAtomics :
    goes (.vaadd (rg 1)) va1 ∧ rmwPending va1.me < 4 ∧
    (∀ l ∈ active (vDataOf (.vaadd (rg 1)) va1).v, (vDataOf (.vaadd (rg 1)) va1).p.getLsbD l = false ∧ (lane32 (vDataOf (.vaadd (rg 1)) va1).v l).toNat % 4 = 0 ∧
      ∃ sp, checkAddr va1 va1.cur.1 va1.cur.2 .rm true ((lane32 (vDataOf (.vaadd (rg 1)) va1).v l).setWidth 64) 4 (codeOf (.vaadd (rg 1))) = .ok (sp, 0x40)) ∧
    (∀ l < 64, lane32 (idx0 0x40).v l = if l ∈ active (vDataOf (.vaadd (rg 1)) va1).v then BitVec.ofNat 32 0x40 else lane32 (vDataOf (.vaadd (rg 1)) va1).v l) ∧
    va1.mine.schB = [] ∧ room va1 (some (.pv 1)) 7 ∧ goes (.vamin (rg 2)) va1 ∧ active (vDataOf (.vamin (rg 2)) va1).v = [] := by
  refine ⟨goes_of ?_, ?_, ?_, ?_, ?_, room_of ?_, goes_of ?_, ?_⟩
  case refine_3 =>
    have e : active (vDataOf (.vaadd (rg 1)) va1).v = [0] := by decide +kernel
    rw [e]; intro l hl; cases List.mem_singleton.mp hl
    exact ⟨by decide +kernel, by decide +kernel, .scratch, ok_of (by decide +kernel)⟩
  all_goals decide +kernel

/-! ### Witnesses: shared units and the matrix engine -/

/-- Cores 0 and 1 in one sitting in regions of one ratio. -/
def task : Task := ⟨0, List.replicate 128 0, none, 0, 0, true, true⟩
def sit (cs : List Nat) : Sitting := { State.sit State.reset 0 with task := task, cores := cs, member := cs, launched := true }
def nb (cs : List Nat) : State := { vec [(22, v0 5)] with sittings := [sit cs] }
theorem witness_NeighbourSends :
    goes (.nbSend (im 0) 1) (nb [0, 1]) ∧ linked (nb [0, 1]) 0 1 = true ∧ linkTo 0 1 = some 1 ∧ (nb [0, 1]).sittingOf 0 = some (sit [0, 1]) ∧
    1 ∈ (sit [0, 1]).cores ∧ goes (.nbSend (im 0) 0) (nb [0]) ∧ linked (nb [0]) 0 0 = true ∧ linkTo 0 0 = none ∧ goes (.nbSend (im 0) 1) (nb [0]) ∧
    linked (nb [0]) 0 1 = true ∧ (1 : Nat) ∉ (sit [0]).cores := by
  refine ⟨goes_of ?_, ?_, ?_, ?_, ?_, goes_of ?_, ?_, ?_, goes_of ?_, ?_, ?_⟩
  all_goals decide +kernel
/-- SW.o at an image, SW.c at a table. -/
def sw1 : State := st (fun x => { x with slat := [(2, ⟨0x2000, false⟩), (3, ⟨0x403, false⟩)], desc := [(0, ramp)] }) (fun y => { y with s := [(1, ⟨0x8007, false⟩)] })
theorem witness_StencilOperations :
    goes (.swset (im 0)) sw1 ∧ goes (.swset (rg 1)) sw1 ∧ sw1.mine.swset = none ∧ (dataOf (.swset (rg 1)) sw1).v = BitVec.ofNat 64 (7 + 256 * 128) ∧
    (dataOf (.swset (im 0)) sw1).v = BitVec.ofNat 64 (0 + 256 * 0) ∧ (sLat sw1 0 2).v.toNat % 64 = 0 ∧
    checkAddr sw1 0 0 .sw false (sLat sw1 0 2).v 64 0x3D0 = .ok (.scratch, 0x2000) ∧
    checkAddr sw1 0 0 .sw false (sLat sw1 0 3).v (8 * 128) 0x3D0 = .ok (.scratch, 0x403) ∧ sw1.mine.schA = [] ∧
    goes (.swget (im 7)) sw1 ∧ checkAddr sw1 0 0 .sw true (sLat sw1 0 2).v 64 0x3D1 = .ok (.scratch, 0x2000) ∧
    goes (.swoff (im 0)) sw1 ∧ dKind (mget 0 sw1.mine.desc 0) ≠ 0 ∧
    moved (mget 0 sw1.mine.desc 0) (ramp + BitVec.ofNat 512 (0x2000 * 2 ^ 64 + 0x403 * 2 ^ 128)) (sLat sw1 0 2).v (sLat sw1 0 3).v := by
  refine ⟨goes_of ?_, goes_of ?_, ?_, ?_, ?_, ?_, ok_of ?_, ok_of ?_, ?_, goes_of ?_, ok_of ?_, goes_of ?_, ?_, ?_⟩
  case refine_14 => unfold moved; decide +kernel
  all_goals decide +kernel
/-- An XE at rest, one whose chain runs with an effect to come, and a chain armed. -/
def xe1 : State := st (fun x => { x with walked := [0x720] }) (fun y => { y with s := [(1, ⟨0x720, false⟩)], p := [(5, ⟨1, false⟩)] })
def xe2 : State := st (fun x => { x with lc := { Chain.reset with run := true, effs := [⟨9, .sem 1, 0, false⟩] }, armed := some (0x720, 0) })
theorem witness_ExchangeTriggers :
    goes (.xgo (rg 1)) xe1 ∧ (dataOf (.xgo (rg 1)) xe1).v.toNat % 32 = 0 ∧ (dataOf (.xgo (rg 1)) xe1).v.toNat < 0x400000 ∧ xe1.mine.lc.run = false ∧
    snapOf xe1 (1 + 2 ^ 5) ∧ xe1.mine.schA = [] ∧ goes (.xarm (rg 1)) xe1 ∧ (dataOf (.xarm (rg 1)) xe1).v.toNat ∈ xe1.mine.walked ∧
    goes (.xst (im 3)) xe1 ∧ room xe1 (some (.ss 0)) 2 ∧ goes (.xabDisarm (im 1)) xe2 ∧ (dataOf (.xabDisarm (im 1)) xe2).v = 1 ∧
    goes (.xabAbort (im 0)) xe2 ∧ (dataOf (.xabAbort (im 0)) xe2).v = 0 ∧ xe2.mine.lc.run = true := by
  refine ⟨goes_of ?_, ?_, ?_, ?_, ?_, ?_, goes_of ?_, ?_, goes_of ?_, room_of ?_, goes_of ?_, ?_, goes_of ?_, ?_, ?_⟩
  case refine_5 => unfold snapOf; decide +kernel
  all_goals decide +kernel
/-- XE behind the brush's store of cycle 9, in user privilege without a segment, and with its status asked for in this cycle. -/
def xe3 : State := st (fun x => { x with walked := [0x720] }) (fun y => { y with s := [(1, ⟨0x720, false⟩)], flights :=
  [{ Flight.done 0 0x2E9 false 0 9 none 0 Vc.zero 0 with store := true, pieces := [⟨9, .scratch, 0x40, 4, 0, 0⟩] }] })
def xe4 : State := st id (fun y => { y with sys := false, s := [(1, ⟨0x720, false⟩)] })
def asked (code : Nat) (d : Dst) : State := st id (fun y => { y with flights := [Flight.done 0 code false 0 2 (some d) 3 Vc.zero 0] })
theorem witness_ExchangeTriggers_cases :
    max (tm xe1 + 2) (pendingWrite xe1.mine xe1.cur.2 xe1.mine.seq (tm xe1) + 1) = tm xe1 + 2 ∧
    checkAddrAs xe1 xe1.cur.1 xe1.me.sys .xe false (dataOf (.xgo (rg 1)) xe1).v 32 0x3C0 = .ok (.scratch, 0x720) ∧ (dataOf (.xgo (rg 1)) xe1).p = false ∧
    goes (.xgo (rg 1)) xe3 ∧ snapOf xe3 1 ∧ max (tm xe3 + 2) (pendingWrite xe3.mine xe3.cur.2 xe3.mine.seq (tm xe3) + 1) ≠ tm xe3 + 2 ∧
    goes (.xgo (rg 1)) xe4 ∧ snapOf xe4 1 ∧ max (tm xe4 + 2) (pendingWrite xe4.mine xe4.cur.2 xe4.mine.seq (tm xe4) + 1) = tm xe4 + 2 ∧
    checkAddrAs xe4 xe4.cur.1 xe4.me.sys .xe false (dataOf (.xgo (rg 1)) xe4).v 32 0x3C0 = .error (segTrap 0x720 32 0x3C0 5) ∧
    (∃ f ∈ ((asked 0x3C2 (.ss 0)).brush 0 0).flights, f.vsp = false ∧ f.code = 0x3C2 ∧ f.t = (asked 0x3C2 (.ss 0)).cyc 0 ∧ f.d.toNat ≤ 3) ∧
    (dataOf (.xst (im 3)) xe1).v.toNat ≤ 3 ∧ goes (.xabAbort (im 0)) xe1 ∧ (dataOf (.xabAbort (im 0)) xe1).v = 0 ∧ xe1.mine.lc.run = false ∧
    xe2.mine.lc.cut = none := by
  refine ⟨?_, ok_of ?_, ?_, goes_of ?_, ?_, ?_, goes_of ?_, ?_, ?_, ?_, ?_, ?_, goes_of ?_, ?_, ?_, ?_⟩
  case refine_5 => unfold snapOf; decide +kernel
  case refine_8 => unfold snapOf; decide +kernel
  case refine_10 =>
    have h : (match checkAddrAs xe4 xe4.cur.1 xe4.me.sys .xe false (dataOf (.xgo (rg 1)) xe4).v 32 0x3C0 with
      | .ok _ => false | .error e => decide (e = segTrap 0x720 32 0x3C0 5)) = true := by decide +kernel
    split at h
    · cases h
    · next e he => rw [he, of_decide_eq_true h]
  all_goals decide +kernel
/-- Crossing 0 from slot 1 of region 0 to slot 1 of region 1, seen from region 0 and from region 1. -/
def xing (c : Nat) : State :=
  { State.reset with
    cur := (c, 0), busy := true, cores := [(c, ({ Core.reset with slat := [(4, ⟨1, false⟩)] }).setBrush 0 { Brush.reset with run := .running, sys := true })],
    xings := [(0, { Crossing.reset with cfg := 0x80010101 })], regions := [(0, { Region.reset with a := 1 }), (1, { Region.reset with a := 1 })] }
theorem witness_CrossingTriggers :
    goes (.xcput (im 5)) (xing 0) ∧ (sLat (xing 0) 0 4).v = BitVec.ofNat 64 1 ∧ (xing 0).crossing (regionOf 0) 1 = some (0, true) ∧
    goes (.xcget (im 5)) (xing 16) ∧ (xing 16).crossing (regionOf 16) 1 = some (0, false) ∧ goes (.xcst (im 5)) (xing 16) ∧ room (xing 16) (some (.ss 1)) 2 := by
  refine ⟨goes_of ?_, ?_, ?_, goes_of ?_, ?_, goes_of ?_, room_of ?_⟩
  all_goals decide +kernel
theorem witness_CrossingTriggers_status :
    ((xing 0).xing 0).cfg.getLsbD 30 = false ∧
    ∃ f ∈ ((asked 0x3E2 (.ss 1)).brush 0 0).flights, f.vsp = false ∧ f.code = 0x3E2 ∧ f.t = (asked 0x3E2 (.ss 1)).cyc 0 := by decide +kernel
/-- A core in the boundary service with segments and a context in slot 3, and one at rest with a machine-check bank. -/
def sys1 : State :=
  { st (fun x => { x with service := true, segsp := 2 ^ 32 * 64512, segvt := 2 ^ 32, segis := 0x4000400040004000 }) (fun y => { y with lat := [(20, ⟨16 * 2 ^ 32, false⟩)] }) with
    regions := [(0, { Region.reset with a := 0x0008000100000001 })] }
def slot3 : List Host.Cell :=
  wrBytes (wrBytes (wrBytes (wrBytes (wrBytes [] (ctxSlot 3) 1 8) (ctxSlot 3 + 0x10) 0x0008000100000001 8) (ctxSlot 3 + 0x50) (2 ^ 32 * 64512) 8)
    (ctxSlot 3 + 0x58) (2 ^ 32) 8) (ctxSlot 3 + 0x60) 0x4000400040004000 8
def sys2 : State := sys1.modCore 0 (fun x => { x with vault := slot3 })
theorem witness_SystemTriggers_context :
    goes (.ctxsv (im 7)) sys1 ∧ sys1.mine.service = true ∧ (dataOf (.ctxsv (im 7)) sys1).v = BitVec.ofNat 64 (3 + 4) ∧
    (latch sys1 20).v.toNat % 2 ^ 17 + (latch sys1 20).v.toNat / 2 ^ 32 % 2 ^ 17 ≤ SEGSP_SIZE sys1.mine ∧ sys1.me.run = .running ∧
    goes (.ctxld (im 3)) sys2 ∧ rdBytes sys2.mine.vault (ctxSlot 3) 8 % 2 = 1 ∧
    rdBytes sys2.mine.vault (ctxSlot 3 + 0x10) 8 = domWord (sys2.region (regionOf sys2.cur.1)).a ∧
    segspOk (w64 (rdBytes sys2.mine.vault (ctxSlot 3 + 0x50) 8)) = true ∧ segvtOk (w64 (rdBytes sys2.mine.vault (ctxSlot 3 + 0x58) 8)) = true ∧
    segisOk (w64 (rdBytes sys2.mine.vault (ctxSlot 3 + 0x60) 8)) = true ∧ sys2.me.run = .running := by
  refine ⟨goes_of ?_, ?_, ?_, ?_, ?_, goes_of ?_, ?_, ?_, ?_, ?_, ?_, ?_⟩
  all_goals decide +kernel
/-- A write of RCFGA in SYS.o. -/
def sys3 : State := st id (fun y => { y with lat := [(20, ⟨0x000800019C400001, false⟩)], s := [(1, ⟨31 + 256 * 3 + 4096, false⟩), (2, ⟨31, false⟩)] })
theorem witness_SystemTriggers :
    goes (.mckr (rg 1)) sys3 ∧ (dataOf (.mckr (rg 1)) sys3).v = BitVec.ofNat 64 (31 + 256 * 3 + 4096) ∧ room sys3 (some (.ps 22)) 4 ∧
    (∀ n < 3, goes (.sbist (im n)) sys1) ∧ (∀ u ∈ [4, 5, 6, 9], mayUse sys1.mine sys1.cur.2 (tm sys1) u = true) ∧ (latch (st id) 20).v.toNat % 64 = 0 ∧
    checkAddr (st id) 0 0 .sw true (latch (st id) 20).v 64 0x3F3 = .ok (.scratch, 0) ∧
    goes (.rcfg (rg 2)) sys3 ∧ (dataOf (.rcfg (rg 2)) sys3).v = BitVec.ofNat 64 (31 + 256 * 0) ∧ (writeRcfga 31 (latch sys3 20).v sys3).1 = 0 := by
  refine ⟨goes_of ?_, ?_, room_of ?_, fun n hn => goes_of ?_, ?_, ?_, ok_of ?_, goes_of ?_, ?_, ?_⟩
  case refine_4 => revert n; decide +kernel
  all_goals decide +kernel
theorem witness_SystemTriggers_test :
    bistFail sys1.mine 0 = none ∧ bistFail (sys1.modCore 0 (fun x => { x with glitch := 2 ^ 32 + 77 })).mine 0 = some (1, 77) ∧ sys1.me.run = .running ∧
    (dataOf (.sbist (im 2)) sys1).v = BitVec.ofNat 64 2 := by decide +kernel
/-- A product of two tiles of binary8, and a retire to fp32. -/
def mx0 : MxF := ⟨0, 0, 0, 0, 0, 0, 0, 0, 0, 0, 0, 0, 0, 0, 0, 0, false, false, false, false⟩
def mxA : MxF := { mx0 with ta := 0x84, tb := 0x84, ks := 2, baddr := 0x100, astr := 64, bstr := 64 }
def mxR : MxF := { mx0 with ta := 0x42, astr := 2 }
theorem witness_MatrixCommands :
    (∀ i ∈ [(Instr.mnop mx0, 0, mx0), (.mma mxA, 1, mxA), (.mzero mx0, 3, mx0), (.msave mx0, 5, mx0), (.mret mxR, 7, mxR)],
      mxOf i.1 = some (i.2.1, i.2.2) ∧ passesB (mxBundle i.2.1 i.2.2) (st id) = true) ∧
    mxTyped 1 mxA ∧ mxTyped 7 mxR ∧ mxInside (st id) ⟨1, mxA, 0, 0⟩ ∧ mxInside (st id) ⟨7, mxR, 0, 0⟩ ∧
    (st id).mine.mtq.length + (st id).mine.mtRun.length < 16 := by
  refine ⟨?_, ?_, ?_, ?_, ?_, ?_⟩
  case refine_2 => unfold mxTyped; decide +kernel
  case refine_3 => unfold mxTyped; decide +kernel
  case refine_4 =>
    intro e he
    have h : (mxExtents ⟨1, mxA, 0, 0⟩).all (fun e => match accessRange e.2.1 e.2.2 with | some (.scratch, _) => true | _ => false) = true := by decide +kernel
    have h1 := List.all_eq_true.mp h e he
    refine ⟨?_, .inl (by decide +kernel)⟩
    split at h1
    · next z hz => exact ⟨z, hz⟩
    · cases h1
  case refine_5 =>
    intro e he
    have h : (mxExtents ⟨7, mxR, 0, 0⟩).all (fun e => match accessRange e.2.1 e.2.2 with | some (.scratch, _) => true | _ => false) = true := by decide +kernel
    have h1 := List.all_eq_true.mp h e he
    refine ⟨?_, .inl (by decide +kernel)⟩
    split at h1
    · next z hz => exact ⟨z, hz⟩
    · cases h1
  all_goals decide +kernel
theorem witness_MatrixCommands_retire : mxSpread (st id) mxR := by
  intro j hj g h hg hh
  let L (j : Nat) : List Nat := (List.range 8).flatMap (fun r => granules (mxR.aaddr.toNat * 64 + (8 * j + r) * retPitch mxR) (retRow mxR))
  have key : ∀ j < 4, ∀ g ∈ L j, ∀ h ∈ L j, g % 64 = h % 64 → g = h := by decide +kernel
  have mem : ∀ g, (∃ r < 8, g ∈ granules ((if (st id).me.sys then 0 else SEGSP_BASE (st id).mine * 64) + mxR.aaddr.toNat * 64 + (8 * j + r) * retPitch mxR) (retRow mxR)) → g ∈ L j := by
    rintro g ⟨r, hr, hm⟩
    have e : (if (st id).me.sys then 0 else SEGSP_BASE (st id).mine * 64) = 0 := by decide +kernel
    rw [e, Nat.zero_add] at hm
    exact List.mem_flatMap.mpr ⟨r, List.mem_range.mpr hr, hm⟩
  exact key j hj g (mem g hg) h (mem h hh)

/-! ### Witnesses: moves and bundles -/

/-- Guards: p1 zero, p2 with lanes 0 and 2. -/
def gd : State := st id (fun y => { y with p := [(1, ⟨0, false⟩), (2, ⟨5, false⟩)], s := [(1, ⟨7, false⟩)] })
theorem witness_ScalarMoves :
    (∀ d ∈ [0, 0x3F, 0x40, 0x41, 0xBF, 0x100, 0x12D, 0x120, 0x129], passes (soloBundle false ⟨false, 0, 1⟩ d) gd) ∧
    passes (soloBundle false ⟨true, 2, 1⟩ 5) gd ∧ laneOn gd ⟨false, 0, 1⟩ 0 = true ∧ laneOn gd ⟨true, 2, 1⟩ 0 = false := by
  refine ⟨fun d hd => passes_of ?_, passes_of ?_, ?_, ?_⟩
  · revert d; decide +kernel
  all_goals decide +kernel
theorem witness_VectorMoves :
    (∀ d ∈ [0, 0x2FF, 0x300, 0x301, 0x37F, 0x400, 0x402, 0x40E, 0x40F, 0x410], passes (soloBundle true ⟨false, 2, 1⟩ d) gd) ∧
    passes (soloBundle true ⟨true, 0, 0⟩ 0) gd ∧ word ⟨true, 0, 0⟩ 0 = ⟨true, 0, 0, 0⟩ ∧ word ⟨false, 2, 1⟩ 0 ≠ ⟨true, 0, 0, 0⟩ ∧
    gd.mine.vwr = [] ∧ laneOn gd ⟨false, 2, 1⟩ 0 = true ∧ laneOn gd ⟨false, 1, 1⟩ 0 = false := by
  refine ⟨fun d hd => passes_of ?_, passes_of ?_, ?_, ?_, ?_, ?_, ?_⟩
  · revert d; decide +kernel
  all_goals decide +kernel
/-- s1 → s2, s2 → s1 under a false guard; s1 → A0.o with an add of s1. -/
def swap : Bundle := ⟨false, 0, false, [⟨false, 0, 1, 2⟩, ⟨false, 1, 2, 1⟩], [], none, []⟩
def oneAdd : Bundle := ⟨false, 0, false, [⟨false, 0, 1, 0x100⟩, ⟨false, 0, 1, 0x200⟩], [], none, []⟩
theorem witness_BundlesTakeEffectAtOnce :
    passes swap gd ∧ onlyS swap ∧ (∀ m ∈ swap.sm, m.dst.toNat < 0x40) ∧ guardBit gd.me ⟨false, 0, 1, 2⟩ = true ∧ guardBit gd.me ⟨false, 1, 2, 1⟩ = false ∧
    passes oneAdd gd ∧ passes { oneAdd with sm := [⟨false, 0, 1, 0x200⟩, ⟨false, 0, 1, 0x100⟩] } gd ∧ onlyS oneAdd ∧ room gd (some (.ps 3)) 1 := by
  refine ⟨passes_of ?_, ⟨rfl, rfl⟩, ?_, ?_, ?_, passes_of ?_, passes_of ?_, ⟨rfl, rfl⟩, room_of ?_⟩
  all_goals decide +kernel
/-- A transfer before its second delay bundle, and a brush at the end of two loops. -/
def xf (n : Nat) : State := st id (fun y => { y with xfer := some ⟨40, n⟩ })
def ends (r : Nat) (l : List LoopE) : State := st id (fun y => { y with pc := 9, loops := ⟨3, 9, r⟩ :: l })
def idle (w : BitVec 4) : Bundle := ⟨false, w, false, [], [], none, []⟩
theorem witness_BundleSequence :
    passes (idle 15) (xf 2) ∧ passes (idle 0) (xf 1) ∧ passes (idle 0) (st id) ∧ (st id).me.xfer = none ∧ noEnd (st id) ∧
    passes (idle 0) (ends 2 []) ∧ (ends 2 []).me.xfer = none ∧ (ends 2 []).me.loops = [⟨3, 9, 2⟩] ∧ (9 : Nat) = (ends 2 []).me.pc ∧
    passes (idle 0) (ends 1 [⟨0, 12, 5⟩]) ∧ (12 : Nat) ≠ (ends 1 [⟨0, 12, 5⟩]).me.pc := by
  refine ⟨passes_of ?_, passes_of ?_, passes_of ?_, ?_, fun l r h => ?_, passes_of ?_, ?_, ?_, ?_, passes_of ?_, ?_⟩
  case refine_5 => cases h
  all_goals decide +kernel
theorem witness_GuardedTriggers :
    trigOf (.trap ⟨false, 1, 0x805⟩) = some (false, ⟨false, 1, 0x805⟩, 0x327) ∧ passes (soloBundle false ⟨false, 1, 0x805⟩ 0x327) gd ∧
    laneOn gd ⟨false, 1, 0x805⟩ 0 = false ∧ passes (soloBundle true ⟨false, 1, 1⟩ 0x900) vs1 := by
  refine ⟨?_, passes_of ?_, ?_, passes_of ?_⟩
  all_goals decide +kernel
/-- A user brush. -/
def usr : State := st (fun x => { x with segsp := 0x1000000040 + 0x1000 }) (fun y => { y with sys := false })
theorem witness_TrappedBundles :
    bundleOf (.tret (im 0)) = some (soloBundle false (im 0) 0x329) ∧ (bundleTrap (issOf (soloBundle false (im 0) 0x329) usr) (soloBundle false (im 0) 0x329) usr).isSome = true ∧
    (∀ c ∈ [0x3F0, 0x3F1, 0x3F2, 0x3F3, 0x3F4, 0x329], readable (im 0) c) ∧ usr.me.sys = false := by
  refine ⟨?_, ?_, fun c hc => ?_, ?_⟩
  case refine_3 => unfold readable; revert c; decide +kernel
  all_goals decide +kernel
/-- A segment of 256 bytes at 0x1000 whose last 64 are the chain region. -/
def seg : State := st (fun x => { x with segsp := 4 * 2 ^ 32 + 1 * 2 ^ 16 + 0x40 }) (fun y => { y with sys := false })
theorem witness_AddressesAndConstants :
    (st id).me.sys = true ∧ (seg.brush 0 0).sys = false ∧ (0 + 256 : Nat) ≤ SEGSP_SIZE (seg.core 0) * 64 ∧
    (0 + 192 : Nat) ≤ (SEGSP_SIZE (seg.core 0) - SEGSP_CHAIN (seg.core 0)) * 64 ∧ (SEGSP_SIZE (seg.core 0) - SEGSP_CHAIN (seg.core 0)) * 64 < 192 + 1 ∧
    SEGSP_SIZE (seg.core 0) * 64 < 256 + 1 ∧ (0x3FFFFF : Nat) + 1 ≤ 0x400000 ∧ 2 ^ 36 ≤ (0x1000000000 : Word).toNat := by decide +kernel
/-- A word of code before brush 0; an event next; a stopped device with nothing to come. -/
def codeAt : State := placeWords [0x20000000, 0x00007200] State.reset
theorem witness_WhatAStepRuns :
    codeAt.fatal = false ∧ codeAt.busy = true ∧ headerWords (codeAt.mine.iword codeAt.cur.2 codeAt.me.pc).w = 2 ∧
    fetchTrap codeAt.mine codeAt.cur.2 codeAt.me.pc 2 = none ∧ codeAt.mine.ecc = [] ∧
    (decode ((List.range 2).map (fun j => (codeAt.mine.iword codeAt.cur.2 (codeAt.me.pc + j)).w))).toOption = some (.add ⟨false, 0, 7⟩ false, 2) ∧
    { State.reset with agenda := [.ev 5 .draining] }.busy = false ∧ { State.reset with fatal := true }.inputs = [] := by decide +kernel
theorem witness_EncodingRoundTrip :
    wellFormed (.add (im 1) true) = true ∧ (bundleOf (.add (im 1) true)).isSome = true ∧ wellFormed (.bundleIssue swap) = true ∧
    (bundleOf (.bundleIssue swap)).isSome = true ∧ wellFormed (.mma mxA) = true ∧ (bundleOf (.mma mxA)).isSome = true := by decide +kernel
theorem witness_MemoryStaysCanonical : codeAt.memOk = true ∧ (match step codeAt with | .next _ => true | _ => false) = true := by decide +kernel

/-! ### Witnesses: events of a core -/

/-- Core 0 changed, with the event on it; brush 0 has the operations named. -/
def ev (f : Core → Core) (l : List Flight := []) : State := st (fun x => (f x).setBrush 0 { Brush.reset with flights := l }) (fun _ => { Brush.reset with flights := l })
/-- An operation to be delivered in cycle 0. -/
def dn (c : Nat) (d : Option Dst) : Flight := Flight.done 0 c false 0 0 d 0 (scVc ⟨9, false⟩) 1
theorem witness_ResultsComplete :
    let s := ev id [dn 0x200 (some (.ps 3)), { dn 0x3C2 (some (.ss 0)) with seq := 1 }]
    (at_ s).glitch ≠ 1 ∧ (∀ b < 4, ∀ f ∈ ((at_ s).brush b).flights, ∀ g ∈ ((at_ s).brush b).flights, f.seq = g.seq → f = g) ∧
    (∃ f ∈ ((at_ s).brush 0).flights, ready s f ∧ f.dst = some (.ps 3)) := by unfold ready; decide +kernel
/-- A store of a word, an atomic, a lane read, a lane written, each due in cycle 0. -/
def oneStore : Flight := { dn 0x2E9 none with store := true, pieces := [⟨0, .scratch, 0x40, 4, 0, 0⟩], src := v0 77 }
def oneAtom : Flight := { dn 0x380 (some (.ps 19)) with slots := [(0, 0)], idx := v0 0x40, src := v0 5 }
def oneRead : Flight := { dn 0x3B2 (some (.vs 21)) with pieces := [⟨0, .scratch, 0x40, 4, 252, 63⟩] }
def oneWrite : Flight := { dn 0x3B3 none with store := true, pieces := [⟨0, .scratch, 0x40, 4, 0, 0⟩], src := v0 5 }
theorem alone_of {s : State} {b : Nat} {f : Flight} (h : b < 4 ∧ ((at_ s).brush b).flights = [f] ∧ (∀ j < 4, j ≠ b → ((at_ s).brush j).flights = []) ∧
    (at_ s).lc.ops = [] ∧ (at_ s).lc.effs = [] ∧ (at_ s).xc.ops = [] ∧ (at_ s).xc.effs = [] ∧ (at_ s).landing = [] ∧ (at_ s).engW = [] ∧
    (at_ s).mtRun = [] ∧ (at_ s).rmwW = [] ∧ (at_ s).drains = [] ∧ (at_ s).ecc = []) : Alone s b f := h
theorem witness_AccessesPerformed :
    Alone (ev id [oneStore]) 0 oneStore ∧ oneStore.pieces = [⟨0, .scratch, 0x40, 4, 0, 0⟩] ∧ now_ (ev id [oneStore]) = 0 ∧
    Alone (ev id [oneAtom]) 0 oneAtom ∧ (atomNew 32)[0]?.isSome = true ∧ (atomNew 64)[9]?.isSome = true ∧ oneAtom.code = 0 + 0x380 ∧
    oneAtom.slots = [(now_ (ev id [oneAtom]), 0)] ∧ Alone (ev id [oneRead]) 0 oneRead ∧ (at_ (ev id [oneRead])).wrote ≠ some (now_ (ev id [oneRead])) ∧
    Alone (ev (fun x => { x with wrote := some 0 }) [oneWrite]) 0 oneWrite ∧
    (at_ (ev (fun x => { x with vpend := [⟨0, 0, 0x40, 8, 7, 0, none, 0⟩] }))).vpend = [⟨0, 0, 0x40, 8, 7, 0, none, 0⟩] ∧
    (at_ (ev (fun x => { x with vpend := [⟨0, 0, 0x40, 8, 7, 0, none, 0⟩] }))).undoOn = false := by
  refine ⟨alone_of ?_, ?_, ?_, alone_of ?_, ?_, ?_, ?_, ?_, alone_of ?_, ?_, alone_of ?_, ?_, ?_⟩
  all_goals decide +kernel
/-- A region at VREF 8, VHOST 24, whose core is in cycle k of its phase. -/
def slotAt (k : Nat) (f : Core → Core) : State := { ev f with regions := [(0, { Region.reset with a := 1, b := 24 * 2 ^ 48 + 8 * 2 ^ 32, effB := 24 * 2 ^ 48 + 8 * 2 ^ 32, cyc := k })], panels := [0] }
theorem witness_HostVaultEvents :
    slotKind (slotAt 1 id) 0 (now_ (slotAt 1 id)) ≠ some 0 ∧ slotKind (slotAt 8 id) 0 (now_ (slotAt 8 id)) = some 0 ∧
    (at_ (slotAt 8 (fun x => { x with ecc := [(2 ^ 40 + 5, 1)] }))).ecc = [(2 ^ 40 + 5, 1)] ∧
    slotKind (slotAt 12 id) 0 (now_ (slotAt 12 id)) = some 1 ∧
    ({ slotAt 12 id with hostReqs := [(0x40, 8)] }).hostReqs.find? (fun r => r.1 / Config.vaultBytes == 0) = some (0x40, 8) ∧
    (at_ (ev (fun x => { x with hbuf := [⟨1, 5, 1⟩] }))).hbuf = ⟨1, 5, 1⟩ :: [] ∧ (ev id).sittingOf 0 = none ∧
    panelOf 0 ∈ (slotAt 8 id).panels ∧ (0x40 : Nat) / 64 = (0x40 + [1, 2].length - 1) / 64 ∧ ((slotAt 8 id).core 0).hbuf = [] ∧
    (slotAt 8 id).rsrc (regionOf 0) ≠ 0 ∧ ((slotAt 8 id).region (regionOf 0)).stopped = false ∧
    ({ slotAt 8 id with sittings := [sit [0]] }).sittingOf 0 ≠ none := by decide +kernel
/-- Rows of core 0 under repair; a line held at the link. -/
theorem witness_HostVaultEvents_more :
    (slotAt 12 id).pairOf 0 = none ∧
    ({ slotAt 12 id with hostReqs := [(0x40, 8)] }).hostReqs.find? (fun r => (slotAt 12 id).hostOf (r.1 / Config.vaultBytes) == 0) = some (0x40, 8) ∧
    ({ slotAt 12 id with repairs := [(0, 3, 2)] }).repairs.find? (fun r => r.1 == 0) = some (0, 3, 2) ∧
    ({ slotAt 12 id with repairs := [(0, 3, 1)] }).repairs.find? (fun r => r.1 == 0) = some (0, 3, 1) ∧
    (slotAt 12 id).hostReqs.find? (fun r => (slotAt 12 id).hostOf (r.1 / Config.vaultBytes) == 0) = none ∧
    (0x40 : Nat) % Config.vaultBytes + 8 ≤ Config.ctxBase ∧ (∀ k ∈ (slotAt 8 id).hostHeld, k.1 ≠ 0) ∧
    (∃ k ∈ ({ slotAt 8 id with hostHeld := [(0, ⟨1, 5, 1⟩)] }).hostHeld, k.1 = 0) ∧ (at_ (slotAt 8 id)).undoOn = false := by decide +kernel
/-- Brush 0 waiting, the others halted. -/
def wt (w : Wait) (f : Core → Core := id) : State := st f (fun _ => { Brush.reset with run := .waiting w })
theorem witness_CoreCycleEvents_waits :
    (wt (.sem 3)).frozen 0 = false ∧ (∀ j < 4, j ≠ 0 → ((at_ (wt (.sem 3))).brush j).run = .halted) ∧ ((at_ (wt (.sem 3))).brush 0).run = .waiting (.sem 3) ∧
    ¬ metBy (wt (.sem 3)) 0 (.sem 3) ∧ metBy (wt (.sem 3) (fun x => { x with sems := [(3, 1)] })) 0 (.sem 3) ∧
    metBy (wt (.land 1 0)) 0 (.land 1 0) ∧ metBy (wt (.mem 0x40 0)) 0 (.mem 0x40 0) ∧ metBy (wt (.ringFree 1)) 0 (.ringFree 1) ∧
    metBy (wt (.fence 1)) 0 (.fence 1) ∧ metBy (wt (.cad 1)) 0 (.cad 1) ∧ metBy (wt (.until 0)) 0 (.until 0) := by
  refine ⟨?_, ?_, ?_, ?_, ?_, ?_, ?_, ?_, ?_, ?_, ?_⟩
  all_goals first | decide +kernel | (unfold metBy; decide +kernel)
/-- A release that waits for a store of cycle 9, and one that waits for nothing. -/
def rel (k : RelKind) (l : List Flight := []) : State := ev (fun x => { x with rels := [⟨k, 0, 5, 0⟩] }) l
theorem witness_CoreCycleEvents_releases :
    (at_ (rel (.semp 3))).rels = [⟨.semp 3, 0, 5, 0⟩] ∧ (at_ (rel (.semp 3) [{ oneStore with seq := 1, pieces := [⟨9, .scratch, 0x40, 4, 0, 0⟩] }])).performed 0 5 0 false = false ∧
    (at_ (rel (.semp 3))).performed 0 5 (now_ (rel (.semp 3))) false = true ∧ mget 0 (at_ (rel (.semp 3))).sems 3 ≠ 0xFFFF ∧
    (rel (.publish 1 5)).crossing (regionOf 0) 1 = none ∧
    { rel (.publish 1 5) with xings := (xing 0).xings, regions := (xing 0).regions }.crossing (regionOf 0) 1 = some (0, true) ∧
    ((xing 0).xing 0).putNow = none := by decide +kernel
theorem witness_CoreCycleEvents_others :
    ((at_ (wt (.phend 0 true))).brush 0).run = .waiting (.phend 0 true) ∧ (at_ (wt (.phend 0 true))).mtq ++ (at_ (wt (.phend 0 true))).mtRun = [] ∧
    ¬ ((at_ (wt (.phend 0 true))).lc.run = true ∧ (at_ (wt (.phend 0 true))).lc.brush = 0) ∧ (at_ (wt (.phend 0 true))).performed 0 0 0 true = true ∧
    ((at_ (wt .halt)).brush 0).run = .waiting .halt ∧ (at_ (wt .halt)).tracker = [] ∧ (at_ (wt .halt)).lc.run = false ∧
    (at_ (ev (fun x => { x with moving := [(9, 4, 0)] }))).moving = [(9, 4, 0)] ∧ unitDone (ev (fun x => { x with moving := [(9, 4, 0)] })) 0 0 9 = true ∧
    (at_ (ev (fun x => { x with swset := some ⟨0, 7, 0, 0, 0, 0, 0, 0, 0, [], false, 0⟩ }))).swset.isSome = true ∧
    (at_ (ev (fun x => { x with nbArr := [(0, 23, v0 5)] }))).nbArr = [(0, 23, v0 5)] := by decide +kernel
theorem witness_CoreCycleEvents_times :
    ((at_ (wt (.sem 3))).brush 0).resumeAt ≤ now_ (wt (.sem 3)) ∧ (0 : Nat) ∉ (at_ (wt (.phend 0 true))).commitNow ∧
    (at_ (wt (.phend 0 true))).performed 0 0 (now_ (wt (.phend 0 true)) - 1) true = true ∧
    (at_ (wt (.phend 1 true) (fun x => { x with engW := [⟨5, 0, 8, 0, 0, 0, 0⟩] }))).performed 0 1 (now_ (wt (.phend 0 true)) - 1) true = false ∧
    mayRelease (at_ (rel (.semp 3))) ⟨.semp 3, 0, 5, 0⟩ (now_ (rel (.semp 3))) = true ∧
    mayRelease (at_ (rel (.semp 3) [{ oneStore with seq := 1, pieces := [⟨9, .scratch, 0x40, 4, 0, 0⟩] }])) ⟨.semp 3, 0, 5, 0⟩ (now_ (rel (.semp 3))) = false ∧
    mayRelease (at_ (rel (.publish 1 5) [{ oneStore with seq := 1, pieces := [⟨9, .scratch, 0x40, 4, 0, 0⟩] }])) ⟨.publish 1 5, 0, 5, 0⟩ 0 = true ∧
    (∀ j < 4, j = 0 ∨ ((at_ (wt .halt)).brush j).run = .halted → ((at_ (wt .halt)).brush j).pend = [] ∧ ((at_ (wt .halt)).brush j).pendNew = []) ∧
    unitDone (ev (fun x => { x with moving := [(9, 4, 0)] })) 0 (now_ (ev id)) 9 = true := by decide +kernel
theorem witness_CoreCycleEvents_swset :
    let s := { ev (fun x => { x with swset := some ⟨0, 7, 0, 0, 0, 0, 3, 0, ramp, [], false, 0⟩ }) with regions := [(0, { Region.reset with cyc := 3 })] }
    (at_ s).swset = some ⟨0, 7, 0, 0, 0, 0, 3, 0, ramp, [], false, 0⟩ ∧ (3 : Nat) = now_ s := by decide +kernel

/-! ### Witnesses: phases, exchanges, the matrix engine -/

/-- Core 0 of a sitting in domain 0, which stands as `d` says. -/
def ph (d : Domain) (z : Sitting := sit [0]) (f : Core → Core := id) : State :=
  { ev f with regions := [(0, { Region.reset with a := 1 })], domains := [(0, d)], sittings := [z] }
def exchD : Domain := { Domain.reset with exch := true }
theorem witness_PhaseEvents_openings :
    let s := { ph Domain.reset (sit [0]) (fun x => { x with armed := some (0x720, 0), brushes := [{ Brush.reset with run := .parked }] }) with here := 0 }
    (s.domain 0).exch = false ∧ (s.domain 0).closing = 0 ∧ steps s 0 = [0] ∧ (steps s 0).Nodup ∧ (s.core 0).armed = some (0x720, 0) ∧
    (({ ph exchD with here := 4096 }).sittingOf 0).isSome = true ∧
    ((ph { exchD with closing := 2 }).domain 0).closing = 2 ∧ (ph { exchD with closing := 2 }).newcomers 0 = [] ∧ (0 : Nat) < 4096 ∧
    ((ph { exchD with closing := 1 }).domain 0).closing = 1 := by decide +kernel
theorem witness_PhaseEvents_armed :
    let s := ph Domain.reset (sit [0]) (fun x => { x with armed := some (0x720, 0) })
    let p := s.modCore 0 (fun x => x.setBrush 0 { Brush.reset with run := .parked })
    (p.core 0).armed = some (0x720, 0) ∧ (p.core 0).alive ≠ [] ∧
    ((s.modCore 0 (fun x => x.setBrush 0 { Brush.reset with run := .waiting (.phase false) })).brush 0 0).run = .waiting (.phase false) := by decide +kernel
theorem witness_PhaseEvents_sittings :
    (ph Domain.reset).sittingOf 0 = some (sit [0]) ∧ (ph Domain.reset).exch 0 = false ∧ (sit [0]).status = none ∧
    (∀ c ∈ (sit [0]).cores, ((ph Domain.reset).core c).undoFull = false) ∧ { sit [0] with snapSlot := 1 }.snapSlot ≠ 2 ∧ (sit [0]).inRow ≠ 2 ∧
    (∃ c ∈ (sit [0]).cores, ((ph Domain.reset (sit [0]) (fun x => { x with undoFull := true })).core c).undoFull = true) := by decide +kernel
theorem witness_PhaseEvents_steps :
    multiPart (ph { exchD with closing := 1 }) 0 = false ∧ (∀ c ∈ steps (ph exchD) 0, (ph exchD).second c = false) ∧
    coreArrived ((ph Domain.reset (sit [0]) (fun x => { x with brushes := [] })).modCore 0 (fun x => { x with brushes := [] }) |>.core 0) = true ∧
    (ph { exchD with closing := 2 }).offPend = false ∧ (ph { exchD with closing := 2 }).debugPend = [] := by decide +kernel
/-- A chain about to fetch the words `v` at 0x720. -/
def fetch (v : Nat) : State := ev (fun x => { x with lc := { Chain.reset with run := true, ptr := 0x720, addr := 0x720, fetchAt := some 0, sysp := true }, mem := wrBytes [] 0x720 v 32 })
theorem witness_ExchangeEvents_entries :
    (∀ v ∈ [0, 9 + 15 * 2 ^ 16], (at_ (fetch v)).lc.fetchAt = some (now_ (fetch v)) ∧ (at_ (fetch v)).lc.fetchBad = false ∧
      (at_ (fetch v)).xc.fetchAt ≠ some (now_ (fetch v)) ∧ (at_ (fetch v)).ecc = [] ∧ isOk (xEntryAddr (fetch v) 0 0) 0x720 = true ∧
      (at_ (fetch v)).rdScratch 0x720 32 = (v, 0) ∧ (XEnt.ofNat v).sg = false ∧ (XEnt.ofNat v).dg = false ∧ (XEnt.ofNat v).ok = true) ∧
    (XEnt.ofNat 0).kind = 0 ∧ (XEnt.ofNat (9 + 15 * 2 ^ 16)).kind = 9 ∧ (at_ (fetch 0)).lc.loop = none ∧
    (at_ (ev (fun x => { x with lc := { Chain.reset with effs := [⟨0, .sem 15, 0, false⟩] } }))).lc.effs = [⟨now_ (ev id), .sem 15, 0, false⟩] := by decide +kernel
/-- A slot of four bytes from core 1 to core 0 at 0x40, landing in counter 31. -/
def slot : Slot := ⟨0, 1, [0], 0, [(false, 0x40)], 0x40, 4, 31, 0, 0, 0x25, 7, 0, 0, false, [], 0, 500, false, false⟩
/-- Core 0's station in an exchange phase with one TDM entry. -/
def tdm (e : BitVec 32) (f : Core → Core) (l : Map Slot) : State :=
  { ph exchD (sit [0]) (fun x => { f x with tdmP := 1, tdm := [(0, e)] }) with lanes := l, regions := [(0, { Region.reset with a := 1, cyc := 1 })] }
def onLane (z : Slot) : Map Slot := [(laneKey 2 (posOf 0) 0, z)]
theorem witness_ExchangeEvents_ring :
    (let s := tdm 0x0004 (fun x => { x with xc := { Chain.reset with ready := [slot] } }) []
     (at_ s).xc.ready = [slot] ∧ slot.ready < now_ s ∧ lanesOf (s.tdmEntry 0) 0 = [2] ∧ s.passing 2 (posOf 0) = none) ∧
    (tdm 0x0004 id (onLane slot)).passing 2 (posOf 0) = some slot ∧
    (let s := tdm 0x0400 id (onLane slot)
     lanesOf (s.tdmEntry 0) 8 = [2] ∧ s.passing 2 (posOf 0) = some slot ∧ slot.out = false ∧ 0 ∈ slot.dsts ∧ slot.mcast = false ∧ slot.kind = 0 ∧
     slot.tag = tagOf s 0 ∧ slotPlace (at_ s) 0 slot = some (false, 0x40)) ∧
    (0 ∉ { slot with dsts := [5] }.dsts ∧ { slot with dsts := [5] }.inj ≠ posOf 0) ∧
    (let z := { slot with inj := posOf 0, mcast := true, marks := [0] }
     (tdm 0 id (onLane z)).passing 2 (posOf 0) = some z ∧ z.inj = posOf 0 ∧ (∀ j < 8, j ≠ 2 → (tdm 0 id (onLane z)).passing j (posOf 0) = none) ∧
     (∀ d ∈ z.dsts, d ∈ z.marks)) := by decide +kernel
theorem witness_ExchangeEvents_landing :
    (let s := ph exchD (sit [0]) (fun x => { x with early := [slot] })
     s.exch 0 = true ∧ (at_ s).early = [slot] ∧ slot.tag = tagOf s 0 ∧ slotPlace (at_ s) 0 slot = some (false, 0x40) ∧ (mget Land.reset (at_ s).lands 31).target = none) ∧
    (let z := { slot with kind := 1 }
     let s := ph exchD (sit [0]) (fun x => { x with reduces := [z] })
     (at_ s).reduces = [z] ∧ z.ready ≤ now_ s ∧ (at_ s).early = []) ∧
    (let z := { slot with kind := 2 }
     let s := ev (fun x => { x with landing := [⟨0, z, true, none⟩] })
     (at_ s).landing = [⟨now_ s, z, true, none⟩] ∧ (at_ s).flagSlots = []) := by decide +kernel
/-- Commands queued or running: a zeroing that waits for semaphore 15, and a group multiply of 32 rows. -/
def mzq : MtCmd := queued (st id) 3 { mx0 with wmask := 0x8000, sig := 15, acc := 7 }
def mgq : MtCmd := { queued (st id) 2 { mxA with gcnt := 1, gtab := 1 } with t := 0 }
def mtAt (n : Nat) (f : Core → Core) : State := { ev f with regions := [(0, { Region.reset with cyc := n })] }
theorem witness_MatrixEvents :
    (let s := mtAt 1 (fun x => { x with mtq := [mzq], sems := [(15, 1)] })
     (at_ s).mtq = [mzq] ∧ mzq.t < now_ s ∧ mzq.cmd.op ≠ 2 ∧ (at_ s).mtFree ≤ now_ s ∧ (at_ s).mtRun = [] ∧
     (∀ n < 16, mzq.cmd.f.wmask.getLsbD n = true → mget 0 (at_ s).sems n ≠ 0) ∧ mzq.cmd.f.wmask.getLsbD 15 = true ∧ mget 0 (at_ (mtAt 1 id)).sems 15 = 0) ∧
    (let q := { mzq with start := some 0 }
     let s := mtAt 1 (fun x => { x with mtRun := [q] })
     (at_ s).mtRun = [q] ∧ 0 + q.doneAfter = now_ s ∧ q.cmd.op ≠ 0 ∧ mget 0 (at_ s).sems q.cmd.f.sig.toNat ≠ 0xFFFF) ∧
    (let s := mtAt 3 (fun x => { x with mtq := [mgq], mem := wrBytes [] 0x40 (32 + 4 * 2 ^ 16) 4 })
     (at_ s).mtq = [mgq] ∧ mgq.cmd.op = 2 ∧ mgq.t + 3 = now_ s ∧ mgq.judged = false ∧ (at_ s).ecc = [] ∧
     (match tableCheck (at_ s) (now_ s) mgq with | .ok _ => true | .error _ => false) = true) ∧
    (let s := mtAt 3 (fun x => { x with mtq := [mgq] })
     (match tableCheck (at_ s) (now_ s) mgq with | .ok _ => false | .error _ => true) = true) := by decide +kernel

/-! ### Witnesses: regions, registers, the Atelier, the platform -/

def smp : Sample := ⟨9, 1, 2⟩
/-- Region 0 locked to pin 0, as `f` leaves it. -/
def pinR (f : Region → Region) : State := { State.reset with regions := [(0, f { Region.reset with a := 0x0008000100000002, effA := 0x0008000100000002 })] }
theorem witness_RegionEvents :
    (lapsed (pinR id) 0 = false ∧ ((pinR (fun r => { r with latch := [smp] })).region 0).latch = smp :: [] ∧ ((pinR id).region 0).latch = [] ∧
      ((pinR id).region 0).spNext = []) ∧
    ((pinR id).rsrc 0 = 0 + 2 ∧ ((pinR id).region 0).stopped = false ∧ ((pinR (fun r => { r with arrivals := 5 })).region 0).arrivals ≠ 0 ∧
      ((pinR id).region 0).latch.length < 2 ∧ 2 ≤ ((pinR (fun r => { r with latch := [smp, smp] })).region 0).latch.length) ∧
    inDom (pinR id) ((pinR id).domainOf 0) 0 ∧ (pinR id).domainOf 31 ≠ (pinR id).domainOf 0 ∧
    ((pinR (fun r => { r with stopped := true })).region 0).stopped = true ∧ ((2 : BitVec 3)).toNat ≤ 2 ∧
    isPin ((slotAt 1 id).rsrc 0) = false ∧ ({ Region.reset with a := 1, state := 3 }).state = 3 ∧ isPin ((pinR id).rsrc 0) = true ∧
    ((pinR (fun r => { r with a := 10 })).rsrc 0 = 2 + 8) ∧ ((State.reset).port 23).up = true := by
  refine ⟨⟨?_, ?_, ?_, ?_⟩, ⟨?_, ?_, ?_, ?_, ?_⟩, ⟨?_, ?_, ?_⟩, ?_, ?_, ?_, ?_, ?_, ?_, ?_, ?_⟩
  all_goals decide +kernel
theorem witness_RegionEvents_more :
    ((pinR (fun r => { r with spNext := [(3, 7, 8, 9)] })).region 0).spNext.getLast? = some (3, 7, 8, 9) ∧
    ((pinR (fun r => { r with missing := 3 })).region 0).missing = 3 ∧ ((pinR id).region 0).state ≠ 3 ∧ (pinR (fun r => { r with a := 10, effA := 10 })).port 2 ≠ { Port.reset with up := false } := by
  decide +kernel
def rcA : Word := 0x000800019C400001
def rcB : Word := BitVec.ofNat 64 (vrefFor 1250 * 2 ^ 32 + 3 * vrefFor 1250 * 2 ^ 48)
/-- A queue of eight entries with two in it, and one enabled and not empty. -/
def que (z : Queue) : State := { State.reset with queues := [(63, z)] }
def q2 : Queue := { base := 0, cfg := 3, tail := 1, head := 7 }
theorem witness_RegisterWrites :
    (State.reset.regionUsed 31 = false ∧ rcfgaOk rcA = true ∧ rcfgPair rcA (State.reset.region 31).b = true ∧ rcfgaOk 7 = false ∧ rcfgbOk rcB = true ∧
      rcfgPair rcA rcB = true ∧ rcfgbOk 0 = false) ∧
    ((ph Domain.reset).regionUsed 0 = true ∧ rcfgPair rcA ((ph Domain.reset).region 0).b = true ∧ srcOf (0x0008000105000002 : Word) ≠ (ph Domain.reset).rsrc 0 ∧
      rcfgaOk 0x0008000105000002 = true ∧ rcfgPair 0x0008000105000002 ((ph Domain.reset).region 0).b = true) ∧
    ((writeXcfg 15 0x80010101 (xing 0)).1 = 1 ∧ (writeXcfg 0 0x80010101 (xing 0)).1 = 0) ∧
    ((0x35 : Word).toNat < 2 ^ 6 ∧ (0x35 : Word).getLsbD 3 = false ∧ (0x35 : Word).toNat % 8 < 6 ∧ ∀ g < 32, State.reset.rsrc g ≠ 3 + 2) ∧
    (gOk 0x80 = true ∧ queueBusy (State.reset.queue 63) = false ∧ queueBusy ((que { q2 with cfg := 0x1003 }).queue 63) = true) ∧
    ((0x1310 : Word).toNat < 2 ^ 16 ∧ (0x1310 : Word).getLsbD 11 = false ∧ (0x1310 : Word).extractLsb' 5 3 = 0 ∧ ((0x1310 : Word).extractLsb' 0 5).toNat = 16 ∧
      (0x1310 : Word).getLsbD 14 = false ∧ (0x1310 : Word).extractLsb' 8 3 ≠ 7) ∧
    (((que q2).queue 63).cfg.getLsbD 15 = false ∧ used ((que q2).queue 63) 1 = 2 ∧ used ((que q2).queue 63) 6 = 7 ∧ 2 ^ 16 ≤ (0x10000 : Word).toNat) ∧
    (∀ z ∈ State.reset.sittings, z.task.q % 64 ≠ 63) := by
  refine ⟨⟨?_, ?_, ?_, ?_, ?_, ?_, ?_⟩, ⟨?_, ?_, ?_, ?_, ?_⟩, ⟨?_, ?_⟩, ⟨?_, ?_, ?_, ?_⟩, ⟨?_, ?_, ?_⟩, ⟨?_, ?_, ?_, ?_, ?_, ?_⟩, ⟨?_, ?_, ?_, ?_⟩, ?_⟩
  all_goals decide +kernel
theorem witness_RegisterWrites_held :
    queueBusy ((que { q2 with cfg := 0x1003 }).queue 63) = true ∧ (0x1310 : Word).getLsbD 15 = false ∧
    (let s := { ph Domain.reset with regions := [(0, { Region.reset with a := rcA })] }
     let v : Word := 0x001000029C400001
     s.regionUsed 0 = true ∧ s.rsrc 0 = 1 ∧ rcfgaOk v = true ∧ rcfgPair v (s.region 0).b = true ∧ srcOf v = 1 ∧ floorOf v = floorOf (s.region 0).a) := by decide +kernel

/-- A record for one core at 8 / 1 of the house reference, with its image at host address 0x1000, its parameters at 0x2000 and its completion
record at 0x3000; the image has no section and halts every brush. -/
def bytes (n v : Nat) : List Byte := (List.range n).map (fun i => BitVec.ofNat 8 (v / 256 ^ i))
def gh (a : Nat) : Nat := 2 ^ 60 + a
def rec1 : List Byte := bytes 128 (7 + 1 * 256 ^ 0xD + 8 * 256 ^ 0x10 + 1 * 256 ^ 0x12 + 1 * 256 ^ 0x14 + 1 * 256 ^ 0x15 + 1 * 256 ^ 0x16 +
  gh 0x1000 * 256 ^ 0x18 + gh 0x2000 * 256 ^ 0x20 + gh 0x3000 * 256 ^ 0x60)
def img1 : Nat := 0x38495A41 + 256 ^ 4 + 1 * 256 ^ 8 + 8 * 256 ^ 0xA + 1 * 256 ^ 0xC + (2 ^ 64 - 1) * 256 ^ 0x18 + 16 * 256 ^ 0x20
def tk : Task := ⟨0, rec1, none, 0, 0, true, true⟩
/-- The Atelier with that record in queue 0, its image as given, and panel 0 up. -/
def atl (img : Nat) : State :=
  { State.reset with
    stage := 3, panels := [0], queues := [(0, { Queue.reset with cfg := 0x1003, tail := 1 })], windows := [(0, ⟨0, 16, true, true⟩)],
    hostMem := wrBytes (wrBytes [] 0x1000 img 64) 0 (leBytes rec1 0 128) 128 }
def atq (img : Nat) : State := { atl img with tasks := [tk] }
theorem witness_AtelierEvents_records :
    canPull State.reset 0 = false ∧ canPull (atl img1) 0 = true ∧ complOk (atl img1) tk = true ∧
    recordOk (atl img1) ⟨0, rec1, none, 0, 0, false, true⟩ (((atl img1).queue 0).cfg.extractLsb' 8 3).toNat = true ∧
    complOk { atl img1 with windows := [] } tk = false := by decide +kernel
/-- What a check of a task comes to. -/
def rej (e : Except Rej (Adm × List (Bool × Nat))) : Option Rej := match e with | .ok _ => none | .error r => some r
theorem witness_AtelierEvents_admission :
    (atq img1).draining = false ∧ 2 ≤ (atq img1).stage ∧ (atq img1).off = false ∧ turns (atq img1) = [(0, .inr tk)] ∧ tk.q < 64 ∧
    rej (checkTask (atq 0) tk) = some ⟨4, 0, 0, true⟩ ∧ turns (atq 0) = [(0, .inr tk)] ∧
    (match checkTask (atq img1) tk with
      | .ok (a, ps) => a.members = [0] ∧ pinsBad (atq img1).pinTab ps = none ∧ mget 0 a.vt 0 + a.hf 0x24 4 ≤ 376832 ∧ placeable (atq img1) a.members a.pairs 1 8 1 = true
      | .error _ => False) ∧ tk.f 0x58 4 = 0 := by
  refine ⟨?_, ?_, ?_, ?_, ?_, ?_, ?_, ?_, ?_⟩
  case refine_8 =>
    cases h : checkTask (atq img1) tk with
    | ok x =>
      have k : (match checkTask (atq img1) tk with
        | .ok x => decide (x.1.members = [0]) && decide (pinsBad (atq img1).pinTab x.2 = none) && decide (mget 0 x.1.vt 0 + x.1.hf 0x24 4 ≤ 376832) &&
          placeable (atq img1) x.1.members x.1.pairs 1 8 1
        | .error _ => false) = true := by decide +kernel
      rw [h] at k
      simp only [Bool.and_eq_true, decide_eq_true_eq] at k
      exact ⟨k.1.1.1, k.1.1.2, k.1.2, k.2⟩
    | error r =>
      have k : (match checkTask (atq img1) tk with | .ok _ => true | .error _ => false) = true := by decide +kernel
      rw [h] at k; cases k
  all_goals decide +kernel
theorem witness_AtelierEvents_cores : ∀ z ∈ (atq img1).sittings, 4096 ∉ z.cores := by decide +kernel
/-- A sitting that is done: launched, with every brush halted and its cores' accesses performed. -/
def done1 (sig : Nat) : Sitting := { sit [0] with task := { tk with rec_ := lset rec1 0x4F (BitVec.ofNat 8 (sig / 2 ^ 56)) } }
theorem witness_AtelierEvents_others :
    (({ atl img1 with overflow := [(0, tk)] }).overflow.find? (fun e => mayEnter { atl img1 with overflow := [(0, tk)] } e.2) = some (0, tk)) ∧
    (∀ sig ∈ [0, 2 ^ 63], ({ ph Domain.reset (done1 sig) with here := 0 }).sittings.find? (fun y => y.member.contains 0 && taskDone (ph Domain.reset (done1 sig)) y)
      = some (done1 sig) ∧ (done1 sig).status = none ∧ gSpace (done1 sig).task.compl = 1 ∧ (done1 sig).task.f 0x48 8 = sig) ∧
    mget 0 (atl img1).maint 0 < 2 ∧ (atl img1).sittingOf 0 = none ∧ (atl img1).serving = true ∧ panelOf 0 ∈ (atl img1).panels ∧
    (let s := { atl img1 with maint := [(0, 2)], now := 2 }
     2 ≤ mget 0 s.maint 0 ∧ mget 0 s.maint 0 ≤ s.now ∧ (at_ s).glitch = 0) := by decide +kernel
/-- The forward error correction of R354 is a free value, so that both of its outcomes are met by its cases. -/
theorem witness_PlatformEvents :
    (0x13 ≤ (0x13 : BitVec 8).toNat ∧ (0x16 : BitVec 8).toNat ≤ 0x16) ∧
    ((State.reset.port 23).up = true ∧ (List.replicate 256 (0 : BitVec 8)).length = 256 ∧ ∃ f ok, Config.fec (List.replicate 256 0) = (f, ok) ∧ (ok = true ∨ ok = false)) ∧
    ((lset (lset (lset [true, true, true, true] 0 false) 1 false) 2 false).count true < 2) ∧
    ((ph Domain.reset).rsrc 0 = 1 ∧ 7 * qOf ((ph Domain.reset).region 0).a ≤ pOf rcA * 1 ∧
      let s := { State.reset with regions := [(0, { Region.reset with a := rcA })] }
      s.rsrc 0 = 1 ∧ 7 * qOf (s.region 0).a ≤ pOf (s.region 0).a * 1 ∧ pOf (s.region 0).a * 1 ≤ 8 * qOf (s.region 0).a) := by
  refine ⟨?_, ⟨?_, ?_, ?_⟩, ?_, ?_⟩
  case refine_4 => exact ⟨_, _, rfl, by cases (Config.fec (List.replicate 256 0)).2 <;> simp⟩
  all_goals decide +kernel
/-- A signature's verification is a free value: both cases are covered. -/
theorem witness_StartAndSecurityEvents :
    (State.reset.off = false ∧ State.reset.held = 0 ∧ State.reset.stage = 0 ∧ { State.reset with stage := 1 }.stage = 1 ∧ { State.reset with stage := 2 }.stage = 2) ∧
    (∀ fw : Signed, verifies fw.body fw.sig = true ∨ verifies fw.body fw.sig = false) ∧ { State.reset with held := 1 }.held = 1 ∧
    { State.reset with held := 2 }.held = 2 ∧
    (∃ p ∈ (atl img1).panels, p ∉ (atl img1).asleep ∧ ∀ z ∈ (atl img1).sittings, ∀ c ∈ z.cores, panelOf c ≠ p) ∧
    (∃ z ∈ ({ atl img1 with sittings := [sit [0]] }).sittings, ∃ c ∈ z.cores, panelOf c = 0) ∧ 0 ∈ { atl img1 with asleep := [0] }.asleep ∧
    (∀ z ∈ (atl img1).sittings, z.saved = true) ∧ (∃ z ∈ ({ atl img1 with sittings := [sit [0]] }).sittings, z.saved = false) ∧ { State.reset with off := true }.off = true ∧
    (State.reset.security = 0 ∧ (2 : Nat) ≤ 2 ∧ { State.reset with security := 2 }.security ≠ 0) ∧
    (∃ k : Token, k.device = State.reset.device ∧ k.nonce = State.reset.nonce ∧ State.reset.house ≤ k.expiry ∧ k.state = 2 ∧
      { k with device := 1 }.device ≠ State.reset.device) := by
  refine ⟨?_, fun fw => ?_, ?_, ?_, ?_, ?_, ?_, ?_, ?_, ?_, ?_, ⟨⟨0, 0, 2, 9, ⟨[], []⟩⟩, ?_⟩⟩
  case refine_2 => cases verifies fw.body fw.sig <;> simp
  all_goals decide +kernel

/-! ### Witnesses: further clauses -/

/-- The slots of brush 1 from cycle 2 on, of which it has taken 5. -/
theorem witness_ScalarAtomics_slots :
    let x : Core := { Core.reset with k0 := 0 }.setBrush 1 { Brush.reset with flights := [{ dn 0x380 (some (.ps 19)) with slots := [(5, 0)] }] }
    (1 : Nat) < 4 ∧ x.k0 ≤ 2 ∧ freeSlots x 1 2 2 = [9, 13] ∧ ¬ openSlot x 1 2 5 := by
  refine ⟨?_, ?_, ?_, fun h => ?_⟩
  case refine_4 => exact h.2.2 { dn 0x380 (some (.ps 19)) with slots := [(5, 0)] } (by decide +kernel) (5, 0) (by decide +kernel) rfl
  all_goals decide +kernel
/-- The first job is a cycle's beginning, with a sync mask or a register write of brush 0 to come. -/
def beg (f : Core → Core) (g : Brush → Brush := id) : State := { st f g with busy := false, agenda := [.beginCycle 0] }
theorem witness_CoreControl_next :
    beginsNext (beg (fun x => { x with syncmWr := some 9 })) [] ∧ (beg (fun x => { x with syncmWr := some 9 })).mine.syncmWr = some 9 := by
  unfold beginsNext; decide +kernel
theorem witness_CountersAndRegisters_next :
    ∀ e ∈ [(3, 31), (4, 2), (16, 9), (23, 0xFFFFFFFFFFFF), (32, 0x3FFF), (34, 0xFC0000000000), (35, 0x100000000), (36, 0x4000400040004000)],
    let s := beg id (fun y => { y with regWr := some e })
    beginsNext s [] ∧ s.cur.2 < 4 ∧ s.me.regWr = some e ∧ (∀ b < 4, b ≠ s.cur.2 → (s.mine.brush b).regWr = none) ∧ s.mine.syncmWr = none ∧
    mayWrite s e.1 e.2 := by
  unfold beginsNext mayWrite
  intro e he
  simp only [List.mem_cons, List.mem_nil_iff, or_false] at he
  rcases he with rfl | rfl | rfl | rfl | rfl | rfl | rfl | rfl
  all_goals (refine ⟨⟨?_, ?_, ?_, ?_, ?_⟩, ?_, ?_, ?_, ?_, ?_⟩ <;> decide +kernel)
theorem witness_VectorMoves_end :
    let s := { st (fun x => { x with vwr := [(767, v0 5), (767, v0 6), (0, v0 7)] }) with busy := false, agenda := [.endCycle 0] }
    s.fatal = false ∧ s.busy = false ∧ s.agenda = .endCycle s.cur.1 :: [] ∧ (s.mine.vwr.filter (fun e => e.1 == 767)).getLast? = some (767, v0 6) := by
  decide +kernel
/-- A bundle of one move of s1 that a parity error strikes. -/
theorem witness_BundlesTakeEffectAtOnce_parity :
    let s := gd.modCore 0 (fun x => { x with glitch := 3 })
    let b : Bundle := ⟨false, 0, false, [⟨false, 0, 1, 2⟩, ⟨false, 0, 2, 1⟩], [], none, []⟩
    passes b s ∧ onlyS b ∧ s.mine.glitch = 3 ∧ gd.mine.glitch ≠ 3 ∧ b.sm = ⟨false, 0, 1, 2⟩ :: [⟨false, 0, 2, 1⟩] ∧ guardBit s.me ⟨false, 0, 1, 2⟩ = true ∧
    guardBit s.me ⟨false, 0, 2, 1⟩ = true ∧ ∀ n ∈ b.sm, 0 < n.dst.toNat ∧ n.dst.toNat < 0x40 := by
  refine ⟨passes_of ?_, ⟨rfl, rfl⟩, ?_, ?_, ?_, ?_, ?_, ?_⟩
  all_goals decide +kernel
theorem witness_SystemTriggers_slots :
    let s := sys2.modCore 0 (fun x => { x with brushes := List.replicate 4 Brush.reset })
    (s.core 0).ecc = [] ∧ s.pairOf 0 = none ∧ (s.core 0).vaultP = [] ∧ (s.core 0).brushes.length = 4 ∧
    (let w (k m : Nat) : Nat := rdBytes (s.core 0).vault (0x5C000000 + 0x500000 * 3 + k) m
     w 0x18 8 % 2 ^ 17 + w 0x18 8 / 2 ^ 32 % 2 ^ 17 ≤ SEGSP_SIZE { s.core 0 with segsp := BitVec.ofNat 64 (w 0x50 8) } ∧ w 0 8 % 2 = 1) := by
  decide +kernel
/-- A vmxq that delivers its scales to VX.ys as well. -/
theorem witness_ResultsComplete_scales :
    let f : Flight := { dn 0xB0A (some (.vs 15)) with wys := true, ys := 0x7F7F }
    let s := ev id [f]
    (at_ s).glitch ≠ 1 ∧ (∀ b < 4, ∀ f ∈ ((at_ s).brush b).flights, ∀ g ∈ ((at_ s).brush b).flights, f.seq = g.seq → f = g) ∧
    f ∈ ((at_ s).brush 0).flights ∧ ready s f ∧ f.wys = true ∧ ∀ j < 4, ∀ g, delivered s j g → g.wys = true ∨ g.dst = some (.vs 16) → g = f := by
  refine ⟨?_, ?_, ?_, ?_, ?_, fun j hj g hg _ => ?_⟩
  case refine_4 => unfold ready; decide +kernel
  case refine_6 =>
    have h : ∀ j < 4, ∀ g ∈ ((at_ (ev id [{ dn 0xB0A (some (.vs 15)) with wys := true, ys := 0x7F7F }])).brush j).flights,
      g = { dn 0xB0A (some (.vs 15)) with wys := true, ys := 0x7F7F } := by decide +kernel
    exact h j hj g hg.1
  all_goals decide +kernel
/-- Core 0's reads are the next job; brush 0 has one access under way, due in cycle 0, and the scratchpad and the vault hold bytes. -/
def rd (f : Flight) : State :=
  { ev (fun x => { x with mem := [(0x40, 9)], memP := [(8, true)], vault := [(0x80, 7)], code := [(0, ⟨0x11223344, true⟩)] }) [f] with
    busy := false, agenda := [.banks 0], regions := [(0, { Region.reset with a := 1 })] }
/-- An access of `n` bytes to lane 0 of a result. -/
def acc (c : Nat) (sp : Space) (a n : Nat) : Flight := { dn c none with pieces := [⟨0, sp, a, n, 0, 0⟩] }
theorem witness_AccessesPerformed_loads :
    (∀ sp ∈ [(Space.scratch, 0x40), (.vault, 0x80), (.view, 0), (.stream, 8), (.stream, 0x8000)], ∀ r ∈ [(0x2E0, 1), (0x2E2, 2), (0x2E6, 8)],
      let f := acc r.1 sp.1 sp.2 r.2
      banksNext (rd f) [] ∧ Alone (rd f) 0 f ∧ f.store = false ∧ f.vsp = false ∧ now_ (rd f) = 0 ∧ sp.1 ≠ .window ∧ loadRows.any (fun q => codeOf (q.1 (im 0)) == r.1 && q.2.1 == r.2) = true) ∧
    (∀ c ∈ [0x3B0, 0x3B4, 0x3B6], ∀ sp ∈ [(Space.scratch, 0x40), (.vault, 0x80)],
      let f := { acc c sp.1 sp.2 64 with pieces := [⟨0, sp.1, sp.2, 64, 0, 0⟩, ⟨1, sp.1, sp.2 + 64, 64, 64, 16⟩] }
      banksNext (rd f) [] ∧ Alone (rd f) 0 f ∧ (∀ q ∈ f.pieces, q.sp ≠ .window) ∧ duePieces (rd f) f ≠ []) := by
  unfold banksNext Alone; decide +kernel
theorem witness_AccessesPerformed_pieces :
    wellPieced { acc 0x3B6 .scratch 0x40 64 with pieces := [⟨0, .scratch, 0x40, 64, 0, 0⟩, ⟨1, .scratch, 0x80, 64, 64, 16⟩] } := by
  unfold wellPieced; decide +kernel
/-- The same accesses as stores. -/
def sto (c : Nat) (sp : Space) (a n : Nat) : Flight := { acc c sp a n with store := true, src := v0 77 }
theorem witness_AccessesPerformed_stores :
    (∀ c ∈ [0x3B1, 0x3B5], ∀ sp ∈ [(Space.scratch, 0x40), (.vault, 0x80)], let f := sto c sp.1 sp.2 64
      Alone (ev id [f]) 0 f ∧ f.store = true ∧ f.vsp = false ∧ duePieces (ev id [f]) f = [⟨0, sp.1, sp.2, 64, 0, 0⟩]) ∧
    (∀ c ∈ [(0x2E7, 1), (0x2EA, 8)], let f := sto c.1 .view 0x3FF8 c.2; Alone (ev id [f]) 0 f ∧ 0x2E7 ≤ f.code ∧ f.code ≤ 0x2EA ∧ now_ (ev id [f]) = 0) ∧
    (let f := sto 0x2EA .stream 0x9FF8 8
     let s := { ev id [f] with xings := [(0, { Crossing.reset with cfg := 0x80010101, frames := [[], []] })], regions := (xing 0).regions }
     Alone s 0 f ∧ isIdxCode f = false ∧ now_ s = 0 ∧ 0x8000 ≤ 0x9FF8 ∧ 0x9FF8 % 0x1000 + 8 ≤ 0x1000 ∧
     s.crossing (regionOf s.here) ((0x9FF8 - 0x8000) / 0x1000) = some (0, true) ∧ (s.xing 0).openI < (s.xing 0).frames.length) ∧
    (∀ c ∈ [(0, 0x9C0), (2, 0x9C1), (5, 0x9C2), (4, 0x9C3)],
      let f := { oneAtom with code := c.2, vsp := true, slots := [(0, 63), (4, 5)], dst := some (.vs 22), idx := v0 (2 ^ 2016 * 0x40) }
      Alone (ev id [f]) 0 f ∧ (atomNew 32)[c.1]?.isSome = true ∧ f.slots.filter (fun e => e.1 == now_ (ev id [f])) = [(0, 63)]) := by
  unfold Alone
  refine ⟨?_, ?_, ?_, ?_⟩
  all_goals decide +kernel
/-- A queue whose records lie in core 0's vault, waiting for a host slot. -/
def vq : State := { slotAt 12 id with sittings := [sit [0]], pulls := [0], stage := 3, queues := [(0, { Queue.reset with base := 0x100000000, cfg := 0x1003, tail := 1 })] }
theorem witness_HostVaultEvents_pulls :
    vq.pairOf vq.here = none ∧ slotKind vq vq.here (now_ vq) = some 1 ∧ vq.hostReqs.find? (fun r => vq.hostOf (r.1 / Config.vaultBytes) == vq.here) = none ∧
    vq.pulls = [0] ∧ pullSlot vq 0 = some vq.here ∧ canPull vq 0 = true := by decide +kernel
theorem witness_CoreCycleEvents_phase :
    (let s := ph exchD (sit [0]) (fun x => { x with brushes := [{ Brush.reset with run := .waiting (.phase false) }] })
     s.exch s.here = true) ∧ (ph Domain.reset).exch 0 = false ∧
    unitDone ((wt .halt).modCore 1 (fun x => { x with nbArr := [(2, 26, v0 5)] })) 0 0 4 = false ∧ unitDone (wt .halt) 0 0 4 = true := by decide +kernel
/-- Domain 0 with its sitting, the region stopped or a host line waiting or neither. -/
def bd (d : Domain) (stop : Bool := false) (f : Core → Core := id) : State :=
  { ph d (sit [0]) f with regions := [(0, { Region.reset with a := 1, stopped := stop })] }
theorem witness_PhaseEvents_boundaries :
    (∀ k ∈ [1, 2], let s := bd { exchD with closing := k }
      s.here < 4096 ∧ (s.domain s.here).closing = k ∧ s.offPend = false ∧ s.newcomers s.here = [] ∧ (∀ c ∈ steps s s.here, s.second c = false) ∧
      mayOpen s (steps s s.here) ∧ multiPart s s.here = false) ∧
    (¬ mayOpen (bd { exchD with closing := 2 } true) (steps (bd { exchD with closing := 2 } true) 0)) ∧
    (let s := bd { exchD with closing := 2 } false (fun x => { x with hbuf := [⟨1, 5, 1⟩] }); ¬ mayOpen s (steps s 0)) ∧
    (bd { exchD with closing := 2 }).wholeIn 0 = true ∧
    (let z := { sit [0] with task := { task with rec_ := lset (List.replicate 128 0) 0x16 2 } }; multiPart (ph { exchD with closing := 1 } z) 0 = true) ∧
    (∃ c ∈ steps (bd Domain.reset true) (bd Domain.reset true).here, ((bd Domain.reset true).region (regionOf c)).stopped = true) ∧
    (∀ c ∈ steps (bd Domain.reset) 0, ((bd Domain.reset).region (regionOf c)).stopped = false) ∧
    ({ bd exchD with here := 4096 }.sittingOf 0 = some (sit [0]) ∧ mayOpen (bd exchD) (sit [0]).cores ∧ ¬ mayOpen (bd exchD true) (sit [0]).cores) := by
  unfold mayOpen
  refine ⟨?_, ?_, ?_, ?_, ?_, ?_, ?_, ?_⟩
  all_goals decide +kernel
/-- A sitting placed in a domain that holds none; expiries and rollbacks. -/
theorem witness_PhaseEvents_more :
    (let z := { sit [0] with launched := false }
     let s := ph { Domain.reset with closing := 3 } z
     s.here < 4096 ∧ (s.domain s.here).closing = 3 ∧ s.offPend = false ∧ s.stepping s.here = [] ∧ s.newcomers s.here = [z] ∧ z.ckpt = 0 ∧
     z.cores ≠ [] ∧ (∀ c ∈ z.cores, s.second c = false) ∧ mayOpen s z.cores) ∧
    ((ph exchD).exch 0 = true ∧ (ph exchD).sittingOf 0 = some (sit [0]) ∧ (at_ (ph exchD)).xc.ended = false) ∧
    (let z := { sit [0] with frozen := true, status := some (8, 0) }
     (ph exchD z).sittingOf 0 = some z ∧ z.frozen = true ∧ z.status.isSome = true) ∧
    (∀ e ∈ [(2, 0, 0), (1, 2, 1)], let z := { sit [0] with snapSlot := e.1, inRow := e.2.1 }
     (ph Domain.reset z).sittingOf 0 = some z ∧ z.status = none ∧ ∀ c ∈ z.cores, ((ph Domain.reset z).core c).undoFull = false) := by
  unfold mayOpen
  refine ⟨?_, ?_, ?_, ?_⟩
  all_goals decide +kernel
theorem witness_ExchangeEvents_buffer :
    (let s := ph exchD (sit [0]) (fun x => { x with early := [slot] })
     s.exch s.here = true ∧ (at_ s).early = slot :: [] ∧ slot.tag = tagOf s s.here ∧ slot.kind = 0 ∧ slotPlace (at_ s) s.here slot = some (false, 0x40) ∧
     (at_ s).schB = []) ∧
    (let s := ph exchD (sit [0]) (fun x => { x with drains := [slot] })
     Quiet s ∧ (at_ s).drains = [slot] ∧ (mget Land.reset (at_ s).lands slot.land).target = none) ∧
    (let z := { slot with kind := 1, op := 1, ty := 0x42 }
     let s := ph exchD (sit [0]) (fun x => { x with reduces := [z] })
     (at_ s).reduces = [z] ∧ z.ready ≤ now_ s ∧ (at_ s).ecc = [] ∧ (at_ s).early = [] ∧ (at_ s).drains = [] ∧ (at_ s).rmwW = [] ∧ (at_ s).schB = [] ∧
     tyBytes z.ty = 4 ∧ z.n / tyBytes z.ty = 1) ∧
    (∀ h ∈ [0, 8], let z := { slot with kind := 2, before := 4 }
     let s := ev (fun x => { x with flagSlots := [z], wrote := some 0, landedFrom := [(1, h)] })
     (at_ s).wrote = some (now_ s) ∧ (at_ s).flagSlots = [z] ∧ (at_ s).rmwW = []) ∧
    (at_ (ev (fun x => { x with landing := [⟨0, { slot with kind := 2 }, true, none⟩] }))).wrote ≠ some 0 := by
  unfold Quiet; decide +kernel
theorem witness_ExchangeEvents_full :
    let s := tdm 0x0004 (fun x => { x with xc := { Chain.reset with ready := [{ slot with ready := 0 }] } }) (onLane slot)
    (at_ s).xc.ready.find? (fun y => decide (y.ready < now_ s)) = some { slot with ready := 0 } ∧ lanesOf (s.tdmEntry s.here) 0 ≠ [] ∧
    ∀ i ∈ lanesOf (s.tdmEntry s.here) 0, (s.passing i (posOf s.here)).isSome = true := by decide +kernel
/-- A command that started in cycle 0, alone on the core, `n` cycles later, its reads the next job. -/
def mrun (op : Nat) (f : MxF) : MtCmd := { queued (st id) op f with start := some 0 }
def mrd (q : MtCmd) (n : Nat) : State := { mtAt n (fun x => { x with mtRun := [q] }) with busy := false, agenda := [.banks 0] }
def mx8 : MxF := { mxA with scaled := true, sa := 0x200, sb := 0x210 }
def mx32 : MxF := { mxA with ta := 0x42, tb := 0x42 }
theorem witness_MatrixEvents_done :
    ∀ e ∈ [(1, mxA, 30), (1, mx32, 78), (1, { mxA with an := true }, 46), (3, mx0, 1), (4, mx0, 6), (5, mx0, 4), (6, mx0, 5), (6, { mx0 with sel := 8 }, 7), (7, mxR, 10)],
      let q := mrun e.1 e.2.1
      let s := mtAt e.2.2 (fun x => { x with mtRun := [q] })
      (at_ s).mtRun = [q] ∧ q.start = some 0 ∧ 0 + mxDone q = now_ s ∧ q.cmd.op ≠ 0 ∧ (at_ s).glitch = 0 ∧ mget 0 (at_ s).sems q.cmd.f.sig.toNat ≠ 0xFFFF := by
  decide +kernel
theorem witness_MatrixEvents_pass :
    ∀ f ∈ [mxA, mx8, mx32], (mrun 1 f).part = [] ∧ 1 ≤ f.ks.toNat ∧ mxTyped 1 f ∧ (mrun 1 f).groups.getD 0 (0, 0, 0, 0) = (0, 32, f.baddr.toNat * 64, f.sb.toNat * 64) := by
  unfold mxTyped; decide +kernel
theorem witness_MatrixEvents_reads :
    (∀ e ∈ [(mxA, 0, 0), (mx8, 1, 7), (mx32, 1, 28), (mx32, 0, 27)],
      let q := mrun 1 e.1
      let u := if e.1.ta = 0x42 then 4 else 1
      let s := mrd q (2 + 8 * u * e.2.1 + e.2.2)
      banksNext s [] ∧ MatrixAlone s q ∧ q.groups[0]? = some (0, 32, e.1.baddr.toNat * 64, e.1.sb.toNat * 64) ∧ e.2.1 < e.1.ks.toNat ∧ e.2.2 < 8 * u ∧
      now_ s = 0 + 2 + 8 * u * (e.1.ks.toNat * 0 + e.2.1) + e.2.2) ∧
    (let q := mrun 1 { mxA with an := true }
     let s := mrd q 33
     banksNext s [] ∧ MatrixAlone s q ∧ 0 < q.groups.length ∧ 1 < q.cmd.f.ks.toNat ∧ now_ s = 0 + 2 + 16 * 1 * (q.cmd.f.ks.toNat * 0 + 1) + 15) ∧
    (∀ e ∈ [(4, mx0), (6, { mx0 with sel := 8 })], let q := mrun e.1 e.2; banksNext (mrd q 3) [] ∧ MatrixAlone (mrd q 3) q ∧ now_ (mrd q 3) = 0 + 2 + 1) ∧
    (∀ k ∈ [2, 3], let q := mrun 7 { mxR with sel := k }; banksNext (mrd q 2) [] ∧ MatrixAlone (mrd q 2) q ∧ now_ (mrd q 2) = 0 + 2) := by
  unfold banksNext MatrixAlone
  refine ⟨?_, ?_, ?_, ?_⟩
  all_goals decide +kernel
theorem witness_MatrixEvents_writes :
    (let q := mrun 5 mx0
     let s := mtAt 3 (fun x => { x with mtRun := [q] })
     MatrixAlone s q ∧ now_ s = 0 + 2 + 1 ∧ q.base % 8 = 0) ∧
    (let q := mrun 7 mxR
     let s := mtAt 9 (fun x => { x with mtRun := [q] })
     MatrixAlone s q ∧ mxTyped 7 q.cmd.f ∧ now_ s = 0 + 6 + 3) := by
  unfold MatrixAlone mxTyped; decide +kernel
theorem witness_MatrixEvents_table :
    let s := mtAt 3 (fun x => { x with mtq := [mgq] })
    (at_ s).mtq = [mgq] ∧ mgq.cmd.op = 2 ∧ mgq.t + 3 = now_ s ∧ mgq.judged = false ∧ (at_ s).ecc = [] ∧
    ((List.range 1).map (fun i => rdBytes (at_ s).mem (mgq.base + mgq.cmd.f.gtab.toNat * 64 + 4 * i) 4 % 65536)).sum ≠ 32 := by decide +kernel
theorem witness_RegionEvents_sources :
    (∀ p, { State.reset with houseSrc := some p }.houseSrc = some p ∧ { State.reset with houseSrc := some p }.houseSrc ≠ none) ∧
    (let s := { pinR id with srcRate := [(2, (1, 1000))] }
     s.pinTakes 0 = true ∧ s.rsrc 0 = 0 + 2 ∧ isPin (s.rsrc 0) = true ∧ ({ s with regions := [(0, { Region.reset with a := 10, state := 3 })] }.region 0).state = 3 ∧
       isPin ({ s with regions := [(0, { Region.reset with a := 10, state := 3 })] }.rsrc 0) = false) ∧
    (let s := { pinR (fun r => { r with state := 3, effB := 2 ^ 16, cyc := 300 }) with domains := [(0, Domain.reset)] }
     lapsed s 0 = true ∧ lapsed (pinR (fun r => { r with latch := [smp] })) 0 = false) := by
  refine ⟨fun p => ⟨rfl, nofun⟩, ?_, ?_⟩
  all_goals decide +kernel
theorem witness_RegionEvents_markers :
    let s := { State.reset with stage := 1, here := 23 }
    let z := { sit [0] with task := { task with rec_ := lset (lset (List.replicate 128 0) 0x16 4) 0x70 3 } }
    (s.port s.here).up = true ∧ s.stage ≠ 0 ∧ s.off = false ∧ (s.port s.here).retrain ≤ s.now ∧ (∀ z ∈ s.sittings, z.parts ≤ 1) ∧
    { s with sittings := [z] }.sittings.find? (fun y => decide (1 < y.parts)) = some z ∧ leBytes z.task.rec_ 0x70 2 = 3 := by decide +kernel
/-- A queue of eight entries with two in it, with bits of QCFG set. -/
def qc (cfg : Word) : State := que { q2 with cfg := cfg }
theorem witness_RegisterWrites_queues :
    ((qc 3).queue 63).cfg.getLsbD 15 = false ∧ ((1 : Nat) % 8 = 1 ∧ used ((qc 3).queue 63) 0 ≤ used ((qc 3).queue 63) 1 ∧ (0 : Nat) ≠ 1) ∧
    used ((qc 3).queue 63) 7 = 0 ∧ used ((qc 3).queue 63) 6 = 7 ∧
    (((qc 0x8003).queue 63).cfg.getLsbD 15 = true ∧ (0xFFFF : Word).toNat < 2 ^ 16) ∧
    (let v : Word := 0x9003
     queueBusy ((qc 0x1003).queue 63) = true ∧ ((qc 0x1003).queue 63).cfg.getLsbD 15 = false ∧ v.getLsbD 15 = true ∧ v.toNat < 2 ^ 16 ∧ v.getLsbD 11 = false ∧
       v.extractLsb' 5 3 = 0 ∧ (v.extractLsb' 0 5).toNat = 3 ∧ v.getLsbD 14 = false ∧ v.extractLsb' 8 3 ≠ 7 ∧ queueBusy ((qc 0x9003).queue 63) = true) := by
  decide +kernel
theorem witness_RegisterWrites_reads :
    State.reset.debug ≠ 1 ∧ (4 : Nat) ≠ 8 ∧ 0x1003 % 8 ≠ 0 ∧ 0xFFF8 % 8 = 0 ∧ 0xFFF8 < 2 ^ 20 ∧ 0x1000 ≤ 0xFFF8 ∧ 0xFFF8 < 0x10000 := by decide +kernel
theorem witness_AtelierEvents_more :
    (canPull { atl img1 with here := 0 } 0 = true ∧ 0 ∉ (atl img1).pulls ∧ pullSlot (atl img1) 0 = none ∧
      (let s := { vq with pulls := [] }; canPull s s.here = true ∧ s.here ∉ s.pulls ∧ pullSlot s s.here ≠ none)) ∧
    ((atl img1).queue 0).cfg.getLsbD 15 = false ∧
    (mget 0 (atl img1).maint 0 < 2 ∧ mget 0 (atl img1).maintInt 0 = 0 ∧ mget 0 { atl img1 with maintInt := [(0, 500)] }.maintInt 0 ≠ 0 ∧
      (atl img1).sittingOf 0 = none ∧ (atl img1).serving = true ∧ panelOf 0 ∈ (atl img1).panels ∧ (ph exchD).sittingOf 0 ≠ none ∧
      (verifies Sys2Proof.Config.maintBody Sys2Proof.Config.maintSig = true ∨ verifies Sys2Proof.Config.maintBody Sys2Proof.Config.maintSig = false)) ∧
    (∀ g ∈ [(0, false), (2 ^ 32 + 77, true)], let s := { atl img1 with maint := [(0, 2)], now := 2, cores := [(0, { Core.reset with glitch := g.1 })] }
      2 ≤ mget 0 s.maint s.here ∧ mget 0 s.maint s.here ≤ s.now ∧ testsFail (at_ s) = g.2) := by
  refine ⟨?_, ?_, ⟨?_, ?_, ?_, ?_, ?_, ?_, ?_, ?_⟩, ?_⟩
  case refine_10 => cases verifies Sys2Proof.Config.maintBody Sys2Proof.Config.maintSig <;> simp
  all_goals decide +kernel
/-- A part whose links have trained, one of its ports as given. -/
def lk (p : Port) : State := { State.reset with stage := 1, ports := [(23, p)] }
theorem witness_PlatformEvents_links :
    ((lk Port.reset).port 23).up = true ∧ (lk Port.reset).stage ≠ 0 ∧ (lk Port.reset).off = false ∧ 8 ≤ ((lk { Port.reset with replays := 8 }).port 23).replays ∧
    (lk Port.reset).linkSends 23 = true ∧ (lk Port.reset).linkUp 23 = true ∧ (lk { Port.reset with retrain := 5 }).linkSends 23 = false ∧
    (let p : Port := { Port.reset with queue := [(1, 2, 1, 0, [])], credit := 51 }
     p.queue ≠ [] ∧ p.credit + 7 * ((p.lanes.count true : Nat) : Int) = 79 ∧ { p with credit := 52 }.credit + 7 * ((p.lanes.count true : Nat) : Int) = 80 ∧ p.again = []) ∧
    { Port.reset with again := [[]], credit := 52 }.again = [] :: [] := by decide +kernel
/-- A region at 8 / 1 of the house reference, whose ratio has been lowered from that or not, and what is measured of the part. -/
def pw (w : Nat × Nat × Nat) (cool b : Nat) (a : Word := rcA) : State :=
  { State.reset with regions := [(0, { Region.reset with a := a })], power := w, coolAt := cool, capBase := [(0, b)], now := 12500005 }
theorem witness_PlatformEvents_power :
    (State.reset.fw = none ∧ { State.reset with fw := some ⟨[], []⟩ }.fw = some ⟨[], []⟩ ∧ (verifies [] [] = true ∨ verifies [] [] = false)) ∧
    (95 : Nat) ≤ 95 ∧
    (∀ w ∈ [(4501, 0, 0), (0, 8501, 0), (0, 0, 91)], let s := pw w 0 0
      (s.powerLimit < s.power.1 ∨ 8500 < s.power.2.1 ∨ 90 < s.power.2.2) ∧ s.rsrc 0 = 1 ∧ 7 * qOf (s.region 0).a ≤ pOf (s.region 0).a * 1 ∧
      (∀ z ∈ s.sittings, z.saved = true) ∧ ∃ z ∈ { s with sittings := [sit [0]] }.sittings, z.saved = false) ∧
    (let s := pw (4500, 8500, 90) 5 (8 * 65536 + 1) (BitVec.ofNat 16 7 ++ BitVec.ofNat 16 1 ++ rcA.extractLsb' 0 32)
     ¬ (s.powerLimit < s.power.1 ∨ 8500 < s.power.2.1 ∨ 90 < s.power.2.2) ∧ s.coolAt + 12500000 ≤ s.now ∧ s.rsrc 0 = 1 ∧
     pOf (s.region 0).a * 1 ≤ 8 * qOf (s.region 0).a ∧ mget 0 s.capBase 0 ≠ 0 ∧ 8 * (mget 0 s.capBase 0 % 65536) ≤ mget 0 s.capBase 0 / 65536 * 1 ∧
     (pw (0, 0, 0) 6 0).now < (pw (0, 0, 0) 6 0).coolAt + 12500000) := by
  refine ⟨⟨?_, ?_, ?_⟩, ?_, ?_, ?_⟩
  case refine_3 => cases verifies [] [] <;> simp
  all_goals decide +kernel
theorem witness_StartAndSecurityEvents_stages :
    (∀ k ≤ 2, let s := { State.reset with fw := some ⟨[], []⟩, stage := k }; s.off = false ∧ s.held = 0 ∧ s.fw ≠ none ∧ s.stage = k) ∧
    State.reset.fw = none ∧ ({ atl img1 with here := 0, asleep := [0] }.here ∈ { atl img1 with asleep := [0] }.asleep) := by decide +kernel
/-- A token signed over its own fields; whether the signature verifies is a free value. -/
theorem witness_StartAndSecurityEvents_token :
    let k : Token := ⟨State.reset.device, State.reset.nonce, 2, 9, ⟨Sys2Proof.Config.tokenBody State.reset.device State.reset.nonce 2 9, []⟩⟩
    let s := { State.reset with nonces := 1 }
    (verifies k.signed.body k.signed.sig = true ∨ verifies k.signed.body k.signed.sig = false) ∧
    Sys2Proof.Config.tokenBody k.device k.nonce k.state k.expiry = k.signed.body ∧ s.nonces ≠ 0 ∧ k.device = s.device ∧ k.nonce = s.nonce ∧
    s.house ≤ k.expiry ∧ (k.state = 1 ∨ k.state = 2) ∧ s.off = false ∧ (∀ z ∈ s.sittings, z.saved = true) ∧ State.reset.nonces = 0 ∧
    (∃ z ∈ { s with sittings := [sit [0]] }.sittings, z.saved = false) ∧ { s with house := 10 }.house > k.expiry := by
  refine ⟨?_, rfl, ?_, rfl, rfl, ?_, ?_, ?_, ?_, ?_, ?_, ?_⟩
  case refine_1 => cases verifies _ _ <;> simp
  all_goals decide +kernel
theorem witness_StartAndSecurityEvents_debug :
    debugMay { atl img1 with debug := 2 } 0 3 = true ∧ State.reset.debug ≠ 2 ∧
    (let s := { atl img1 with debug := 2, security := 1, cores := [(0, Core.reset.setBrush 0 { Brush.reset with sys := true })] }
     s.security ≠ 0 ∧ (s.brush 0 0).sys = true) ∧
    (State.reset.security = 0 ∧ (2 : Nat) ≤ 2 ∧ State.reset.off = false ∧ { State.reset with security := 1 }.security ≠ 0) := by decide +kernel

/-! ### Terms the well-formedness check refuses -/

/-- A bundle of the moves and literals given, and one with a V-group. -/
def sb (sm : List MoveWord) (lits : List (BitVec 32) := []) : Bundle := ⟨false, 0, false, sm, [], none, lits⟩
def vb (vm : List MoveWord) : Bundle := ⟨false, 0, false, [], vm, none, []⟩
/-- An S-move of scalar register `n`. -/
def mv (n d : Nat) : MoveWord := ⟨false, 0, BitVec.ofNat 12 n, BitVec.ofNat 12 d⟩
/-- R197: at most six S-moves, a V-group of three, at most two literals. -/
theorem test_wf_counts :
    bundleWF (sb ((List.range 7).map (fun n => mv n (n + 1)))) = false ∧ bundleWF (vb [mv 1 2, mv 2 3]) = false ∧
    bundleWF (sb [mv 0x3FF 1, mv 2 3] [0, 0, 0]) = false ∧ bundleWF (sb [mv 1 2, mv 2 3]) = true := by decide +kernel
/-- R206, reasons 0, 10, 11 and 13, and the move each names. -/
theorem test_wf_moves :
    bundleFault (sb [mv 1 2, mv 0x0CC 3]) = some (illegal 0 0x0CC 2) ∧ bundleFault (sb [mv 1 0x0C0, mv 2 3]) = some (illegal 0 0x0C0 1) ∧
    bundleFault (sb [mv 1 2, mv 3 2]) = some (illegal 10 2 2) ∧ bundleFault (sb [mv 1 0x200, mv 3 0x201]) = some (illegal 11 0x201 2) ∧
    bundleFault (sb [mv 0x3FE 2, mv 1 3]) = some (illegal 13 0x3FE 1) ∧ bundleFault (sb [mv 0x3FD 2, mv 1 3] [0]) = some (illegal 13 0x3FD 1) ∧
    (∀ b ∈ [sb [mv 1 2, mv 0x0CC 3], sb [mv 1 2, mv 3 2], sb [mv 1 0x200, mv 3 0x201], sb [mv 0x3FE 2, mv 1 3]],
      wellFormed (.bundleIssue b) = false) := by decide +kernel
/-- A bundle that is a row of its own is not a `bundleIssue`. -/
theorem test_wf_solo :
    wellFormed (.bundleIssue (sb [mv 1 2])) = false ∧ wellFormed (.bundleIssue (sb [])) = false ∧
    wellFormed (.bundleIssue (vb [mv 1 0x800, nullMove, nullMove])) = false ∧ wellFormed (.bundleIssue (mxBundle 3 mx0)) = false := by decide +kernel
/-- A move into a trigger is that trigger's row; a source no rule assigns; the rows that share a code. -/
theorem test_wf_triggers :
    wellFormed (.move false (rg 1) 0x200) = false ∧ wellFormed (.move false (rg 1) 0x0C0) = false ∧ wellFormed (.add ⟨false, 0, 0x0CC⟩ false) = false ∧
    wellFormed (.loopPop (im 3)) = false ∧ wellFormed (.sys (im 1)) = false ∧ wellFormed (.taskService (im 2)) = false ∧
    wellFormed (.xabAbort (im 1)) = false ∧ wellFormed (.xabDisarm (im 0)) = false ∧ wellFormed (.vadd (rg 0x3FE) false) = false := by decide +kernel
/-- R206, reason 12: a field that is not used, a reserved mode; reason 26: no K-steps, a selector past the last (R281, R282). -/
theorem test_wf_matrix :
    wellFormed (.mzero { mx0 with ks := 1 }) = false ∧ wellFormed (.mma { mxA with mode := 2 }) = false ∧ wellFormed (.mma { mxA with gcnt := 1 }) = false ∧
    wellFormed (.mma { mxA with ks := 0 }) = false ∧ wellFormed (.mcmb { mx0 with sel := 9 }) = false ∧ wellFormed (.mret { mxR with sel := 4 }) = false ∧
    mxFault ⟨8, mx0, 0, 0⟩ = some (12, 0) ∧ mxFault ⟨3, mx0, 0, 1⟩ = some (12, 5) := by decide +kernel

/-! ### Words written out in the spec -/

def dec (ws : List (BitVec 32)) : Option (Instr × Nat) := (decode ws).toOption
/-- The encodings stated beside R148, R164, R166, R169, R248, R285 and R319: one S-move under header 0x2000_0000. -/
theorem test_decode_control :
    dec [0x20000000, 0x00808332] = some (.cadst (im 8), 2) ∧ dec [0x20000000, 0x00800331] = some (.phend (im 0), 2) ∧
    dec [0x20000000, 0x00801331] = some (.phend (im 1), 2) ∧ dec [0x20000000, 0x0080332F] = some (.syncm (im 3), 2) ∧
    dec [0x20000000, 0x00815330] = some (.own (im 0x15), 2) ∧ dec [0x20000000, 0x00800329] = some (.tret (im 0), 2) ∧
    dec [0x20000000, 0x03828320] = some (.bra ⟨false, 3, 0x828⟩, 2) ∧ dec [0x20000000, 0x000C3043] = some (.move false ⟨false, 0, 0x0C3⟩ 0x043, 2) ∧
    dec [0x20000000, 0x0080032D] = some (.waitl (im 0), 2) ∧ dec [0x20000000, 0x0080033C] = some (.rrel (im 0), 2) := by decide +kernel
/-- The examples of R237, R247 and R15: bundles of several moves. -/
theorem test_decode_bundles :
    dec [0x40000000, 0x0000A10C, 0x008642A2] = some (.bundleIssue (sb [mv 10 0x10C, mv 0x864 0x2A2]), 3) ∧
    dec [0x40000000, 0x00802114, 0x00804336] = some (.bundleIssue (sb [mv 0x802 0x114, mv 0x804 0x336]), 3) ∧
    dec [0x44300000, 0x000042E6, 0x003FD015, 0, 1] = some (.bundleIssue ⟨false, 3, false, [mv 4 0x2E6, mv 0x3FD 21], [], none, [0, 1]⟩, 5) ∧
    dec [0x31200000, 0x07003200, 0x8900C028, 0x80000000, 0x80000000] =
      some (.bundleIssue ⟨true, 2, false, [⟨false, 7, 3, 0x200⟩], [⟨true, 9, 0xC, 0x28⟩, nullMove, nullMove], none, []⟩, 5) ∧
    dec [0x22000000, 0x003FE3C0, 0x00000720] = some (.bundleIssue (sb [mv 0x3FE 0x3C0] [0x720]), 3) ∧
    dec [0x64000000, 0x009C0120, 0x003FE121, 0x003FF3D0, 0x2000, 0x403] =
      some (.bundleIssue (sb [mv 0x9C0 0x120, mv 0x3FE 0x121, mv 0x3FF 0x3D0] [0x2000, 0x403]), 6) := by decide +kernel
/-- The vector examples: a neighbour send, a vector atomic, an MX restore, a strided load. -/
theorem test_decode_vector :
    dec [0x10000000, 0x00005410, 0x008009D1, 0x80000000] = some (.bundleIssue (vb [mv 5 0x410, mv 0x800 0x9D1, nullMove]), 4) ∧
    dec [0x10000000, 0x0001540F, 0x000149C1, 0x80000000] = some (.bundleIssue (vb [mv 0x15 0x40F, mv 0x14 0x9C1, nullMove]), 4) ∧
    dec [0x10000000, 0x003C4408, 0x003C5409, 0x0081E903] = some (.bundleIssue (vb [mv 0x3C4 0x408, mv 0x3C5 0x409, mv 0x81E 0x903]), 4) ∧
    dec [0x30000000, 0x000063B0, 0x0038740D, 0x80000000, 0x80000000] =
      some (.bundleIssue { sb [mv 6 0x3B0] with vm := [mv 0x387 0x40D, nullMove, nullMove] }, 5) := by decide +kernel
/-- R207's example and the matrix words of K54, K64, K65, K67 and K68. -/
theorem test_decode_matrix :
    dec [0x08000000, 0x01A4A440, 0x01000200, 0x00400040, 0x04000000, 0, 0x00013000] =
      some (.mma { mx0 with ta := 0xA4, tb := 0xA4, acc := 2, aaddr := 0x100, baddr := 0x200, astr := 0x40, bstr := 0x40, ks := 4, wmask := 1, sig := 3 }, 7) ∧
    dec [0x08000000, 0x07420000, 0x04000000, 0, 0, 0, 0x00203100] = some (.mret { mx0 with ta := 0x42, aaddr := 0x400, wmask := 0x20, sig := 3, sel := 1 }, 7) ∧
    dec [0x08000000, 0x05000000, 0x0A000000, 0, 0, 0, 0] = some (.msave { mx0 with aaddr := 0xA00 }, 7) ∧
    dec [0x08000000, 0x06000000, 0x0C000000, 0, 0, 0, 0x00000800] = some (.mcmb { mx0 with aaddr := 0xC00, sel := 8 }, 7) ∧
    dec [0x08000000, 0x04000020, 0x0C800000, 0, 0, 0, 0] = some (.mld { mx0 with acc := 1, aaddr := 0xC80 }, 7) ∧
    dec [0x08000000, 0x06000000, 0, 0, 0, 0, 0x00000100] = some (.mcmb { mx0 with sel := 1 }, 7) := by decide +kernel
/-- Codes counted off the tables of R225 and R228, one for each family that no example shows; and words that end early. -/
theorem test_decode_families :
    dec [0x20000000, 0x00001284] = some (.div (rg 1), 2) ∧ dec [0x20000000, 0x000012E9] = some (.stw (rg 1), 2) ∧
    dec [0x20000000, 0x00001389] = some (.acas (rg 1) false, 2) ∧ dec [0x20000000, 0x000013E0] = some (.xcput (rg 1), 2) ∧
    dec [0x20000000, 0x000013F4] = some (.rcfg (rg 1), 2) ∧ dec [0x20000000, 0x00801328] = some (.taskService (im 1), 2) ∧
    dec [0x20000000, 0x008013C3] = some (.xabDisarm (im 1), 2) ∧ dec [0x10000000, 0x00001917, 0x80000000, 0x80000000] = some (.vround (rg 1), 4) ∧
    dec [0x20000000] = none ∧ dec [0x10000000, 0x00001917] = none ∧ dec [] = none := by decide +kernel
/-- A table row's word is read as its row and stands where the next step fetches. -/
theorem test_table_word :
    decodeTableWord 32 0x00007200 = some (.add (rg 7) false) ∧ decodeTableWord 32 0x00005880 = some (.vadd (rg 5) true) ∧
    decodeTableWord 32 0x00300000 = some (.idleBundle false 3 false) ∧ (State.reset.withFetchWord 32 0x00007200).mine.iword 0 1 = ⟨0x00007200, true⟩ := by
  decide +kernel

/-! ### Single steps -/

/-- The state after an instruction; the state before it where the machine stops. -/
def aft (i : Instr) (s : State) : State := match exec i s with | .next t => t | _ => s
/-- The result an instruction will deliver, the flags with it and its latency: those of its newest operation. -/
def resOf (i : Instr) (s : State) : Option (Word × BitVec 5 × Nat) :=
  ((aft i s).brush 0 0).flights.getLast?.map (fun f => ((vcSc f.res).v, f.flags, f.due - tm s))
/-- Brush 0 with the latches given, and `v` in s1 for the trigger's data. -/
def ops (l : List (Nat × Word)) (v : Word) : State :=
  st id (fun y => { y with lat := l.map (fun e => (e.1, (⟨e.2, false⟩ : Sc))), s := [(1, ⟨v, false⟩)] })
/-- R235's example. -/
theorem test_field :
    resOf (.ext (rg 1) false) (ops [(0, 0), (1, 0x0804)] 0x12345678) = some (0x67, 0, 1) ∧
    resOf (.ins (rg 1) false) (ops [(0, 0xFFFFFFFFFFFFFFFF), (1, 0x0804)] 0) = some (0xFFFFFFFFFFFFF00F, 0, 1) := by decide +kernel
/-- R236's examples. -/
theorem test_quotients :
    resOf (.div (rg 1)) (ops [(8, BitVec.ofInt 64 (-7))] 2) = some (BitVec.ofInt 64 (-3), 0, 20) ∧
    resOf (.rem (rg 1)) (ops [(8, BitVec.ofInt 64 (-7))] 2) = some (BitVec.ofInt 64 (-1), 0, 20) ∧
    resOf (.div (rg 1)) (ops [(8, 0x8000000000000000)] (0xFFFFFFFFFFFFFFFF)) = some (0x8000000000000000, 0, 20) ∧
    resOf (.remn (rg 1)) (ops [(8, 7)] 0) = some (0xFFFFFFFFFFFFFFFF, BitVec.ofNat 5 fDZ, 20) := by decide +kernel
/-- R234 by hand: the order of operands, the sign, the count's six bits, the unit's own latches. -/
theorem test_address_units :
    resOf (.sub (rg 1) false) (ops [(0, 3), (4, 99)] 5) = some (0xFFFFFFFFFFFFFFFE, 0, 1) ∧ resOf (.rsb (rg 1) true) (ops [(0, 99), (4, 3)] 5) = some (2, 0, 1) ∧
    resOf (.shl (rg 1) false) (ops [(0, 1)] 65) = some (2, 0, 1) ∧
    resOf (.sar (rg 1) false) (ops [(0, 0x8000000000000000)] 63) = some (0xFFFFFFFFFFFFFFFF, 0, 1) ∧
    resOf (.rol (rg 1) false) (ops [(0, 0x8000000000000000)] 1) = some (1, 0, 1) ∧ resOf (.andn (rg 1) false) (ops [(0, 12)] 10) = some (4, 0, 1) := by
  decide +kernel
theorem test_address_units_more :
    resOf (.min (rg 1) false) (ops [(0, 1)] 0xFFFFFFFFFFFFFFFF) = some (0xFFFFFFFFFFFFFFFF, 0, 1) ∧
    resOf (.minn (rg 1) false) (ops [(0, 1)] 0xFFFFFFFFFFFFFFFF) = some (1, 0, 1) ∧
    resOf (.bswap (rg 1) false) (ops [] 0x0102030405060708) = some (0x0807060504030201, 0, 1) ∧
    resOf (.clz (rg 1) false) (ops [] 1) = some (63, 0, 1) ∧ resOf (.ctz (rg 1) false) (ops [] 0) = some (64, 0, 1) ∧
    resOf (.addsat (rg 1) false) (ops [(0, 0x7FFFFFFFFFFFFFFF)] 1) = some (0x7FFFFFFFFFFFFFFF, 0, 1) := by decide +kernel
/-- R236 and R237 by hand. -/
theorem test_products_and_compares :
    resOf (.mulhi (rg 1)) (ops [(8, 0xFFFFFFFFFFFFFFFF)] 1) = some (0xFFFFFFFFFFFFFFFF, 0, 3) ∧ resOf (.mulhn (rg 1)) (ops [(8, 0xFFFFFFFFFFFFFFFF)] 2) = some (1, 0, 3) ∧
    resOf (.mac (rg 1)) (ops [(8, 3), (9, 4)] 5) = some (19, 0, 3) ∧ resOf (.lt (rg 1)) (ops [(11, 0xFFFFFFFFFFFFFFFF)] 0) = some (0xFFFFFFFFFFFFFFFF, 0, 1) ∧
    resOf (.ltn (rg 1)) (ops [(11, 0xFFFFFFFFFFFFFFFF)] 0) = some (0, 0, 1) ∧ resOf (.pfirst (rg 1)) (ops [] 8) = some (3, 0, 1) ∧
    resOf (.plane (rg 1)) (ops [] 5) = some (31, 0, 1) ∧ resOf (.pandn (rg 1)) (ops [(11, 6)] 3) = some (4, 0, 1) := by decide +kernel
/-- One step from placed code: the operation is on its way and the next bundle stands after its two words. -/
theorem test_step_advances :
    (match step codeAt with
      | .next t => (t.brush 0 0).pc == 2 && (t.brush 0 0).flights.length == 1
      | _ => false) = true := by decide +kernel
/-- R222: s0 reads zero and a write to it is ignored; p0 reads all ones. -/
theorem test_wired :
    (aft (.move false (im 5) 0) (st id)).brush 0 0 |> fun y => readS y 0 = Sc.zero ∧ readP y 0 = ⟨BitVec.allOnes 64, false⟩ := by decide +kernel
/-- A move of an immediate is written in the issue cycle (R16); a guard that is false leaves the register alone (R18). -/
theorem test_move :
    readS ((aft (.move false (im 5) 3) (st id)).brush 0 0) 3 = ⟨5, false⟩ ∧ readS ((aft (.move false ⟨true, 0, 0x805⟩ 3) (st id)).brush 0 0) 3 = Sc.zero ∧
    readS ((aft (.move false ⟨false, 0, 0xFFC⟩ 3) (st id)).brush 0 0) 3 = ⟨BitVec.ofInt 64 (-4), false⟩ := by decide +kernel
/-- The digest of "abc", the example of the standard that R361 names (FIPS 180-4). -/
theorem test_sha512 : sha512 [0x61, 0x62, 0x63] =
    0xddaf35a193617abacc417349ae20413112e6fa4e89a97ea20a9eeee64b55d39a2192992a274fc1a836ba3c23a3feebbd454d4423643ce80e2a9ac94fa54ca49f := by
  decide +kernel

end Sys2Proof.Tests
end

section
/-! PROOFS. The lone triggers of A0, A1, SM and PL (12 R234 to R237): the operation that each starts, the trap that keeps one from
starting, and the results of their tables. -/
namespace Sys2Proof.Machine
open Sys2Proof.Claims

/-! ### A lone trigger that traps -/

/-- An operation's trap is the outcome of its lone trigger's effects. -/
theorem solo_effects_error {v : Bool} {ops : Ops} {code : Nat} {m : Trig} {s : State} {t : Trap} (hu : (trigUnit v code).isSome)
    (hc : code < 4096) (hp : passes (soloBundle v m code) s)
    (ht : runTrigger ops { issOf (soloBundle v m code) s with pos := 1 } [] s.started
      (strikeOf s s.cur.1 s.cur.2 (bundleMoves (soloBundle v m code))) s.started (v, soloMove m code) = .error t) :
    effects ops (issOf (soloBundle v m code) s) (soloBundle v m code) s.started = .error t := by
  have hl : (soloBundle v m code).lits = [] := rfl
  have hs : s.started.setCore (issOf (soloBundle v m code) s).c (s.started.core (issOf (soloBundle v m code) s).c) = s.started :=
    State.setCore_core_modBrush _ _ _ _
  have hk : strikeOf s.started (issOf (soloBundle v m code) s).c (issOf (soloBundle v m code) s).b (bundleMoves (soloBundle v m code)) =
      strikeOf s s.cur.1 s.cur.2 (bundleMoves (soloBundle v m code)) := strikeOf_started s _
  have hr : runTriggers ops (issOf (soloBundle v m code) s) [] s.started
      (strikeOf s s.cur.1 s.cur.2 (bundleMoves (soloBundle v m code))) 1 (bundleMoves (soloBundle v m code)) s.started = .error t := by
    generalize strikeOf s s.cur.1 s.cur.2 (bundleMoves (soloBundle v m code)) = k at ht ⊢
    rw [solo_moves]
    unfold runTriggers
    rw [ht]
  unfold effects
  dsimp only
  rw [passes_started hp, applyMoves_triggers _ _ _ _ _ _ _ _ (solo_triggers hu hc), applyMoves_triggers _ _ _ _ _ _ _ _ (solo_triggers hu hc),
    hs, hk, hl, hr]

/-- A lone S-space trigger whose operation traps takes that trap, and does nothing else. -/
theorem issueS_error {code : Nat} {op : SOp} {m : Trig} {s : State} {t : Trap} (hu : (trigUnit false code).isSome) (hc : code < 4096)
    (hp : passes (soloBundle false m code) s) (hg : guardBit s.me (soloMove m code) = true)
    (hop : op (soloIss false code s) (hitS (s.mine.glitch == 3) (readSrcS s s.cur.1 s.cur.2 [] m.src.toNat)) s.started = .error t) :
    issueS code op m s = .next (takeTrap s.cur.1 s.cur.2 t (gangOf s.started s.cur.1 s.cur.2) s.started) := by
  have h := runTrigger_go (ops := { noOps with s := fun _ => op }) hu hc hg
  unfold issueS issue
  dsimp only
  rw [solo_effects_error hu hc hp (h.trans hop)]
  rfl

theorem gangOf_started (s : State) : gangOf s.started s.cur.1 s.cur.2 = gangOf s s.cur.1 s.cur.2 := by
  unfold gangOf; rw [State.core_started]; rfl

/-- An operation meets the latches of its brush as the state before its bundle has them. -/
theorem latch_started (s : State) (n : Nat) : pLat s.started s.cur.1 s.cur.2 n = latch s n := pLat_started s n

/-- Illegal transport is a plain trap: no hold, no rollback and no cadence overrun. -/
theorem takeTrap_badOp (c b code reason : Nat) (gang : List Nat) (s : State) :
    takeTrap c b (badOp code reason) gang s = trapEntry c b (badOp code reason) gang s := rfl

/-! ### What a lone trigger issues -/

/-- The instruction is the lone S-space trigger `m` of `code`, whose meaning is the operation `op`. -/
structure IssuesS (i : Instr) (m : Trig) (code : Nat) (op : SOp) : Prop where
  trig : trigOf i = some (false, m, code)
  exec : ∀ s, exec i s = issueS code op m s
  unit : (trigUnit false code).isSome
  small : code < 4096

namespace IssuesS
variable {i : Instr} {m : Trig} {code : Nat} {op : SOp} {s : State}

theorem codeOf_eq (h : IssuesS i m code op) : codeOf i = code := by unfold codeOf; rw [h.trig]

theorem dataOf_eq (h : IssuesS i m code op) :
    dataOf i s = hitS (s.mine.glitch == 3) (readSrcS s s.cur.1 s.cur.2 [] m.src.toNat) := by unfold dataOf; rw [h.trig]

theorem goes_iff (h : IssuesS i m code op) :
    goes i s ↔ passes (soloBundle false m code) s ∧ guardBit s.me (soloMove m code) = true := by
  constructor
  · rintro ⟨v, m', c, ht, hp, hg⟩
    obtain ⟨rfl, rfl, rfl⟩ : v = false ∧ m' = m ∧ c = code := by simpa [eq_comm] using h.trig.symm.trans ht
    exact ⟨hp, hg⟩
  · rintro ⟨hp, hg⟩
    exact ⟨false, m, code, h.trig, hp, hg⟩

/-- An operation that puts a known result into a latch yields it. -/
theorem yields_of_putS {lat : Nat} {dst : Dst} {r : Sc} {fl : BitVec 5} (h : IssuesS i m code op)
    (hop : op (soloIss false code s) (dataOf i s) s.started = putS lat dst (dataOf i s).v r fl (soloIss false code s) s.started) :
    yields i s lat dst r fl := by
  intro hgo hroom
  obtain ⟨hp, hg⟩ := h.goes_iff.mp hgo
  obtain ⟨t, ht, hs⟩ := issueS_starts (op := op) (f := known i s lat dst r fl) h.unit h.small hp hg
    (by rw [← h.dataOf_eq, hop]; unfold known; rw [h.codeOf_eq]; rfl) hroom
  exact ⟨t, (h.exec s).trans ht, hs⟩

/-- An operation that refuses its trigger makes it illegal transport. -/
theorem illegalFor_of_error {reason : Nat} (h : IssuesS i m code op)
    (hop : op (soloIss false code s) (dataOf i s) s.started = .error (badOp code reason)) : illegalFor i s reason := by
  intro hgo
  obtain ⟨hp, hg⟩ := h.goes_iff.mp hgo
  rw [h.exec, issueS_error h.unit h.small hp hg (by rw [← h.dataOf_eq]; exact hop), takeTrap_badOp, gangOf_started, h.codeOf_eq]
  rfl

end IssuesS

/-- A result that would complete with one in flight to the same latch of the brush is refused (R231). -/
theorem putS_clash {lat n code : Nat} {d : Word} {r : Sc} {fl : BitVec 5} {s : State}
    (hf : ∃ f ∈ s.me.flights, f.dst = some (.ps n) ∧ f.due = tm s + lat) :
    putS lat (.ps n) d r fl (soloIss false code s) s.started = .error (badOp code 14) := by
  obtain ⟨f, hf, hd, hdue⟩ := hf
  have hme : (s.started.core s.cur.1).brush s.cur.2 = s.me.fresh := State.brush_started s
  unfold putS addFlight
  dsimp only [soloIss]
  rw [hme]
  refine if_pos ?_
  simp only [Flight.done, Option.isSome_some, Bool.true_and, Bool.false_eq_true, if_false, List.any_eq_true, Bool.and_eq_true, beq_iff_eq]
  exact ⟨f, hf, hd, hdue⟩

/-! ### A0 and A1 -/

/-- The code of an A operation, by its place in its unit's range (R225). -/
def aCode (u : Bool) (k : Nat) : Nat := if u then 0x240 + k else 0x200 + k

theorem aCode_unit {k : Nat} (hk : k ≤ 0x22) (u : Bool) : (trigUnit false (aCode u k)).isSome := by
  cases u
  · have h : inR 0x200 0x222 (0x200 + k) = true := by simp [inR]; omega
    simp [trigUnit, sTrigUnit, aCode, h]
  · have h : inR 0x240 0x262 (0x240 + k) = true := by simp [inR]; omega
    have h0 : inR 0x200 0x222 (0x240 + k) = false := by simp [inR]; omega
    simp [trigUnit, sTrigUnit, aCode, h, h0]

theorem aCode_lt {k : Nat} (hk : k ≤ 0x22) (u : Bool) : aCode u k < 4096 := by
  unfold aCode; split <;> omega

theorem aBase_aCode {k : Nat} (hk : k ≤ 0x22) (u : Bool) : aBase (aCode u k) = a u := by
  cases u
  · exact if_pos (show 0x200 + k < 0x240 by omega)
  · exact if_neg (show ¬ 0x240 + k < 0x240 by omega)

/-- The instruction is the A operation at place `k` of unit `u`'s codes, and its meaning is `op`. -/
structure IssuesA (i : Instr) (m : Trig) (u : Bool) (op : SOp) (k : Nat) : Prop where
  place : k ≤ 0x22
  trig : trigOf i = some (false, m, aCode u k)
  exec : ∀ s, exec i s = issueS (aCode u k) op m s

theorem IssuesA.issuesS {i : Instr} {m : Trig} {u : Bool} {op : SOp} {k : Nat} (h : IssuesA i m u op k) : IssuesS i m (aCode u k) op :=
  ⟨h.trig, h.exec, aCode_unit h.place u, aCode_lt h.place u⟩

/-! ### The words of the tables -/

/-- Sign extension of the low `w` bits. -/
theorem signExtend_setWidth_eq_sxt {w : Nat} (hw : 0 < w) (d : Word) : (d.setWidth w).signExtend 64 = sxt w d := by
  have htwo : 2 ^ w = 2 * 2 ^ (w - 1) := by rw [← Nat.pow_succ']; congr 1; omega
  unfold sxt BitVec.signExtend
  rw [BitVec.toInt_eq_toNat_cond, BitVec.toNat_setWidth]
  congr 1
  by_cases h : 2 ^ (w - 1) ≤ d.toNat % 2 ^ w
  · rw [if_neg (by omega), if_pos h]; push_cast; rfl
  · rw [if_pos (by omega), if_neg h, Int.sub_zero]

/-- Zero extension of the low `w` bits. -/
theorem setWidth_setWidth_eq_zxt (w : Nat) (d : Word) : (d.setWidth w).setWidth 64 = zxt w d := by
  apply BitVec.eq_of_toNat_eq
  simp [zxt]

theorem sat64_eq_saturated (x : Int) : sat64 x = saturated x := by
  have hmin : intMin 0x26 = -2 ^ 63 := by decide
  have hmax : intMax 0x26 = 2 ^ 63 - 1 := by decide
  unfold sat64 saturated satInt
  rw [hmin, hmax]

theorem clz64_eq_leading (d : Word) : clz64 d = leading d := clz64_eq d
theorem ctzFrom_eq_trailing (d : Word) : ctzFrom d.toNat 64 = trailing d := ctzFrom_eq 64 d.toNat
theorem popFrom_eq_ones (d : Word) : popFrom d.toNat 64 = ones d := popFrom_eq 64 d.toNat

theorem allOnes_word : BitVec.allOnes 64 = (0xFFFFFFFFFFFFFFFF : Word) := by decide
theorem tf_eq_truth (b : Bool) : tf b = truth b := by cases b <;> rfl

/-- The lane mask of `plane`: the low `n` bits, all of them from 64 on (R237). -/
theorem two_pow_min_sub_one (n : Nat) : 2 ^ Nat.min n 64 - 1 = if 64 ≤ n then 2 ^ 64 - 1 else 2 ^ n - 1 := by
  show 2 ^ min n 64 - 1 = _
  split
  · rw [Nat.min_eq_right ‹_›]
  · rw [Nat.min_eq_left (by omega)]

/-! ### Operations as the tables give them -/

theorem trigShl_eq : trigShl = aluBin (fun o d => o <<< (d.toNat % 64)) := by simp only [trigShl, shCount_eq]
theorem trigShr_eq : trigShr = aluBin (fun o d => o >>> (d.toNat % 64)) := by simp only [trigShr, shCount_eq]
theorem trigSar_eq : trigSar = aluBin (fun o d => o.sshiftRight (d.toNat % 64)) := by simp only [trigSar, shCount_eq]
theorem trigRol_eq : trigRol = aluBin (fun o d => o <<< (d.toNat % 64) ||| o >>> (64 - d.toNat % 64)) := by
  simp only [trigRol, shCount_eq, BitVec.rotateLeft_def, Nat.mod_mod]
theorem trigRor_eq : trigRor = aluBin (fun o d => o >>> (d.toNat % 64) ||| o <<< (64 - d.toNat % 64)) := by
  simp only [trigRor, shCount_eq, BitVec.rotateRight_def, Nat.mod_mod]
theorem trigMin_eq : trigMin = aluBin (fun o d => if o.toInt ≤ d.toInt then o else d) := by
  simp only [trigMin, BitVec.slt_iff_toInt_lt, ← Int.not_le, ite_not]
theorem trigMax_eq : trigMax = aluBin (fun o d => if d.toInt ≤ o.toInt then o else d) := by
  simp only [trigMax, BitVec.slt_iff_toInt_lt, ← Int.not_le, ite_not]
theorem trigMinn_eq : trigMinn = aluBin (fun o d => if o.toNat ≤ d.toNat then o else d) := by
  simp only [trigMinn, BitVec.ult_iff_lt, BitVec.lt_def, ← Nat.not_le, ite_not]
theorem trigMaxn_eq : trigMaxn = aluBin (fun o d => if d.toNat ≤ o.toNat then o else d) := by
  simp only [trigMaxn, BitVec.ult_iff_lt, BitVec.lt_def, ← Nat.not_le, ite_not]
theorem trigAddsat_eq : trigAddsat = aluBin (fun o d => saturated (o.toInt + d.toInt)) := by simp only [trigAddsat, sat64_eq_saturated]
theorem trigSubsat_eq : trigSubsat = aluBin (fun o d => saturated (o.toInt - d.toInt)) := by simp only [trigSubsat, sat64_eq_saturated]
theorem trigSxb_eq : trigSxb = aluUn (sxt 8) := congrArg aluUn (funext (signExtend_setWidth_eq_sxt (by decide)))
theorem trigSxh_eq : trigSxh = aluUn (sxt 16) := congrArg aluUn (funext (signExtend_setWidth_eq_sxt (by decide)))
theorem trigSxw_eq : trigSxw = aluUn (sxt 32) := congrArg aluUn (funext (signExtend_setWidth_eq_sxt (by decide)))
theorem trigZxb_eq : trigZxb = aluUn (zxt 8) := congrArg aluUn (funext (setWidth_setWidth_eq_zxt 8))
theorem trigZxh_eq : trigZxh = aluUn (zxt 16) := congrArg aluUn (funext (setWidth_setWidth_eq_zxt 16))
theorem trigZxw_eq : trigZxw = aluUn (zxt 32) := congrArg aluUn (funext (setWidth_setWidth_eq_zxt 32))
theorem trigClz_eq : trigClz = aluUn (fun d => BitVec.ofNat 64 (leading d)) := by simp only [trigClz, clz64_eq_leading, w64]
theorem trigCtz_eq : trigCtz = aluUn (fun d => BitVec.ofNat 64 (trailing d)) := by simp only [trigCtz, ctzFrom_eq_trailing, w64]
theorem trigPopc_eq : trigPopc = aluUn (fun d => BitVec.ofNat 64 (ones d)) := by simp only [trigPopc, popFrom_eq_ones, w64]
theorem trigBswap_eq : trigBswap =
    aluUn (fun d => BitVec.ofNat 64 ((List.range 8).foldl (fun v i => v + d.toNat / 256 ^ i % 256 * 256 ^ (7 - i)) 0)) := by
  simp only [trigBswap, bswap_eq, w64]
theorem trigBrev_eq : trigBrev = aluUn (fun d => d.reverse) := by simp only [trigBrev, brev_eq]

theorem trigRem_eq : trigRem = smDiv (fun o d => BitVec.ofInt 64 (o.toInt - d.toInt * o.toInt.tdiv d.toInt)) := by
  simp only [trigRem, Int.tmod_def]

theorem trigEq_eq : trigEq = plBin (fun o d => truth (o = d)) := by simp only [trigEq, tf_eq_truth, beq_eq_decide]
theorem trigNe_eq : trigNe = plBin (fun o d => truth (o ≠ d)) := by simp only [trigNe, tf_eq_truth, bne, beq_eq_decide, decide_not]
theorem trigLt_eq : trigLt = plBin (fun o d => truth (o.toInt < d.toInt)) := by simp only [trigLt, tf_eq_truth, BitVec.slt_eq_decide]
theorem trigLe_eq : trigLe = plBin (fun o d => truth (o.toInt ≤ d.toInt)) := by simp only [trigLe, tf_eq_truth, BitVec.sle_eq_decide]
theorem trigLtn_eq : trigLtn = plBin (fun o d => truth (o.toNat < d.toNat)) := by simp only [trigLtn, tf_eq_truth, BitVec.ult]
theorem trigLen_eq : trigLen = plBin (fun o d => truth (o.toNat ≤ d.toNat)) := by simp only [trigLen, tf_eq_truth, BitVec.ule]
theorem trigTst_eq : trigTst = plBin (fun o d => truth (o &&& d ≠ 0)) := by simp only [trigTst, tf_eq_truth, bne, beq_eq_decide, decide_not]
theorem trigPcnt_eq : trigPcnt = plUn (fun d => BitVec.ofNat 64 (ones d)) := by simp only [trigPcnt, popFrom_eq_ones, w64]
theorem trigPfirst_eq : trigPfirst = plUn (fun d => BitVec.ofNat 64 (trailing d)) := by simp only [trigPfirst, ctzFrom_eq_trailing, w64]
theorem trigPany_eq : trigPany = plUn (fun d => truth (d ≠ 0)) := by simp only [trigPany, tf_eq_truth, bne, beq_eq_decide, decide_not]
theorem trigPall_eq : trigPall = plUn (fun d => truth (d = 0xFFFFFFFFFFFFFFFF)) := by
  simp only [trigPall, tf_eq_truth, beq_eq_decide, allOnes_word]
theorem trigPlane_eq : trigPlane = plUn (fun d => BitVec.ofNat 64 (if 64 ≤ d.toNat then 2 ^ 64 - 1 else 2 ^ d.toNat - 1)) := by
  simp only [trigPlane, two_pow_min_sub_one, w64]

/-! ### Operations of A0 and A1 -/

section
variable {i : Instr} {m : Trig} {u : Bool} {k : Nat}

theorem IssuesA.of_eq {op op' : SOp} (e : op = op') (h : IssuesA i m u op k) : IssuesA i m u op' k := e ▸ h

/-- An operation of o and d yields the function of both, poisoned if either is (R233, R234). -/
theorem IssuesA.yields_aluBin {f : Word → Word → Word} (h : IssuesA i m u (aluBin f) k) (s : State) :
    yields i s 1 (.ps (a u + 3)) ⟨f (latch s (a u)).v (dataOf i s).v, (latch s (a u)).p || (dataOf i s).p⟩ 0 := by
  refine h.issuesS.yields_of_putS ?_
  simp only [aluBin, soloIss, aBase_aCode h.place, latch_started]

/-- An operation of d alone yields its function (R234). -/
theorem IssuesA.yields_aluUn {f : Word → Word} (h : IssuesA i m u (aluUn f) k) (s : State) :
    yields i s 1 (.ps (a u + 3)) ⟨f (dataOf i s).v, (dataOf i s).p⟩ 0 := by
  refine h.issuesS.yields_of_putS ?_
  simp only [aluUn, soloIss, aBase_aCode h.place]

/-- `sel` yields o or d by bit 0 of A.p (R234). -/
theorem IssuesA.yields_aluSel (h : IssuesA i m u aluSel k) (s : State) :
    yields i s 1 (.ps (a u + 3))
      ⟨if (latch s (a u + 2)).v.getLsbD 0 then (latch s (a u)).v else (dataOf i s).v,
       (latch s (a u)).p || (latch s (a u + 2)).p || (dataOf i s).p⟩ 0 := by
  refine h.issuesS.yields_of_putS ?_
  simp only [aluSel, soloIss, aBase_aCode h.place, latch_started]

/-- A field operation yields its function of the field that A.c names (R235). -/
theorem IssuesA.yields_aluField {useO : Bool} {f : Nat → Nat → Nat → Nat → Nat} (h : IssuesA i m u (aluField useO f) k) {s : State}
    {pos wid : Nat} (hf : fieldOf (latch s (a u + 1)).v = some (pos, wid)) :
    yields i s 1 (.ps (a u + 3))
      ⟨w64 (f pos wid (latch s (a u)).v.toNat (dataOf i s).v.toNat),
       (useO && (latch s (a u)).p) || (latch s (a u + 1)).p || (dataOf i s).p⟩ 0 := by
  refine h.issuesS.yields_of_putS ?_
  simp only [aluField, soloIss, aBase_aCode h.place, latch_started, hf]

/-- Without a valid field in A.c a field operation is illegal transport (R235). -/
theorem IssuesA.illegalFor_aluField {useO : Bool} {f : Nat → Nat → Nat → Nat → Nat} (h : IssuesA i m u (aluField useO f) k) {s : State}
    (hf : fieldOf (latch s (a u + 1)).v = none) : illegalFor i s 16 := by
  refine h.issuesS.illegalFor_of_error ?_
  simp only [aluField, soloIss, aBase_aCode h.place, latch_started, hf]

end

/-- The A operations of o and d are those of their table (R234). -/
theorem aRows2_issuesA : ∀ r ∈ aRows2, ∀ m u, ∃ k, IssuesA (r.1 m u) m u (aluBin r.2) k := by
  simp only [aRows2, List.forall_mem_cons]
  exact ⟨fun m u => ⟨0x00, by decide, rfl, fun _ => rfl⟩, fun m u => ⟨0x01, by decide, rfl, fun _ => rfl⟩,
    fun m u => ⟨0x02, by decide, rfl, fun _ => rfl⟩, fun m u => ⟨0x03, by decide, rfl, fun _ => rfl⟩,
    fun m u => ⟨0x04, by decide, rfl, fun _ => rfl⟩, fun m u => ⟨0x05, by decide, rfl, fun _ => rfl⟩,
    fun m u => ⟨0x06, by decide, rfl, fun _ => rfl⟩, fun m u => ⟨0x07, by decide, rfl, fun _ => rfl⟩,
    fun m u => ⟨0x08, by decide, rfl, fun _ => rfl⟩,
    fun m u => ⟨0x09, .of_eq trigShl_eq ⟨by decide, rfl, fun _ => rfl⟩⟩,
    fun m u => ⟨0x0A, .of_eq trigShr_eq ⟨by decide, rfl, fun _ => rfl⟩⟩,
    fun m u => ⟨0x0B, .of_eq trigSar_eq ⟨by decide, rfl, fun _ => rfl⟩⟩,
    fun m u => ⟨0x0C, .of_eq trigRol_eq ⟨by decide, rfl, fun _ => rfl⟩⟩,
    fun m u => ⟨0x0D, .of_eq trigRor_eq ⟨by decide, rfl, fun _ => rfl⟩⟩,
    fun m u => ⟨0x0E, .of_eq trigMin_eq ⟨by decide, rfl, fun _ => rfl⟩⟩,
    fun m u => ⟨0x0F, .of_eq trigMax_eq ⟨by decide, rfl, fun _ => rfl⟩⟩,
    fun m u => ⟨0x10, .of_eq trigMinn_eq ⟨by decide, rfl, fun _ => rfl⟩⟩,
    fun m u => ⟨0x11, .of_eq trigMaxn_eq ⟨by decide, rfl, fun _ => rfl⟩⟩,
    fun m u => ⟨0x1E, .of_eq trigAddsat_eq ⟨by decide, rfl, fun _ => rfl⟩⟩,
    fun m u => ⟨0x1F, .of_eq trigSubsat_eq ⟨by decide, rfl, fun _ => rfl⟩⟩, List.forall_mem_nil _⟩

/-- The A operations of d alone are those of their table (R234). -/
theorem aRows1_issuesA : ∀ r ∈ aRows1, ∀ m u, ∃ k, IssuesA (r.1 m u) m u (aluUn r.2) k := by
  simp only [aRows1, List.forall_mem_cons]
  exact ⟨fun m u => ⟨0x12, .of_eq trigSxb_eq ⟨by decide, rfl, fun _ => rfl⟩⟩,
    fun m u => ⟨0x13, .of_eq trigSxh_eq ⟨by decide, rfl, fun _ => rfl⟩⟩,
    fun m u => ⟨0x14, .of_eq trigSxw_eq ⟨by decide, rfl, fun _ => rfl⟩⟩,
    fun m u => ⟨0x15, .of_eq trigZxb_eq ⟨by decide, rfl, fun _ => rfl⟩⟩,
    fun m u => ⟨0x16, .of_eq trigZxh_eq ⟨by decide, rfl, fun _ => rfl⟩⟩,
    fun m u => ⟨0x17, .of_eq trigZxw_eq ⟨by decide, rfl, fun _ => rfl⟩⟩,
    fun m u => ⟨0x18, .of_eq trigClz_eq ⟨by decide, rfl, fun _ => rfl⟩⟩,
    fun m u => ⟨0x19, .of_eq trigCtz_eq ⟨by decide, rfl, fun _ => rfl⟩⟩,
    fun m u => ⟨0x1A, .of_eq trigPopc_eq ⟨by decide, rfl, fun _ => rfl⟩⟩,
    fun m u => ⟨0x1B, .of_eq trigBswap_eq ⟨by decide, rfl, fun _ => rfl⟩⟩,
    fun m u => ⟨0x1C, .of_eq trigBrev_eq ⟨by decide, rfl, fun _ => rfl⟩⟩,
    fun m u => ⟨0x1D, by decide, rfl, fun _ => rfl⟩, List.forall_mem_nil _⟩

theorem issuesA_sel (m : Trig) (u : Bool) : IssuesA (.sel m u) m u aluSel 0x20 := ⟨by decide, rfl, fun _ => rfl⟩
theorem issuesA_ext (m : Trig) (u : Bool) : IssuesA (.ext m u) m u (aluField false (fun pos wid _ d => d / 2 ^ pos % 2 ^ wid)) 0x21 :=
  ⟨by decide, rfl, fun _ => rfl⟩
theorem issuesA_ins (m : Trig) (u : Bool) : IssuesA (.ins m u) m u
    (aluField true (fun pos wid o d => o - o / 2 ^ pos % 2 ^ wid * 2 ^ pos + d % 2 ^ wid * 2 ^ pos)) 0x22 :=
  ⟨by decide, rfl, fun _ => rfl⟩

/-! ### Fields (R235) -/

/-- The bits of a field word that are not reserved: POS in bits 5:0 and WID in bits 14:8. -/
theorem and_fieldMask (n : Nat) : n &&& 0x7F3F = n % 64 + n / 256 % 128 * 256 := by
  have hdiv : (n &&& 0x7F3F) / 2 ^ 8 = n / 256 % 128 := by
    rw [Nat.and_div_two_pow]; exact Nat.and_two_pow_sub_one_eq_mod (n / 256) 7
  have hmod : (n &&& 0x7F3F) % 2 ^ 8 = n % 64 := by
    rw [Nat.and_mod_two_pow]
    exact (Nat.and_two_pow_sub_one_eq_mod (n % 256) 6).trans (Nat.mod_mod_of_dvd n (by decide))
  omega

/-- The reserved bits are 0 where the word is its two fields. -/
theorem reserved_zero_iff (c : Word) : c &&& ~~~(0x7F3F : Word) = 0 ↔ c.toNat = c.toNat % 64 + c.toNat / 256 % 128 * 256 := by
  have hmask : c &&& ~~~(0x7F3F : Word) = 0 ↔ c &&& 0x7F3F = c := by
    constructor
    · intro h
      calc c &&& 0x7F3F = (c &&& 0x7F3F) ||| (c &&& ~~~(0x7F3F : Word)) := by rw [h]; simp
        _ = c := by rw [← BitVec.and_or_distrib_left, BitVec.or_not_self, BitVec.and_allOnes]
    · intro h
      rw [← h, BitVec.and_assoc, BitVec.and_not_self]; simp
  rw [hmask, ← and_fieldMask, ← BitVec.toNat_inj, BitVec.toNat_and, eq_comm]
  rfl

theorem fieldOf_eq_some_iff (c : Word) (pos wid : Nat) : fieldOf c = some (pos, wid) ↔ goodField c pos wid := by
  have hpos : (c.extractLsb' 0 6).toNat = c.toNat % 64 := by simp [BitVec.extractLsb'_toNat]
  have hwid : (c.extractLsb' 8 7).toNat = c.toNat / 256 % 128 := by simp [BitVec.extractLsb'_toNat, Nat.shiftRight_eq_div_pow]
  unfold fieldOf goodField
  rw [hpos, hwid]
  dsimp only
  simp only [ne_eq, reserved_zero_iff]
  rw [← BitVec.toNat_inj, BitVec.toNat_ofNat]
  constructor
  · intro h
    split at h
    · cases h
    · simp only [Option.some.injEq, Prod.mk.injEq] at h
      omega
  · rintro ⟨hc, h1, h2, h3⟩
    rw [if_neg (by omega)]
    simp only [Option.some.injEq, Prod.mk.injEq]
    omega

theorem fieldOf_eq_none {c : Word} (h : ∀ pos wid, ¬ goodField c pos wid) : fieldOf c = none := by
  cases hf : fieldOf c with
  | none => rfl
  | some p => exact absurd ((fieldOf_eq_some_iff c p.1 p.2).mp hf) (h p.1 p.2)

/-- Taking a field out of a number leaves the bits below and above it. -/
theorem sub_field_eq (o pos wid : Nat) :
    o - o / 2 ^ pos % 2 ^ wid * 2 ^ pos = o % 2 ^ pos + o / 2 ^ (pos + wid) * 2 ^ (pos + wid) := by
  have hlow : o = o / 2 ^ pos * 2 ^ pos + o % 2 ^ pos := (Nat.div_add_mod' o _).symm
  have hhigh : o / 2 ^ pos * 2 ^ pos = o / 2 ^ (pos + wid) * 2 ^ (pos + wid) + o / 2 ^ pos % 2 ^ wid * 2 ^ pos := by
    calc o / 2 ^ pos * 2 ^ pos = (o / 2 ^ pos / 2 ^ wid * 2 ^ wid + o / 2 ^ pos % 2 ^ wid) * 2 ^ pos := by rw [Nat.div_add_mod']
      _ = _ := by rw [Nat.div_div_eq_div_mul, Nat.pow_add]; ring
  omega

/-! ### SM and PL -/

section
variable {i : Instr} {m : Trig} {code : Nat} {s : State}

theorem IssuesS.of_eq {op op' : SOp} (e : op = op') (h : IssuesS i m code op) : IssuesS i m code op' := e ▸ h

/-- A product (R236). -/
theorem IssuesS.yields_smMul {f : Word → Word → Word} (h : IssuesS i m code (smMul f)) :
    yields i s 3 (.ps 10) ⟨f (latch s 8).v (dataOf i s).v, (latch s 8).p || (dataOf i s).p⟩ 0 :=
  h.yields_of_putS (by simp only [smMul, soloIss, latch_started])

theorem IssuesS.yields_trigMac (h : IssuesS i m code trigMac) :
    yields i s 3 (.ps 10) ⟨(latch s 8).v * (dataOf i s).v + (latch s 9).v, (latch s 8).p || (dataOf i s).p || (latch s 9).p⟩ 0 :=
  h.yields_of_putS (by simp only [trigMac, soloIss, latch_started])

/-- A quotient or remainder by a divisor that is not zero (R236). -/
theorem IssuesS.yields_smDiv {f : Word → Word → Word} (h : IssuesS i m code (smDiv f)) (hd : (dataOf i s).v ≠ 0) :
    yields i s 20 (.ps 10) ⟨f (latch s 8).v (dataOf i s).v, (latch s 8).p || (dataOf i s).p⟩ 0 :=
  h.yields_of_putS (by simp only [smDiv, soloIss, if_neg hd, latch_started])

/-- A quotient or remainder by zero (R236). -/
theorem IssuesS.yields_smDiv_zero {f : Word → Word → Word} (h : IssuesS i m code (smDiv f)) (hd : (dataOf i s).v = 0) :
    yields i s 20 (.ps 10) ⟨0xFFFFFFFFFFFFFFFF, (latch s 8).p || (dataOf i s).p⟩ 0b10000 :=
  h.yields_of_putS (by simp only [smDiv, soloIss, if_pos hd, latch_started]; rfl)

/-- The products clash with a result due in three cycles, the divisions with one due in twenty (R231, R236). -/
theorem IssuesS.illegalFor_smMul {f : Word → Word → Word} (h : IssuesS i m code (smMul f))
    (hf : ∃ f ∈ s.me.flights, f.dst = some (.ps 10) ∧ f.due = tm s + 3) : illegalFor i s 14 :=
  h.illegalFor_of_error (by unfold smMul; exact putS_clash hf)

theorem IssuesS.illegalFor_trigMac (h : IssuesS i m code trigMac)
    (hf : ∃ f ∈ s.me.flights, f.dst = some (.ps 10) ∧ f.due = tm s + 3) : illegalFor i s 14 :=
  h.illegalFor_of_error (by unfold trigMac; exact putS_clash hf)

theorem IssuesS.illegalFor_smDiv {f : Word → Word → Word} (h : IssuesS i m code (smDiv f))
    (hf : ∃ f ∈ s.me.flights, f.dst = some (.ps 10) ∧ f.due = tm s + 20) : illegalFor i s 14 :=
  h.illegalFor_of_error (by unfold smDiv; dsimp only; split <;> exact putS_clash hf)

/-- A PL operation of o and d (R237). -/
theorem IssuesS.yields_plBin {f : Word → Word → Word} (h : IssuesS i m code (plBin f)) :
    yields i s 1 (.ps 12) ⟨f (latch s 11).v (dataOf i s).v, (latch s 11).p || (dataOf i s).p⟩ 0 :=
  h.yields_of_putS (by simp only [plBin, soloIss, latch_started])

/-- A PL operation of d alone (R237). -/
theorem IssuesS.yields_plUn {f : Word → Word} (h : IssuesS i m code (plUn f)) :
    yields i s 1 (.ps 12) ⟨f (dataOf i s).v, (dataOf i s).p⟩ 0 :=
  h.yields_of_putS rfl

end

/-- The products are those of their table (R236). -/
theorem mRows_issuesS : ∀ r ∈ mRows, ∀ m, ∃ code, IssuesS (r.1 m) m code (smMul r.2) := by
  simp only [mRows, List.forall_mem_cons]
  exact ⟨fun m => ⟨0x280, rfl, fun _ => rfl, by decide, by decide⟩, fun m => ⟨0x281, rfl, fun _ => rfl, by decide, by decide⟩,
    fun m => ⟨0x282, rfl, fun _ => rfl, by decide, by decide⟩, List.forall_mem_nil _⟩

theorem issuesS_mac (m : Trig) : IssuesS (.mac m) m 0x283 trigMac := ⟨rfl, fun _ => rfl, by decide, by decide⟩

/-- The quotients and remainders are those of their table (R236). -/
theorem dRows_issuesS : ∀ r ∈ dRows, ∀ m, ∃ code, IssuesS (r.1 m) m code (smDiv r.2) := by
  simp only [dRows, List.forall_mem_cons]
  exact ⟨fun m => ⟨0x284, rfl, fun _ => rfl, by decide, by decide⟩, fun m => ⟨0x285, rfl, fun _ => rfl, by decide, by decide⟩,
    fun m => ⟨0x286, .of_eq trigRem_eq ⟨rfl, fun _ => rfl, by decide, by decide⟩⟩,
    fun m => ⟨0x287, rfl, fun _ => rfl, by decide, by decide⟩, List.forall_mem_nil _⟩

/-- The PL operations of o and d are those of their table (R237). -/
theorem pRows2_issuesS : ∀ r ∈ pRows2, ∀ m, ∃ code, IssuesS (r.1 m) m code (plBin r.2) := by
  simp only [pRows2, List.forall_mem_cons]
  exact ⟨fun m => ⟨0x2A0, .of_eq trigEq_eq ⟨rfl, fun _ => rfl, by decide, by decide⟩⟩,
    fun m => ⟨0x2A1, .of_eq trigNe_eq ⟨rfl, fun _ => rfl, by decide, by decide⟩⟩,
    fun m => ⟨0x2A2, .of_eq trigLt_eq ⟨rfl, fun _ => rfl, by decide, by decide⟩⟩,
    fun m => ⟨0x2A3, .of_eq trigLe_eq ⟨rfl, fun _ => rfl, by decide, by decide⟩⟩,
    fun m => ⟨0x2A4, .of_eq trigLtn_eq ⟨rfl, fun _ => rfl, by decide, by decide⟩⟩,
    fun m => ⟨0x2A5, .of_eq trigLen_eq ⟨rfl, fun _ => rfl, by decide, by decide⟩⟩,
    fun m => ⟨0x2A6, .of_eq trigTst_eq ⟨rfl, fun _ => rfl, by decide, by decide⟩⟩,
    fun m => ⟨0x2A7, rfl, fun _ => rfl, by decide, by decide⟩, fun m => ⟨0x2A8, rfl, fun _ => rfl, by decide, by decide⟩,
    fun m => ⟨0x2A9, rfl, fun _ => rfl, by decide, by decide⟩, fun m => ⟨0x2AA, rfl, fun _ => rfl, by decide, by decide⟩,
    List.forall_mem_nil _⟩

/-- The PL operations of d alone are those of their table (R237). -/
theorem pRows1_issuesS : ∀ r ∈ pRows1, ∀ m, ∃ code, IssuesS (r.1 m) m code (plUn r.2) := by
  simp only [pRows1, List.forall_mem_cons]
  exact ⟨fun m => ⟨0x2AB, rfl, fun _ => rfl, by decide, by decide⟩,
    fun m => ⟨0x2AC, .of_eq trigPcnt_eq ⟨rfl, fun _ => rfl, by decide, by decide⟩⟩,
    fun m => ⟨0x2AD, .of_eq trigPfirst_eq ⟨rfl, fun _ => rfl, by decide, by decide⟩⟩,
    fun m => ⟨0x2AE, .of_eq trigPany_eq ⟨rfl, fun _ => rfl, by decide, by decide⟩⟩,
    fun m => ⟨0x2AF, .of_eq trigPall_eq ⟨rfl, fun _ => rfl, by decide, by decide⟩⟩,
    fun m => ⟨0x2B0, .of_eq trigPlane_eq ⟨rfl, fun _ => rfl, by decide, by decide⟩⟩,
    fun m => ⟨0x2B1, rfl, fun _ => rfl, by decide, by decide⟩, List.forall_mem_nil _⟩

/-! ### The statements -/

/-- Settles O1: each A operation is that of its table, and yields its result; a field word that is no good field is refused. -/
theorem addressUnitResults : Obligations.AddressUnitResults := by
  refine ⟨fun r hr m u s => ?bin, fun r hr m u s => ?un, fun m u s => (issuesA_sel m u).yields_aluSel s,
    fun m u s pos wid hf => ?ext, fun m u s pos wid hf => ?ins, fun m u s hf => ?bad⟩
  case bin =>
    obtain ⟨k, h⟩ := aRows2_issuesA r hr m u
    exact h.yields_aluBin s
  case un =>
    obtain ⟨k, h⟩ := aRows1_issuesA r hr m u
    exact h.yields_aluUn s
  case ext => exact (issuesA_ext m u).yields_aluField ((fieldOf_eq_some_iff _ _ _).mpr hf)
  case ins =>
    have h := (issuesA_ins m u).yields_aluField ((fieldOf_eq_some_iff _ _ _).mpr hf)
    rw [sub_field_eq, Nat.add_right_comm] at h
    exact h
  case bad =>
    exact ⟨(issuesA_ext m u).illegalFor_aluField (fieldOf_eq_none hf), (issuesA_ins m u).illegalFor_aluField (fieldOf_eq_none hf)⟩

/-- Settles O2: each SM operation is that of its table; it yields its result, or is refused where one in flight completes with it. -/
theorem multiplyResults : Obligations.MultiplyResults := by
  refine ⟨fun r hr m s => ?mul, fun m s => (issuesS_mac m).yields_trigMac, fun r hr m s hd => ?div, fun r hr m s hd => ?zero,
    fun m s hf => ?clash3, fun m s hf => ?clash20⟩
  case mul =>
    obtain ⟨code, h⟩ := mRows_issuesS r hr m
    exact h.yields_smMul
  case div =>
    obtain ⟨code, h⟩ := dRows_issuesS r hr m
    exact h.yields_smDiv hd
  case zero =>
    obtain ⟨code, h⟩ := dRows_issuesS r hr m
    exact h.yields_smDiv_zero hd
  case clash3 =>
    have hrows : ∀ r ∈ mRows, illegalFor (r.1 m) s 14 := fun r hr => by
      obtain ⟨code, h⟩ := mRows_issuesS r hr m
      exact h.illegalFor_smMul hf
    simp only [mRows, List.forall_mem_cons] at hrows
    obtain ⟨hmul, hmulhi, hmulhn, -⟩ := hrows
    simp only [List.forall_mem_cons]
    exact ⟨hmul, hmulhi, hmulhn, (issuesS_mac m).illegalFor_trigMac hf, List.forall_mem_nil _⟩
  case clash20 =>
    have hrows : ∀ r ∈ dRows, illegalFor (r.1 m) s 14 := fun r hr => by
      obtain ⟨code, h⟩ := dRows_issuesS r hr m
      exact h.illegalFor_smDiv hf
    simp only [dRows, List.forall_mem_cons] at hrows
    obtain ⟨hdiv, hdivn, hrem, hremn, -⟩ := hrows
    simp only [List.forall_mem_cons]
    exact ⟨hdiv, hdivn, hrem, hremn, List.forall_mem_nil _⟩

/-- Settles O3: each PL operation is that of its table, and yields its result. -/
theorem predicateResults : Obligations.PredicateResults := by
  refine ⟨fun r hr m s => ?bin, fun r hr m s => ?un⟩
  case bin =>
    obtain ⟨code, h⟩ := pRows2_issuesS r hr m
    exact h.yields_plBin
  case un =>
    obtain ⟨code, h⟩ := pRows1_issuesS r hr m
    exact h.yields_plUn

end Sys2Proof.Machine
end
